-- ==== Sys2Proof/Word.lean ====
section
/-! DEFINITION. The word types of the machine (rules R6, R8): bytes, halfwords, 32-bit words, 64-bit doublewords. -/

namespace Sys2Proof

/-- An 8-bit byte. -/
abbrev Byte := BitVec 8

/-- A 16-bit halfword, the parcel of instruction fetch (rule R200). -/
abbrev Half := BitVec 16

/-- A 32-bit word: XLEN and the address width are 32 (rule R6). -/
abbrev Word := BitVec 32

/-- A 64-bit doubleword: a floating-point register (rule R26) or a counter (rule R59). -/
abbrev Dword := BitVec 64

/-- A 5-bit register number (rule R11). -/
abbrev Reg := BitVec 5

/-- A 3-bit register field of a compressed instruction (rule R222). -/
abbrev CReg := BitVec 3

end Sys2Proof
end

