-- ==== Sys2Proof/Syntax.lean ====
section
/-! DEFINITION. The instructions (rules R261 to R311, R330 to R337, R354 to R364, R390 to R415, R440 to R465, R485 to R511,
R533 to R545): one constructor per row of spec/opcode_table.json. Register operands are register numbers, immediates
the unscaled fields that the manual names (rules R202, R221, R483). -/

namespace Sys2Proof

/-- The instructions of the core. -/
inductive Instr where
  /-- ADD (rule R261). -/
  | add (rd rs1 rs2 : Reg)
  /-- ADDI (rule R262). -/
  | addi (rd rs1 : Reg) (imm : BitVec 12)
  /-- SUB (rule R263). -/
  | sub (rd rs1 rs2 : Reg)
  /-- AND (rule R264). -/
  | and (rd rs1 rs2 : Reg)
  /-- ANDI (rule R265). -/
  | andi (rd rs1 : Reg) (imm : BitVec 12)
  /-- OR (rule R266). -/
  | or (rd rs1 rs2 : Reg)
  /-- ORI (rule R267). -/
  | ori (rd rs1 : Reg) (imm : BitVec 12)
  /-- XOR (rule R268). -/
  | xor (rd rs1 rs2 : Reg)
  /-- XORI (rule R269). -/
  | xori (rd rs1 : Reg) (imm : BitVec 12)
  /-- SLL (rule R270). -/
  | sll (rd rs1 rs2 : Reg)
  /-- SLLI (rule R271). -/
  | slli (rd rs1 : Reg) (shamt : BitVec 5)
  /-- SRL (rule R272). -/
  | srl (rd rs1 rs2 : Reg)
  /-- SRLI (rule R273). -/
  | srli (rd rs1 : Reg) (shamt : BitVec 5)
  /-- SRA (rule R274). -/
  | sra (rd rs1 rs2 : Reg)
  /-- SRAI (rule R275). -/
  | srai (rd rs1 : Reg) (shamt : BitVec 5)
  /-- SLT (rule R276). -/
  | slt (rd rs1 rs2 : Reg)
  /-- SLTU (rule R277). -/
  | sltu (rd rs1 rs2 : Reg)
  /-- SLTI (rule R278). -/
  | slti (rd rs1 : Reg) (imm : BitVec 12)
  /-- SLTIU (rule R279). -/
  | sltiu (rd rs1 : Reg) (imm : BitVec 12)
  /-- LUI (rule R280). -/
  | lui (rd : Reg) (imm : BitVec 20)
  /-- AUIPC (rule R281). -/
  | auipc (rd : Reg) (imm : BitVec 20)
  /-- BEQ (rule R282). -/
  | beq (rs1 rs2 : Reg) (imm : BitVec 12)
  /-- BNE (rule R283). -/
  | bne (rs1 rs2 : Reg) (imm : BitVec 12)
  /-- BLT (rule R284). -/
  | blt (rs1 rs2 : Reg) (imm : BitVec 12)
  /-- BGE (rule R285). -/
  | bge (rs1 rs2 : Reg) (imm : BitVec 12)
  /-- BLTU (rule R286). -/
  | bltu (rs1 rs2 : Reg) (imm : BitVec 12)
  /-- BGEU (rule R287). -/
  | bgeu (rs1 rs2 : Reg) (imm : BitVec 12)
  /-- JAL (rule R288). -/
  | jal (rd : Reg) (imm : BitVec 20)
  /-- JALR (rule R289). -/
  | jalr (rd rs1 : Reg) (imm : BitVec 12)
  /-- LB (rule R291). -/
  | lb (rd rs1 : Reg) (imm : BitVec 12)
  /-- LBU (rule R292). -/
  | lbu (rd rs1 : Reg) (imm : BitVec 12)
  /-- LH (rule R293). -/
  | lh (rd rs1 : Reg) (imm : BitVec 12)
  /-- LHU (rule R294). -/
  | lhu (rd rs1 : Reg) (imm : BitVec 12)
  /-- LW (rule R295). -/
  | lw (rd rs1 : Reg) (imm : BitVec 12)
  /-- SB (rule R296). -/
  | sb (rs2 rs1 : Reg) (imm : BitVec 12)
  /-- SH (rule R297). -/
  | sh (rs2 rs1 : Reg) (imm : BitVec 12)
  /-- SW (rule R298). -/
  | sw (rs2 rs1 : Reg) (imm : BitVec 12)
  /-- CSRRW (rule R300). -/
  | csrrw (rd rs1 : Reg) (csr : BitVec 12)
  /-- CSRRS (rule R301). -/
  | csrrs (rd rs1 : Reg) (csr : BitVec 12)
  /-- CSRRC (rule R302). -/
  | csrrc (rd rs1 : Reg) (csr : BitVec 12)
  /-- CSRRWI (rule R303). -/
  | csrrwi (rd : Reg) (uimm : BitVec 5) (csr : BitVec 12)
  /-- CSRRSI (rule R304). -/
  | csrrsi (rd : Reg) (uimm : BitVec 5) (csr : BitVec 12)
  /-- CSRRCI (rule R305). -/
  | csrrci (rd : Reg) (uimm : BitVec 5) (csr : BitVec 12)
  /-- WFI (rule R306). -/
  | wfi
  /-- MRET (rule R307). -/
  | mret
  /-- FENCE (rule R308). -/
  | fence (rd rs1 : Reg) (fm pred succ : BitVec 4)
  /-- FENCE.I (rule R309). -/
  | fenceI (rd rs1 : Reg) (imm : BitVec 12)
  /-- ECALL (rule R310). -/
  | ecall
  /-- EBREAK (rule R311). -/
  | ebreak
  /-- MUL (rule R330). -/
  | mul (rd rs1 rs2 : Reg)
  /-- MULH (rule R331). -/
  | mulh (rd rs1 rs2 : Reg)
  /-- MULHSU (rule R332). -/
  | mulhsu (rd rs1 rs2 : Reg)
  /-- MULHU (rule R333). -/
  | mulhu (rd rs1 rs2 : Reg)
  /-- DIV (rule R334). -/
  | div (rd rs1 rs2 : Reg)
  /-- DIVU (rule R335). -/
  | divu (rd rs1 rs2 : Reg)
  /-- REM (rule R336). -/
  | rem (rd rs1 rs2 : Reg)
  /-- REMU (rule R337). -/
  | remu (rd rs1 rs2 : Reg)
  /-- AMOADD.W (rule R354). -/
  | amoaddW (aq rl : BitVec 1) (rd rs1 rs2 : Reg)
  /-- AMOAND.W (rule R355). -/
  | amoandW (aq rl : BitVec 1) (rd rs1 rs2 : Reg)
  /-- AMOMAX.W (rule R356). -/
  | amomaxW (aq rl : BitVec 1) (rd rs1 rs2 : Reg)
  /-- AMOMAXU.W (rule R357). -/
  | amomaxuW (aq rl : BitVec 1) (rd rs1 rs2 : Reg)
  /-- AMOMIN.W (rule R358). -/
  | amominW (aq rl : BitVec 1) (rd rs1 rs2 : Reg)
  /-- AMOMINU.W (rule R359). -/
  | amominuW (aq rl : BitVec 1) (rd rs1 rs2 : Reg)
  /-- AMOOR.W (rule R362). -/
  | amoorW (aq rl : BitVec 1) (rd rs1 rs2 : Reg)
  /-- AMOSWAP.W (rule R363). -/
  | amoswapW (aq rl : BitVec 1) (rd rs1 rs2 : Reg)
  /-- AMOXOR.W (rule R364). -/
  | amoxorW (aq rl : BitVec 1) (rd rs1 rs2 : Reg)
  /-- SC.W (rule R361). -/
  | scW (aq rl : BitVec 1) (rd rs1 rs2 : Reg)
  /-- LR.W (rule R360). -/
  | lrW (aq rl : BitVec 1) (rd rs1 : Reg)
  /-- FADD.S (rule R390). -/
  | faddS (rm : BitVec 3) (fd fs1 fs2 : Reg)
  /-- FSUB.S (rule R414). -/
  | fsubS (rm : BitVec 3) (fd fs1 fs2 : Reg)
  /-- FMUL.S (rule R405). -/
  | fmulS (rm : BitVec 3) (fd fs1 fs2 : Reg)
  /-- FDIV.S (rule R396). -/
  | fdivS (rm : BitVec 3) (fd fs1 fs2 : Reg)
  /-- FSQRT.S (rule R413). -/
  | fsqrtS (rm : BitVec 3) (fd fs1 : Reg)
  /-- FSGNJ.S (rule R410). -/
  | fsgnjS (fd fs1 fs2 : Reg)
  /-- FSGNJN.S (rule R411). -/
  | fsgnjnS (fd fs1 fs2 : Reg)
  /-- FSGNJX.S (rule R412). -/
  | fsgnjxS (fd fs1 fs2 : Reg)
  /-- FMIN.S (rule R403). -/
  | fminS (fd fs1 fs2 : Reg)
  /-- FMAX.S (rule R402). -/
  | fmaxS (fd fs1 fs2 : Reg)
  /-- FEQ.S (rule R397). -/
  | feqS (rd fs1 fs2 : Reg)
  /-- FLT.S (rule R399). -/
  | fltS (rd fs1 fs2 : Reg)
  /-- FLE.S (rule R398). -/
  | fleS (rd fs1 fs2 : Reg)
  /-- FCLASS.S (rule R391). -/
  | fclassS (rd fs1 : Reg)
  /-- FMADD.S (rule R401). -/
  | fmaddS (rm : BitVec 3) (fd fs1 fs2 fs3 : Reg)
  /-- FMSUB.S (rule R404). -/
  | fmsubS (rm : BitVec 3) (fd fs1 fs2 fs3 : Reg)
  /-- FNMSUB.S (rule R409). -/
  | fnmsubS (rm : BitVec 3) (fd fs1 fs2 fs3 : Reg)
  /-- FNMADD.S (rule R408). -/
  | fnmaddS (rm : BitVec 3) (fd fs1 fs2 fs3 : Reg)
  /-- FCVT.S.W (rule R392). -/
  | fcvtSW (rm : BitVec 3) (fd rs1 : Reg)
  /-- FCVT.S.WU (rule R393). -/
  | fcvtSWu (rm : BitVec 3) (fd rs1 : Reg)
  /-- FCVT.W.S (rule R394). -/
  | fcvtWS (rm : BitVec 3) (rd fs1 : Reg)
  /-- FCVT.WU.S (rule R395). -/
  | fcvtWuS (rm : BitVec 3) (rd fs1 : Reg)
  /-- FMV.W.X (rule R406). -/
  | fmvWX (fd rs1 : Reg)
  /-- FMV.X.W (rule R407). -/
  | fmvXW (rd fs1 : Reg)
  /-- FLW (rule R400). -/
  | flw (fd rs1 : Reg) (imm : BitVec 12)
  /-- FSW (rule R415). -/
  | fsw (fs2 rs1 : Reg) (imm : BitVec 12)
  /-- FADD.D (rule R440). -/
  | faddD (rm : BitVec 3) (fd fs1 fs2 : Reg)
  /-- FSUB.D (rule R465). -/
  | fsubD (rm : BitVec 3) (fd fs1 fs2 : Reg)
  /-- FMUL.D (rule R457). -/
  | fmulD (rm : BitVec 3) (fd fs1 fs2 : Reg)
  /-- FDIV.D (rule R448). -/
  | fdivD (rm : BitVec 3) (fd fs1 fs2 : Reg)
  /-- FSQRT.D (rule R464). -/
  | fsqrtD (rm : BitVec 3) (fd fs1 : Reg)
  /-- FSGNJ.D (rule R461). -/
  | fsgnjD (fd fs1 fs2 : Reg)
  /-- FSGNJN.D (rule R462). -/
  | fsgnjnD (fd fs1 fs2 : Reg)
  /-- FSGNJX.D (rule R463). -/
  | fsgnjxD (fd fs1 fs2 : Reg)
  /-- FMIN.D (rule R455). -/
  | fminD (fd fs1 fs2 : Reg)
  /-- FMAX.D (rule R454). -/
  | fmaxD (fd fs1 fs2 : Reg)
  /-- FEQ.D (rule R449). -/
  | feqD (rd fs1 fs2 : Reg)
  /-- FLT.D (rule R452). -/
  | fltD (rd fs1 fs2 : Reg)
  /-- FLE.D (rule R451). -/
  | fleD (rd fs1 fs2 : Reg)
  /-- FCLASS.D (rule R441). -/
  | fclassD (rd fs1 : Reg)
  /-- FMADD.D (rule R453). -/
  | fmaddD (rm : BitVec 3) (fd fs1 fs2 fs3 : Reg)
  /-- FMSUB.D (rule R456). -/
  | fmsubD (rm : BitVec 3) (fd fs1 fs2 fs3 : Reg)
  /-- FNMSUB.D (rule R459). -/
  | fnmsubD (rm : BitVec 3) (fd fs1 fs2 fs3 : Reg)
  /-- FNMADD.D (rule R458). -/
  | fnmaddD (rm : BitVec 3) (fd fs1 fs2 fs3 : Reg)
  /-- FCVT.D.S (rule R442). -/
  | fcvtDS (rm : BitVec 3) (fd fs1 : Reg)
  /-- FCVT.D.W (rule R443). -/
  | fcvtDW (rm : BitVec 3) (fd rs1 : Reg)
  /-- FCVT.D.WU (rule R444). -/
  | fcvtDWu (rm : BitVec 3) (fd rs1 : Reg)
  /-- FCVT.S.D (rule R445). -/
  | fcvtSD (rm : BitVec 3) (fd fs1 : Reg)
  /-- FCVT.W.D (rule R446). -/
  | fcvtWD (rm : BitVec 3) (rd fs1 : Reg)
  /-- FCVT.WU.D (rule R447). -/
  | fcvtWuD (rm : BitVec 3) (rd fs1 : Reg)
  /-- FLD (rule R450). -/
  | fld (fd rs1 : Reg) (imm : BitVec 12)
  /-- FSD (rule R460). -/
  | fsd (fs2 rs1 : Reg) (imm : BitVec 12)
  /-- C.ADDI4SPN (rule R487). -/
  | cAddi4spn (rd : CReg) (nzuimm : BitVec 8)
  /-- C.LW (rule R500). -/
  | cLw (rd rs1 : CReg) (uimm : BitVec 5)
  /-- C.SW (rule R508). -/
  | cSw (rs2 rs1 : CReg) (uimm : BitVec 5)
  /-- C.NOP (rule R503). -/
  | cNop
  /-- C.ADDI (rule R486). -/
  | cAddi (rd : Reg) (imm : BitVec 6)
  /-- C.JAL (rule R495). -/
  | cJal (imm : BitVec 11)
  /-- C.LI (rule R498). -/
  | cLi (rd : Reg) (imm : BitVec 6)
  /-- C.ADDI16SP (rule R488). -/
  | cAddi16sp (nzimm : BitVec 6)
  /-- C.LUI (rule R499). -/
  | cLui (rd : Reg) (nzimm : BitVec 6)
  /-- C.SRLI (rule R507). -/
  | cSrli (rd : CReg) (shamt : BitVec 5)
  /-- C.SRAI (rule R506). -/
  | cSrai (rd : CReg) (shamt : BitVec 5)
  /-- C.ANDI (rule R490). -/
  | cAndi (rd : CReg) (imm : BitVec 6)
  /-- C.SUB (rule R510). -/
  | cSub (rd rs2 : CReg)
  /-- C.XOR (rule R511). -/
  | cXor (rd rs2 : CReg)
  /-- C.OR (rule R504). -/
  | cOr (rd rs2 : CReg)
  /-- C.AND (rule R489). -/
  | cAnd (rd rs2 : CReg)
  /-- C.J (rule R494). -/
  | cJ (imm : BitVec 11)
  /-- C.BEQZ (rule R491). -/
  | cBeqz (rs1 : CReg) (imm : BitVec 8)
  /-- C.BNEZ (rule R492). -/
  | cBnez (rs1 : CReg) (imm : BitVec 8)
  /-- C.SLLI (rule R505). -/
  | cSlli (rd : Reg) (shamt : BitVec 5)
  /-- C.LWSP (rule R501). -/
  | cLwsp (rd : Reg) (uimm : BitVec 6)
  /-- C.JR (rule R497). -/
  | cJr (rs1 : Reg)
  /-- C.MV (rule R502). -/
  | cMv (rd rs2 : Reg)
  /-- C.EBREAK (rule R493). -/
  | cEbreak
  /-- C.JALR (rule R496). -/
  | cJalr (rs1 : Reg)
  /-- C.ADD (rule R485). -/
  | cAdd (rd rs2 : Reg)
  /-- C.SWSP (rule R509). -/
  | cSwsp (rs2 : Reg) (uimm : BitVec 6)
  /-- DCACHE.CALL (rule R533). -/
  | dcacheCall
  /-- DCACHE.IALL (rule R543). -/
  | dcacheIall
  /-- DCACHE.CIALL (rule R534). -/
  | dcacheCiall
  /-- ICACHE.IALL (rule R544). -/
  | icacheIall
  /-- SYNC (rule R541). -/
  | sync
  /-- SYNC.I (rule R542). -/
  | syncI
  /-- DCACHE.CSW (rule R536). -/
  | dcacheCsw (rs1 : Reg)
  /-- DCACHE.ISW (rule R540). -/
  | dcacheIsw (rs1 : Reg)
  /-- DCACHE.CISW (rule R537). -/
  | dcacheCisw (rs1 : Reg)
  /-- DCACHE.CPA (rule R538). -/
  | dcacheCpa (rs1 : Reg)
  /-- DCACHE.IPA (rule R539). -/
  | dcacheIpa (rs1 : Reg)
  /-- DCACHE.CIPA (rule R535). -/
  | dcacheCipa (rs1 : Reg)
  /-- ICACHE.IPA (rule R545). -/
  | icacheIpa (rs1 : Reg)
  deriving DecidableEq, Repr

end Sys2Proof
end

