-- ==== Sys2Proof/WellFormed.lean ====
section
/-! DEFINITION. Well-formed instructions: those that have an encoding of their own. Only the compressed family has
operand constraints that the decoder relies on (rules R482, R223). -/

namespace Sys2Proof

/-- The operands satisfy the constraints of the instruction's encoding: C.ADDI4SPN, C.ADDI16SP and C.LUI need a nonzero
immediate, C.LUI may not name x2 (that is C.ADDI16SP), C.LWSP, C.JR and C.JALR may not name x0, C.MV and C.ADD need a
nonzero `rs2`, and C.ADDI x0, 0 is C.NOP (rules R482, R223, R487, R488, R499). -/
def Instr.wf : Instr → Bool
  | .add _ _ _ => true
  | .addi _ _ _ => true
  | .sub _ _ _ => true
  | .and _ _ _ => true
  | .andi _ _ _ => true
  | .or _ _ _ => true
  | .ori _ _ _ => true
  | .xor _ _ _ => true
  | .xori _ _ _ => true
  | .sll _ _ _ => true
  | .slli _ _ _ => true
  | .srl _ _ _ => true
  | .srli _ _ _ => true
  | .sra _ _ _ => true
  | .srai _ _ _ => true
  | .slt _ _ _ => true
  | .sltu _ _ _ => true
  | .slti _ _ _ => true
  | .sltiu _ _ _ => true
  | .lui _ _ => true
  | .auipc _ _ => true
  | .beq _ _ _ => true
  | .bne _ _ _ => true
  | .blt _ _ _ => true
  | .bge _ _ _ => true
  | .bltu _ _ _ => true
  | .bgeu _ _ _ => true
  | .jal _ _ => true
  | .jalr _ _ _ => true
  | .lb _ _ _ => true
  | .lbu _ _ _ => true
  | .lh _ _ _ => true
  | .lhu _ _ _ => true
  | .lw _ _ _ => true
  | .sb _ _ _ => true
  | .sh _ _ _ => true
  | .sw _ _ _ => true
  | .csrrw _ _ _ => true
  | .csrrs _ _ _ => true
  | .csrrc _ _ _ => true
  | .csrrwi _ _ _ => true
  | .csrrsi _ _ _ => true
  | .csrrci _ _ _ => true
  | .wfi => true
  | .mret => true
  | .fence _ _ _ _ _ => true
  | .fenceI _ _ _ => true
  | .ecall => true
  | .ebreak => true
  | .mul _ _ _ => true
  | .mulh _ _ _ => true
  | .mulhsu _ _ _ => true
  | .mulhu _ _ _ => true
  | .div _ _ _ => true
  | .divu _ _ _ => true
  | .rem _ _ _ => true
  | .remu _ _ _ => true
  | .amoaddW _ _ _ _ _ => true
  | .amoandW _ _ _ _ _ => true
  | .amomaxW _ _ _ _ _ => true
  | .amomaxuW _ _ _ _ _ => true
  | .amominW _ _ _ _ _ => true
  | .amominuW _ _ _ _ _ => true
  | .amoorW _ _ _ _ _ => true
  | .amoswapW _ _ _ _ _ => true
  | .amoxorW _ _ _ _ _ => true
  | .scW _ _ _ _ _ => true
  | .lrW _ _ _ _ => true
  | .faddS _ _ _ _ => true
  | .fsubS _ _ _ _ => true
  | .fmulS _ _ _ _ => true
  | .fdivS _ _ _ _ => true
  | .fsqrtS _ _ _ => true
  | .fsgnjS _ _ _ => true
  | .fsgnjnS _ _ _ => true
  | .fsgnjxS _ _ _ => true
  | .fminS _ _ _ => true
  | .fmaxS _ _ _ => true
  | .feqS _ _ _ => true
  | .fltS _ _ _ => true
  | .fleS _ _ _ => true
  | .fclassS _ _ => true
  | .fmaddS _ _ _ _ _ => true
  | .fmsubS _ _ _ _ _ => true
  | .fnmsubS _ _ _ _ _ => true
  | .fnmaddS _ _ _ _ _ => true
  | .fcvtSW _ _ _ => true
  | .fcvtSWu _ _ _ => true
  | .fcvtWS _ _ _ => true
  | .fcvtWuS _ _ _ => true
  | .fmvWX _ _ => true
  | .fmvXW _ _ => true
  | .flw _ _ _ => true
  | .fsw _ _ _ => true
  | .faddD _ _ _ _ => true
  | .fsubD _ _ _ _ => true
  | .fmulD _ _ _ _ => true
  | .fdivD _ _ _ _ => true
  | .fsqrtD _ _ _ => true
  | .fsgnjD _ _ _ => true
  | .fsgnjnD _ _ _ => true
  | .fsgnjxD _ _ _ => true
  | .fminD _ _ _ => true
  | .fmaxD _ _ _ => true
  | .feqD _ _ _ => true
  | .fltD _ _ _ => true
  | .fleD _ _ _ => true
  | .fclassD _ _ => true
  | .fmaddD _ _ _ _ _ => true
  | .fmsubD _ _ _ _ _ => true
  | .fnmsubD _ _ _ _ _ => true
  | .fnmaddD _ _ _ _ _ => true
  | .fcvtDS _ _ _ => true
  | .fcvtDW _ _ _ => true
  | .fcvtDWu _ _ _ => true
  | .fcvtSD _ _ _ => true
  | .fcvtWD _ _ _ => true
  | .fcvtWuD _ _ _ => true
  | .fld _ _ _ => true
  | .fsd _ _ _ => true
  | .cAddi4spn _ nzuimm => nzuimm != 0
  | .cLw _ _ _ => true
  | .cSw _ _ _ => true
  | .cNop => true
  | .cAddi rd imm => rd != 0 || imm != 0
  | .cJal _ => true
  | .cLi _ _ => true
  | .cAddi16sp nzimm => nzimm != 0
  | .cLui rd nzimm => rd != 2 && (nzimm != 0 || rd == 0)
  | .cSrli _ _ => true
  | .cSrai _ _ => true
  | .cAndi _ _ => true
  | .cSub _ _ => true
  | .cXor _ _ => true
  | .cOr _ _ => true
  | .cAnd _ _ => true
  | .cJ _ => true
  | .cBeqz _ _ => true
  | .cBnez _ _ => true
  | .cSlli _ _ => true
  | .cLwsp rd _ => rd != 0
  | .cJr rs1 => rs1 != 0
  | .cMv _ rs2 => rs2 != 0
  | .cEbreak => true
  | .cJalr rs1 => rs1 != 0
  | .cAdd _ rs2 => rs2 != 0
  | .cSwsp _ _ => true
  | .dcacheCall => true
  | .dcacheIall => true
  | .dcacheCiall => true
  | .icacheIall => true
  | .sync => true
  | .syncI => true
  | .dcacheCsw _ => true
  | .dcacheIsw _ => true
  | .dcacheCisw _ => true
  | .dcacheCpa _ => true
  | .dcacheIpa _ => true
  | .dcacheCipa _ => true
  | .icacheIpa _ => true

end Sys2Proof
end

