-- ==== Sys2Proof/Decode.lean ====
section
/-! DEFINITION. The decoder (rules R200 to R210, R220 to R225) and the encoder, written from the same encoding tables. The
decoder is total: bits that are no instruction are rejected by name. -/

namespace Sys2Proof

/-- The bits of one instruction: one halfword, or two (rule R200). -/
inductive Code where
  | half (h : Half)
  | word (w : Word)
  deriving DecidableEq, Repr

/-- The instruction bits as MTVAL reports them: 32 bits, or 16 bits zero-extended (rule R563). -/
def Code.value : Code → Word
  | .half h => h.setWidth 32
  | .word w => w

/-- The length in bytes (rule R200). -/
def Code.length : Code → Nat
  | .half _ => 2
  | .word _ => 4

/-- Why bits are no instruction. -/
inductive DecodeError where
  /-- Fewer bytes than the instruction has. -/
  | truncated
  /-- A 16-bit word that is reserved or undefined (rule R482). -/
  | undefinedHalf (h : Half)
  /-- A 32-bit word that matches no row (rule R210, D54). -/
  | undefinedWord (w : Word)
  /-- One of the eight compressed floating-point slots (rule R525, U10). -/
  | compressedFloat (h : Half)
  deriving DecidableEq, Repr

/-! ## 32-bit formats (rules R201, R204, R350, R530) -/

def rType (funct7 : BitVec 7) (rs2 rs1 : Reg) (funct3 : BitVec 3) (rd : Reg) (op : BitVec 7) : Word :=
  funct7 ++ rs2 ++ rs1 ++ funct3 ++ rd ++ op

def iType (imm : BitVec 12) (rs1 : Reg) (funct3 : BitVec 3) (rd : Reg) (op : BitVec 7) : Word :=
  imm ++ rs1 ++ funct3 ++ rd ++ op

def sType (imm : BitVec 12) (rs2 rs1 : Reg) (funct3 : BitVec 3) (op : BitVec 7) : Word :=
  imm.extractLsb' 5 7 ++ rs2 ++ rs1 ++ funct3 ++ imm.extractLsb' 0 5 ++ op

/-- `imm` is the offset without its bit 0, so bit k of it is offset bit k + 1. -/
def bType (imm : BitVec 12) (rs2 rs1 : Reg) (funct3 : BitVec 3) (op : BitVec 7) : Word :=
  imm.extractLsb' 11 1 ++ imm.extractLsb' 4 6 ++ rs2 ++ rs1 ++ funct3 ++ imm.extractLsb' 0 4 ++ imm.extractLsb' 10 1 ++ op

def uType (imm : BitVec 20) (rd : Reg) (op : BitVec 7) : Word :=
  imm ++ rd ++ op

/-- `imm` is the offset without its bit 0, so bit k of it is offset bit k + 1. -/
def jType (imm : BitVec 20) (rd : Reg) (op : BitVec 7) : Word :=
  imm.extractLsb' 19 1 ++ imm.extractLsb' 0 10 ++ imm.extractLsb' 10 1 ++ imm.extractLsb' 11 8 ++ rd ++ op

def r4Type (fs3 : Reg) (fmt : BitVec 2) (fs2 fs1 : Reg) (rm : BitVec 3) (fd : Reg) (op : BitVec 7) : Word :=
  fs3 ++ fmt ++ fs2 ++ fs1 ++ rm ++ fd ++ op

def amoType (funct5 : BitVec 5) (aq rl : BitVec 1) (rs2 rs1 : Reg) (rd : Reg) : Word :=
  funct5 ++ aq ++ rl ++ rs2 ++ rs1 ++ (0b010 : BitVec 3) ++ rd ++ (0b0101111 : BitVec 7)

def fenceType (fm pred succ : BitVec 4) (rs1 rd : Reg) : Word :=
  fm ++ pred ++ succ ++ rs1 ++ (0b000 : BitVec 3) ++ rd ++ (0b0001111 : BitVec 7)

/-- The offset field of a B-type word (rule R201). -/
def bImm (w : Word) : BitVec 12 :=
  w.extractLsb' 31 1 ++ w.extractLsb' 7 1 ++ w.extractLsb' 25 6 ++ w.extractLsb' 8 4

/-- The offset field of a J-type word (rule R201). -/
def jImm (w : Word) : BitVec 20 :=
  w.extractLsb' 31 1 ++ w.extractLsb' 12 8 ++ w.extractLsb' 20 1 ++ w.extractLsb' 21 10

def opcode (w : Word) : BitVec 7 := w.extractLsb' 0 7
def rdField (w : Word) : Reg := w.extractLsb' 7 5
def funct3 (w : Word) : BitVec 3 := w.extractLsb' 12 3
def rs1Field (w : Word) : Reg := w.extractLsb' 15 5
def rs2Field (w : Word) : Reg := w.extractLsb' 20 5
def rs3Field (w : Word) : Reg := w.extractLsb' 27 5
def funct7 (w : Word) : BitVec 7 := w.extractLsb' 25 7
def iImm (w : Word) : BitVec 12 := w.extractLsb' 20 12
def uImm (w : Word) : BitVec 20 := w.extractLsb' 12 20
def sImm (w : Word) : BitVec 12 := w.extractLsb' 25 7 ++ w.extractLsb' 7 5

/-! ## 16-bit formats (rules R220, R221) -/

def cFunct3 (h : Half) : BitVec 3 := h.extractLsb' 13 3
def cQuadrant (h : Half) : BitVec 2 := h.extractLsb' 0 2
def cRdField (h : Half) : Reg := h.extractLsb' 7 5
def cRs2Field (h : Half) : Reg := h.extractLsb' 2 5
def cHighField (h : Half) : CReg := h.extractLsb' 7 3
def cLowField (h : Half) : CReg := h.extractLsb' 2 3
def cBit12 (h : Half) : BitVec 1 := h.extractLsb' 12 1
def cImm6 (h : Half) : BitVec 6 := h.extractLsb' 12 1 ++ h.extractLsb' 2 5
def cShamt (h : Half) : BitVec 5 := h.extractLsb' 2 5

/-- The immediate of C.ADDI4SPN, unscaled (rules R221, R487). -/
def cSpImm (h : Half) : BitVec 8 :=
  h.extractLsb' 7 4 ++ h.extractLsb' 11 2 ++ h.extractLsb' 5 1 ++ h.extractLsb' 6 1

/-- The offset of C.LW and C.SW, unscaled (rule R221). -/
def cWordImm (h : Half) : BitVec 5 := h.extractLsb' 5 1 ++ h.extractLsb' 10 3 ++ h.extractLsb' 6 1

/-- The offset of C.LWSP, unscaled (rule R221). -/
def cLwspImm (h : Half) : BitVec 6 := h.extractLsb' 2 2 ++ h.extractLsb' 12 1 ++ h.extractLsb' 4 3

/-- The offset of C.SWSP, unscaled (rule R221). -/
def cSwspImm (h : Half) : BitVec 6 := h.extractLsb' 7 2 ++ h.extractLsb' 9 4

/-- The immediate of C.ADDI16SP, unscaled (rules R221, R488). -/
def cAddi16Imm (h : Half) : BitVec 6 :=
  h.extractLsb' 12 1 ++ h.extractLsb' 3 2 ++ h.extractLsb' 5 1 ++ h.extractLsb' 2 1 ++ h.extractLsb' 6 1

/-- The offset of C.BEQZ and C.BNEZ, unscaled (rule R221). -/
def cBranchImm (h : Half) : BitVec 8 :=
  h.extractLsb' 12 1 ++ h.extractLsb' 5 2 ++ h.extractLsb' 2 1 ++ h.extractLsb' 10 2 ++ h.extractLsb' 3 2

/-- The offset of C.J and C.JAL, unscaled (rules R221, R494). -/
def cJumpImm (h : Half) : BitVec 11 :=
  h.extractLsb' 12 1 ++ h.extractLsb' 8 1 ++ h.extractLsb' 9 2 ++ h.extractLsb' 6 1 ++ h.extractLsb' 7 1 ++
    h.extractLsb' 2 1 ++ h.extractLsb' 11 1 ++ h.extractLsb' 3 3

def ciType (funct3 : BitVec 3) (imm : BitVec 6) (rd : Reg) (op : BitVec 2) : Half :=
  funct3 ++ imm.extractLsb' 5 1 ++ rd ++ imm.extractLsb' 0 5 ++ op

def crType (funct4 : BitVec 4) (rd rs2 : Reg) : Half :=
  funct4 ++ rd ++ rs2 ++ (0b10 : BitVec 2)

def caType (funct2 : BitVec 2) (rd rs2 : CReg) : Half :=
  (0b100011 : BitVec 6) ++ rd ++ funct2 ++ rs2 ++ (0b01 : BitVec 2)

def cbShiftType (bit12 : BitVec 1) (funct2 : BitVec 2) (rd : CReg) (low : BitVec 5) : Half :=
  (0b100 : BitVec 3) ++ bit12 ++ funct2 ++ rd ++ low ++ (0b01 : BitVec 2)

def ciwType (imm : BitVec 8) (rd : CReg) : Half :=
  (0b000 : BitVec 3) ++ imm.extractLsb' 2 2 ++ imm.extractLsb' 4 4 ++ imm.extractLsb' 0 1 ++ imm.extractLsb' 1 1 ++ rd ++
    (0b00 : BitVec 2)

def clType (funct3 : BitVec 3) (imm : BitVec 5) (rs1 reg : CReg) : Half :=
  funct3 ++ imm.extractLsb' 1 3 ++ rs1 ++ imm.extractLsb' 0 1 ++ imm.extractLsb' 4 1 ++ reg ++ (0b00 : BitVec 2)

def cLwspType (imm : BitVec 6) (rd : Reg) : Half :=
  (0b010 : BitVec 3) ++ imm.extractLsb' 3 1 ++ rd ++ imm.extractLsb' 0 3 ++ imm.extractLsb' 4 2 ++ (0b10 : BitVec 2)

def cSwspType (imm : BitVec 6) (rs2 : Reg) : Half :=
  (0b110 : BitVec 3) ++ imm.extractLsb' 0 4 ++ imm.extractLsb' 4 2 ++ rs2 ++ (0b10 : BitVec 2)

def cAddi16Type (imm : BitVec 6) : Half :=
  (0b011 : BitVec 3) ++ imm.extractLsb' 5 1 ++ (0b00010 : BitVec 5) ++ imm.extractLsb' 0 1 ++ imm.extractLsb' 2 1 ++
    imm.extractLsb' 3 2 ++ imm.extractLsb' 1 1 ++ (0b01 : BitVec 2)

def cbType (funct3 : BitVec 3) (imm : BitVec 8) (rs1 : CReg) : Half :=
  funct3 ++ imm.extractLsb' 7 1 ++ imm.extractLsb' 2 2 ++ rs1 ++ imm.extractLsb' 5 2 ++ imm.extractLsb' 0 2 ++
    imm.extractLsb' 4 1 ++ (0b01 : BitVec 2)

def cjType (funct3 : BitVec 3) (imm : BitVec 11) : Half :=
  funct3 ++ imm.extractLsb' 10 1 ++ imm.extractLsb' 3 1 ++ imm.extractLsb' 7 2 ++ imm.extractLsb' 9 1 ++
    imm.extractLsb' 5 1 ++ imm.extractLsb' 6 1 ++ imm.extractLsb' 0 3 ++ imm.extractLsb' 4 1 ++ (0b01 : BitVec 2)

/-! ## Decoding 32-bit words, one function per major opcode (rule R203) -/

abbrev Decoded := Except DecodeError Instr

/-- Bits that match no row (rule R210, D54). -/
def undefinedWord (w : Word) : Decoded := .error (.undefinedWord w)

def decodeLoad (w : Word) : Decoded :=
  match (funct3 w).toNat with
  | 0 => .ok (.lb (rdField w) (rs1Field w) (iImm w))
  | 1 => .ok (.lh (rdField w) (rs1Field w) (iImm w))
  | 2 => .ok (.lw (rdField w) (rs1Field w) (iImm w))
  | 4 => .ok (.lbu (rdField w) (rs1Field w) (iImm w))
  | 5 => .ok (.lhu (rdField w) (rs1Field w) (iImm w))
  | _ => undefinedWord w

def decodeLoadFp (w : Word) : Decoded :=
  match (funct3 w).toNat with
  | 2 => .ok (.flw (rdField w) (rs1Field w) (iImm w))
  | 3 => .ok (.fld (rdField w) (rs1Field w) (iImm w))
  | _ => undefinedWord w

/-- The forms without operand are fixed words, the others fix all but `rs1` (rule R530). -/
def decodeCustom0 (w : Word) : Decoded :=
  if funct3 w = 0 ∧ rdField w = 0 then
    match (funct7 w).toNat with
    | 0 =>
      if rs1Field w = 0 then
        match (rs2Field w).toNat with
        | 1 => .ok .dcacheCall
        | 2 => .ok .dcacheIall
        | 3 => .ok .dcacheCiall
        | 16 => .ok .icacheIall
        | 24 => .ok .sync
        | 26 => .ok .syncI
        | _ => undefinedWord w
      else undefinedWord w
    | 1 =>
      match (rs2Field w).toNat with
      | 1 => .ok (.dcacheCsw (rs1Field w))
      | 2 => .ok (.dcacheIsw (rs1Field w))
      | 3 => .ok (.dcacheCisw (rs1Field w))
      | 8 => .ok (.dcacheCpa (rs1Field w))
      | 10 => .ok (.dcacheIpa (rs1Field w))
      | 11 => .ok (.dcacheCipa (rs1Field w))
      | 24 => .ok (.icacheIpa (rs1Field w))
      | _ => undefinedWord w
    | _ => undefinedWord w
  else undefinedWord w

/-- The reserved fields of FENCE and FENCE.I are no part of the match (D44). -/
def decodeMiscMem (w : Word) : Decoded :=
  match (funct3 w).toNat with
  | 0 => .ok (.fence (rdField w) (rs1Field w) (w.extractLsb' 28 4) (w.extractLsb' 24 4) (w.extractLsb' 20 4))
  | 1 => .ok (.fenceI (rdField w) (rs1Field w) (iImm w))
  | _ => undefinedWord w

/-- Shift amounts of 32 and more are undefined: bit 25 is part of funct7 (rule R271). -/
def decodeOpImm (w : Word) : Decoded :=
  match (funct3 w).toNat with
  | 0 => .ok (.addi (rdField w) (rs1Field w) (iImm w))
  | 1 => if funct7 w = 0b0000000 then .ok (.slli (rdField w) (rs1Field w) (rs2Field w)) else undefinedWord w
  | 2 => .ok (.slti (rdField w) (rs1Field w) (iImm w))
  | 3 => .ok (.sltiu (rdField w) (rs1Field w) (iImm w))
  | 4 => .ok (.xori (rdField w) (rs1Field w) (iImm w))
  | 5 =>
    match (funct7 w).toNat with
    | 0x00 => .ok (.srli (rdField w) (rs1Field w) (rs2Field w))
    | 0x20 => .ok (.srai (rdField w) (rs1Field w) (rs2Field w))
    | _ => undefinedWord w
  | 6 => .ok (.ori (rdField w) (rs1Field w) (iImm w))
  | _ => .ok (.andi (rdField w) (rs1Field w) (iImm w))

def decodeStore (w : Word) : Decoded :=
  match (funct3 w).toNat with
  | 0 => .ok (.sb (rs2Field w) (rs1Field w) (sImm w))
  | 1 => .ok (.sh (rs2Field w) (rs1Field w) (sImm w))
  | 2 => .ok (.sw (rs2Field w) (rs1Field w) (sImm w))
  | _ => undefinedWord w

def decodeStoreFp (w : Word) : Decoded :=
  match (funct3 w).toNat with
  | 2 => .ok (.fsw (rs2Field w) (rs1Field w) (sImm w))
  | 3 => .ok (.fsd (rs2Field w) (rs1Field w) (sImm w))
  | _ => undefinedWord w

/-- LR.W with a nonzero rs2 field is undefined (rule R350, D46). -/
def decodeAmo (w : Word) : Decoded :=
  if funct3 w = 0b010 then
    match (w.extractLsb' 27 5).toNat with
    | 0x00 => .ok (.amoaddW (w.extractLsb' 26 1) (w.extractLsb' 25 1) (rdField w) (rs1Field w) (rs2Field w))
    | 0x01 => .ok (.amoswapW (w.extractLsb' 26 1) (w.extractLsb' 25 1) (rdField w) (rs1Field w) (rs2Field w))
    | 0x02 =>
      if rs2Field w = 0 then .ok (.lrW (w.extractLsb' 26 1) (w.extractLsb' 25 1) (rdField w) (rs1Field w))
      else undefinedWord w
    | 0x03 => .ok (.scW (w.extractLsb' 26 1) (w.extractLsb' 25 1) (rdField w) (rs1Field w) (rs2Field w))
    | 0x04 => .ok (.amoxorW (w.extractLsb' 26 1) (w.extractLsb' 25 1) (rdField w) (rs1Field w) (rs2Field w))
    | 0x08 => .ok (.amoorW (w.extractLsb' 26 1) (w.extractLsb' 25 1) (rdField w) (rs1Field w) (rs2Field w))
    | 0x0C => .ok (.amoandW (w.extractLsb' 26 1) (w.extractLsb' 25 1) (rdField w) (rs1Field w) (rs2Field w))
    | 0x10 => .ok (.amominW (w.extractLsb' 26 1) (w.extractLsb' 25 1) (rdField w) (rs1Field w) (rs2Field w))
    | 0x14 => .ok (.amomaxW (w.extractLsb' 26 1) (w.extractLsb' 25 1) (rdField w) (rs1Field w) (rs2Field w))
    | 0x18 => .ok (.amominuW (w.extractLsb' 26 1) (w.extractLsb' 25 1) (rdField w) (rs1Field w) (rs2Field w))
    | 0x1C => .ok (.amomaxuW (w.extractLsb' 26 1) (w.extractLsb' 25 1) (rdField w) (rs1Field w) (rs2Field w))
    | _ => undefinedWord w
  else undefinedWord w

def decodeOp (w : Word) : Decoded :=
  match (funct7 w).toNat with
  | 0x00 =>
    match (funct3 w).toNat with
    | 0 => .ok (.add (rdField w) (rs1Field w) (rs2Field w))
    | 1 => .ok (.sll (rdField w) (rs1Field w) (rs2Field w))
    | 2 => .ok (.slt (rdField w) (rs1Field w) (rs2Field w))
    | 3 => .ok (.sltu (rdField w) (rs1Field w) (rs2Field w))
    | 4 => .ok (.xor (rdField w) (rs1Field w) (rs2Field w))
    | 5 => .ok (.srl (rdField w) (rs1Field w) (rs2Field w))
    | 6 => .ok (.or (rdField w) (rs1Field w) (rs2Field w))
    | _ => .ok (.and (rdField w) (rs1Field w) (rs2Field w))
  | 0x01 =>
    match (funct3 w).toNat with
    | 0 => .ok (.mul (rdField w) (rs1Field w) (rs2Field w))
    | 1 => .ok (.mulh (rdField w) (rs1Field w) (rs2Field w))
    | 2 => .ok (.mulhsu (rdField w) (rs1Field w) (rs2Field w))
    | 3 => .ok (.mulhu (rdField w) (rs1Field w) (rs2Field w))
    | 4 => .ok (.div (rdField w) (rs1Field w) (rs2Field w))
    | 5 => .ok (.divu (rdField w) (rs1Field w) (rs2Field w))
    | 6 => .ok (.rem (rdField w) (rs1Field w) (rs2Field w))
    | _ => .ok (.remu (rdField w) (rs1Field w) (rs2Field w))
  | 0x20 =>
    match (funct3 w).toNat with
    | 0 => .ok (.sub (rdField w) (rs1Field w) (rs2Field w))
    | 5 => .ok (.sra (rdField w) (rs1Field w) (rs2Field w))
    | _ => undefinedWord w
  | _ => undefinedWord w

/-- The fused multiply-add opcodes: `fmt` 00 is single, 01 double (rule R204). -/
def decodeFused (single double : Instr) (w : Word) : Decoded :=
  match (w.extractLsb' 25 2).toNat with
  | 0 => .ok single
  | 1 => .ok double
  | _ => undefinedWord w

/-- The unary forms fix the rs2 field (rules R204, R210). -/
def decodeOpFp (w : Word) : Decoded :=
  match (funct7 w).toNat with
  | 0x00 => .ok (.faddS (funct3 w) (rdField w) (rs1Field w) (rs2Field w))
  | 0x04 => .ok (.fsubS (funct3 w) (rdField w) (rs1Field w) (rs2Field w))
  | 0x08 => .ok (.fmulS (funct3 w) (rdField w) (rs1Field w) (rs2Field w))
  | 0x0C => .ok (.fdivS (funct3 w) (rdField w) (rs1Field w) (rs2Field w))
  | 0x2C => if rs2Field w = 0 then .ok (.fsqrtS (funct3 w) (rdField w) (rs1Field w)) else undefinedWord w
  | 0x10 =>
    match (funct3 w).toNat with
    | 0 => .ok (.fsgnjS (rdField w) (rs1Field w) (rs2Field w))
    | 1 => .ok (.fsgnjnS (rdField w) (rs1Field w) (rs2Field w))
    | 2 => .ok (.fsgnjxS (rdField w) (rs1Field w) (rs2Field w))
    | _ => undefinedWord w
  | 0x14 =>
    match (funct3 w).toNat with
    | 0 => .ok (.fminS (rdField w) (rs1Field w) (rs2Field w))
    | 1 => .ok (.fmaxS (rdField w) (rs1Field w) (rs2Field w))
    | _ => undefinedWord w
  | 0x50 =>
    match (funct3 w).toNat with
    | 0 => .ok (.fleS (rdField w) (rs1Field w) (rs2Field w))
    | 1 => .ok (.fltS (rdField w) (rs1Field w) (rs2Field w))
    | 2 => .ok (.feqS (rdField w) (rs1Field w) (rs2Field w))
    | _ => undefinedWord w
  | 0x60 =>
    match (rs2Field w).toNat with
    | 0 => .ok (.fcvtWS (funct3 w) (rdField w) (rs1Field w))
    | 1 => .ok (.fcvtWuS (funct3 w) (rdField w) (rs1Field w))
    | _ => undefinedWord w
  | 0x68 =>
    match (rs2Field w).toNat with
    | 0 => .ok (.fcvtSW (funct3 w) (rdField w) (rs1Field w))
    | 1 => .ok (.fcvtSWu (funct3 w) (rdField w) (rs1Field w))
    | _ => undefinedWord w
  | 0x20 => if rs2Field w = 1 then .ok (.fcvtSD (funct3 w) (rdField w) (rs1Field w)) else undefinedWord w
  | 0x70 =>
    if rs2Field w = 0 then
      match (funct3 w).toNat with
      | 0 => .ok (.fmvXW (rdField w) (rs1Field w))
      | 1 => .ok (.fclassS (rdField w) (rs1Field w))
      | _ => undefinedWord w
    else undefinedWord w
  | 0x78 => if rs2Field w = 0 ∧ funct3 w = 0 then .ok (.fmvWX (rdField w) (rs1Field w)) else undefinedWord w
  | 0x01 => .ok (.faddD (funct3 w) (rdField w) (rs1Field w) (rs2Field w))
  | 0x05 => .ok (.fsubD (funct3 w) (rdField w) (rs1Field w) (rs2Field w))
  | 0x09 => .ok (.fmulD (funct3 w) (rdField w) (rs1Field w) (rs2Field w))
  | 0x0D => .ok (.fdivD (funct3 w) (rdField w) (rs1Field w) (rs2Field w))
  | 0x2D => if rs2Field w = 0 then .ok (.fsqrtD (funct3 w) (rdField w) (rs1Field w)) else undefinedWord w
  | 0x11 =>
    match (funct3 w).toNat with
    | 0 => .ok (.fsgnjD (rdField w) (rs1Field w) (rs2Field w))
    | 1 => .ok (.fsgnjnD (rdField w) (rs1Field w) (rs2Field w))
    | 2 => .ok (.fsgnjxD (rdField w) (rs1Field w) (rs2Field w))
    | _ => undefinedWord w
  | 0x15 =>
    match (funct3 w).toNat with
    | 0 => .ok (.fminD (rdField w) (rs1Field w) (rs2Field w))
    | 1 => .ok (.fmaxD (rdField w) (rs1Field w) (rs2Field w))
    | _ => undefinedWord w
  | 0x51 =>
    match (funct3 w).toNat with
    | 0 => .ok (.fleD (rdField w) (rs1Field w) (rs2Field w))
    | 1 => .ok (.fltD (rdField w) (rs1Field w) (rs2Field w))
    | 2 => .ok (.feqD (rdField w) (rs1Field w) (rs2Field w))
    | _ => undefinedWord w
  | 0x61 =>
    match (rs2Field w).toNat with
    | 0 => .ok (.fcvtWD (funct3 w) (rdField w) (rs1Field w))
    | 1 => .ok (.fcvtWuD (funct3 w) (rdField w) (rs1Field w))
    | _ => undefinedWord w
  | 0x69 =>
    match (rs2Field w).toNat with
    | 0 => .ok (.fcvtDW (funct3 w) (rdField w) (rs1Field w))
    | 1 => .ok (.fcvtDWu (funct3 w) (rdField w) (rs1Field w))
    | _ => undefinedWord w
  | 0x21 => if rs2Field w = 0 then .ok (.fcvtDS (funct3 w) (rdField w) (rs1Field w)) else undefinedWord w
  | 0x71 => if rs2Field w = 0 ∧ funct3 w = 1 then .ok (.fclassD (rdField w) (rs1Field w)) else undefinedWord w
  | _ => undefinedWord w

def decodeBranch (w : Word) : Decoded :=
  match (funct3 w).toNat with
  | 0 => .ok (.beq (rs1Field w) (rs2Field w) (bImm w))
  | 1 => .ok (.bne (rs1Field w) (rs2Field w) (bImm w))
  | 4 => .ok (.blt (rs1Field w) (rs2Field w) (bImm w))
  | 5 => .ok (.bge (rs1Field w) (rs2Field w) (bImm w))
  | 6 => .ok (.bltu (rs1Field w) (rs2Field w) (bImm w))
  | 7 => .ok (.bgeu (rs1Field w) (rs2Field w) (bImm w))
  | _ => undefinedWord w

/-- The words of funct3 000 are fixed whole (rule R204). -/
def decodeSystem (w : Word) : Decoded :=
  match (funct3 w).toNat with
  | 0 =>
    if rdField w = 0 ∧ rs1Field w = 0 then
      match (iImm w).toNat with
      | 0x000 => .ok .ecall
      | 0x001 => .ok .ebreak
      | 0x105 => .ok .wfi
      | 0x302 => .ok .mret
      | _ => undefinedWord w
    else undefinedWord w
  | 1 => .ok (.csrrw (rdField w) (rs1Field w) (iImm w))
  | 2 => .ok (.csrrs (rdField w) (rs1Field w) (iImm w))
  | 3 => .ok (.csrrc (rdField w) (rs1Field w) (iImm w))
  | 5 => .ok (.csrrwi (rdField w) (rs1Field w) (iImm w))
  | 6 => .ok (.csrrsi (rdField w) (rs1Field w) (iImm w))
  | 7 => .ok (.csrrci (rdField w) (rs1Field w) (iImm w))
  | _ => undefinedWord w

/-- The instruction of a 32-bit word (rules R203, R210). -/
def decodeWord (w : Word) : Decoded :=
  match (opcode w).toNat with
  | 0x03 => decodeLoad w
  | 0x07 => decodeLoadFp w
  | 0x0B => decodeCustom0 w
  | 0x0F => decodeMiscMem w
  | 0x13 => decodeOpImm w
  | 0x17 => .ok (.auipc (rdField w) (uImm w))
  | 0x23 => decodeStore w
  | 0x27 => decodeStoreFp w
  | 0x2F => decodeAmo w
  | 0x33 => decodeOp w
  | 0x37 => .ok (.lui (rdField w) (uImm w))
  | 0x43 => decodeFused (.fmaddS (funct3 w) (rdField w) (rs1Field w) (rs2Field w) (rs3Field w))
      (.fmaddD (funct3 w) (rdField w) (rs1Field w) (rs2Field w) (rs3Field w)) w
  | 0x47 => decodeFused (.fmsubS (funct3 w) (rdField w) (rs1Field w) (rs2Field w) (rs3Field w))
      (.fmsubD (funct3 w) (rdField w) (rs1Field w) (rs2Field w) (rs3Field w)) w
  | 0x4B => decodeFused (.fnmsubS (funct3 w) (rdField w) (rs1Field w) (rs2Field w) (rs3Field w))
      (.fnmsubD (funct3 w) (rdField w) (rs1Field w) (rs2Field w) (rs3Field w)) w
  | 0x4F => decodeFused (.fnmaddS (funct3 w) (rdField w) (rs1Field w) (rs2Field w) (rs3Field w))
      (.fnmaddD (funct3 w) (rdField w) (rs1Field w) (rs2Field w) (rs3Field w)) w
  | 0x53 => decodeOpFp w
  | 0x63 => decodeBranch w
  | 0x67 => if funct3 w = 0 then .ok (.jalr (rdField w) (rs1Field w) (iImm w)) else undefinedWord w
  | 0x6F => .ok (.jal (rdField w) (jImm w))
  | 0x73 => decodeSystem w
  | _ => undefinedWord w

/-! ## Decoding 16-bit words, one function per quadrant (rules R223, R482) -/

def undefinedHalf (h : Half) : Decoded := .error (.undefinedHalf h)

def decodeQuadrant0 (h : Half) : Decoded :=
  match (cFunct3 h).toNat with
  | 0 => if cSpImm h = 0 then undefinedHalf h else .ok (.cAddi4spn (cLowField h) (cSpImm h))
  | 2 => .ok (.cLw (cLowField h) (cHighField h) (cWordImm h))
  | 4 => undefinedHalf h
  | 6 => .ok (.cSw (cLowField h) (cHighField h) (cWordImm h))
  | _ => .error (.compressedFloat h)

/-- Quadrant 01, funct3 100: shifts, C.ANDI and the register operations. -/
def decodeAlu (h : Half) : Decoded :=
  match (h.extractLsb' 10 2).toNat with
  | 0 => if cBit12 h = 0 then .ok (.cSrli (cHighField h) (cShamt h)) else undefinedHalf h
  | 1 => if cBit12 h = 0 then .ok (.cSrai (cHighField h) (cShamt h)) else undefinedHalf h
  | 2 => .ok (.cAndi (cHighField h) (cImm6 h))
  | _ =>
    if cBit12 h = 0 then
      match (h.extractLsb' 5 2).toNat with
      | 0 => .ok (.cSub (cHighField h) (cLowField h))
      | 1 => .ok (.cXor (cHighField h) (cLowField h))
      | 2 => .ok (.cOr (cHighField h) (cLowField h))
      | _ => .ok (.cAnd (cHighField h) (cLowField h))
    else undefinedHalf h

def decodeQuadrant1 (h : Half) : Decoded :=
  match (cFunct3 h).toNat with
  | 0 => if cRdField h = 0 ∧ cImm6 h = 0 then .ok .cNop else .ok (.cAddi (cRdField h) (cImm6 h))
  | 1 => .ok (.cJal (cJumpImm h))
  | 2 => .ok (.cLi (cRdField h) (cImm6 h))
  | 3 =>
    if cRdField h = 2 then
      if cAddi16Imm h = 0 then undefinedHalf h else .ok (.cAddi16sp (cAddi16Imm h))
    else if cImm6 h = 0 ∧ cRdField h ≠ 0 then undefinedHalf h
    else .ok (.cLui (cRdField h) (cImm6 h))
  | 4 => decodeAlu h
  | 5 => .ok (.cJ (cJumpImm h))
  | 6 => .ok (.cBeqz (cHighField h) (cBranchImm h))
  | _ => .ok (.cBnez (cHighField h) (cBranchImm h))

def decodeQuadrant2 (h : Half) : Decoded :=
  match (cFunct3 h).toNat with
  | 0 => if cBit12 h = 0 then .ok (.cSlli (cRdField h) (cShamt h)) else undefinedHalf h
  | 2 => if cRdField h = 0 then undefinedHalf h else .ok (.cLwsp (cRdField h) (cLwspImm h))
  | 4 =>
    if cBit12 h = 0 then
      if cRs2Field h = 0 then
        if cRdField h = 0 then undefinedHalf h else .ok (.cJr (cRdField h))
      else .ok (.cMv (cRdField h) (cRs2Field h))
    else if cRs2Field h = 0 then
      if cRdField h = 0 then .ok .cEbreak else .ok (.cJalr (cRdField h))
    else .ok (.cAdd (cRdField h) (cRs2Field h))
  | 6 => .ok (.cSwsp (cRs2Field h) (cSwspImm h))
  | _ => .error (.compressedFloat h)

/-- The instruction of a 16-bit word; bits 1:0 = 11 is no 16-bit word (rule R200). -/
def decodeHalf (h : Half) : Decoded :=
  match (cQuadrant h).toNat with
  | 0 => decodeQuadrant0 h
  | 1 => decodeQuadrant1 h
  | 2 => decodeQuadrant2 h
  | _ => undefinedHalf h

/-- The instruction of the bits that fetch delivered. -/
def decodeCode : Code → Decoded
  | .half h => decodeHalf h
  | .word w => decodeWord w

/-- A halfword whose bits 1:0 are 11 starts a 32-bit instruction (rule R200). -/
def isLong (h : Half) : Bool := cQuadrant h == 3

/-- The instruction at the head of a list of bytes, lowest address first, and the bytes behind it (rules R141, R200). -/
def decodeBytes : List Byte → Except DecodeError (Instr × List Byte)
  | b0 :: b1 :: rest =>
    if isLong (b1 ++ b0) then
      match rest with
      | b2 :: b3 :: rest => (decodeWord (b3 ++ b2 ++ b1 ++ b0)).map (·, rest)
      | _ => .error .truncated
    else (decodeHalf (b1 ++ b0)).map (·, rest)
  | _ => .error .truncated

/-- The bytes of an instruction in memory order: little-endian, the low halfword first (rule R141). -/
def Code.bytes : Code → List Byte
  | .half h => [h.extractLsb' 0 8, h.extractLsb' 8 8]
  | .word w => [w.extractLsb' 0 8, w.extractLsb' 8 8, w.extractLsb' 16 8, w.extractLsb' 24 8]

/-- What the decoder reads from an instruction whose bits are `w`, bit 0 being the least significant bit of the first
halfword; bits at and above `nbits` are zero. -/
def decodeTableWord (nbits w : Nat) : Option Instr :=
  match decodeBytes (Code.word (BitVec.ofNat 32 (w % 2 ^ nbits))).bytes with
  | .ok (i, _) => some i
  | .error _ => none

/-! ## The encoder -/

/-- The bits of an instruction (rules R261 to R545, each constructor's encoding). -/
def encode : Instr → Code
  | .add rd rs1 rs2 => .word (rType 0b0000000 rs2 rs1 0b000 rd 0b0110011)
  | .addi rd rs1 imm => .word (iType imm rs1 0b000 rd 0b0010011)
  | .sub rd rs1 rs2 => .word (rType 0b0100000 rs2 rs1 0b000 rd 0b0110011)
  | .and rd rs1 rs2 => .word (rType 0b0000000 rs2 rs1 0b111 rd 0b0110011)
  | .andi rd rs1 imm => .word (iType imm rs1 0b111 rd 0b0010011)
  | .or rd rs1 rs2 => .word (rType 0b0000000 rs2 rs1 0b110 rd 0b0110011)
  | .ori rd rs1 imm => .word (iType imm rs1 0b110 rd 0b0010011)
  | .xor rd rs1 rs2 => .word (rType 0b0000000 rs2 rs1 0b100 rd 0b0110011)
  | .xori rd rs1 imm => .word (iType imm rs1 0b100 rd 0b0010011)
  | .sll rd rs1 rs2 => .word (rType 0b0000000 rs2 rs1 0b001 rd 0b0110011)
  | .slli rd rs1 shamt => .word (rType 0b0000000 shamt rs1 0b001 rd 0b0010011)
  | .srl rd rs1 rs2 => .word (rType 0b0000000 rs2 rs1 0b101 rd 0b0110011)
  | .srli rd rs1 shamt => .word (rType 0b0000000 shamt rs1 0b101 rd 0b0010011)
  | .sra rd rs1 rs2 => .word (rType 0b0100000 rs2 rs1 0b101 rd 0b0110011)
  | .srai rd rs1 shamt => .word (rType 0b0100000 shamt rs1 0b101 rd 0b0010011)
  | .slt rd rs1 rs2 => .word (rType 0b0000000 rs2 rs1 0b010 rd 0b0110011)
  | .sltu rd rs1 rs2 => .word (rType 0b0000000 rs2 rs1 0b011 rd 0b0110011)
  | .slti rd rs1 imm => .word (iType imm rs1 0b010 rd 0b0010011)
  | .sltiu rd rs1 imm => .word (iType imm rs1 0b011 rd 0b0010011)
  | .lui rd imm => .word (uType imm rd 0b0110111)
  | .auipc rd imm => .word (uType imm rd 0b0010111)
  | .beq rs1 rs2 imm => .word (bType imm rs2 rs1 0b000 0b1100011)
  | .bne rs1 rs2 imm => .word (bType imm rs2 rs1 0b001 0b1100011)
  | .blt rs1 rs2 imm => .word (bType imm rs2 rs1 0b100 0b1100011)
  | .bge rs1 rs2 imm => .word (bType imm rs2 rs1 0b101 0b1100011)
  | .bltu rs1 rs2 imm => .word (bType imm rs2 rs1 0b110 0b1100011)
  | .bgeu rs1 rs2 imm => .word (bType imm rs2 rs1 0b111 0b1100011)
  | .jal rd imm => .word (jType imm rd 0b1101111)
  | .jalr rd rs1 imm => .word (iType imm rs1 0b000 rd 0b1100111)
  | .lb rd rs1 imm => .word (iType imm rs1 0b000 rd 0b0000011)
  | .lbu rd rs1 imm => .word (iType imm rs1 0b100 rd 0b0000011)
  | .lh rd rs1 imm => .word (iType imm rs1 0b001 rd 0b0000011)
  | .lhu rd rs1 imm => .word (iType imm rs1 0b101 rd 0b0000011)
  | .lw rd rs1 imm => .word (iType imm rs1 0b010 rd 0b0000011)
  | .sb rs2 rs1 imm => .word (sType imm rs2 rs1 0b000 0b0100011)
  | .sh rs2 rs1 imm => .word (sType imm rs2 rs1 0b001 0b0100011)
  | .sw rs2 rs1 imm => .word (sType imm rs2 rs1 0b010 0b0100011)
  | .csrrw rd rs1 csr => .word (iType csr rs1 0b001 rd 0b1110011)
  | .csrrs rd rs1 csr => .word (iType csr rs1 0b010 rd 0b1110011)
  | .csrrc rd rs1 csr => .word (iType csr rs1 0b011 rd 0b1110011)
  | .csrrwi rd uimm csr => .word (iType csr uimm 0b101 rd 0b1110011)
  | .csrrsi rd uimm csr => .word (iType csr uimm 0b110 rd 0b1110011)
  | .csrrci rd uimm csr => .word (iType csr uimm 0b111 rd 0b1110011)
  | .wfi => .word 0x10500073
  | .mret => .word 0x30200073
  | .fence rd rs1 fm pred succ => .word (fenceType fm pred succ rs1 rd)
  | .fenceI rd rs1 imm => .word (iType imm rs1 0b001 rd 0b0001111)
  | .ecall => .word 0x00000073
  | .ebreak => .word 0x00100073
  | .mul rd rs1 rs2 => .word (rType 0b0000001 rs2 rs1 0b000 rd 0b0110011)
  | .mulh rd rs1 rs2 => .word (rType 0b0000001 rs2 rs1 0b001 rd 0b0110011)
  | .mulhsu rd rs1 rs2 => .word (rType 0b0000001 rs2 rs1 0b010 rd 0b0110011)
  | .mulhu rd rs1 rs2 => .word (rType 0b0000001 rs2 rs1 0b011 rd 0b0110011)
  | .div rd rs1 rs2 => .word (rType 0b0000001 rs2 rs1 0b100 rd 0b0110011)
  | .divu rd rs1 rs2 => .word (rType 0b0000001 rs2 rs1 0b101 rd 0b0110011)
  | .rem rd rs1 rs2 => .word (rType 0b0000001 rs2 rs1 0b110 rd 0b0110011)
  | .remu rd rs1 rs2 => .word (rType 0b0000001 rs2 rs1 0b111 rd 0b0110011)
  | .amoaddW aq rl rd rs1 rs2 => .word (amoType 0b00000 aq rl rs2 rs1 rd)
  | .amoandW aq rl rd rs1 rs2 => .word (amoType 0b01100 aq rl rs2 rs1 rd)
  | .amomaxW aq rl rd rs1 rs2 => .word (amoType 0b10100 aq rl rs2 rs1 rd)
  | .amomaxuW aq rl rd rs1 rs2 => .word (amoType 0b11100 aq rl rs2 rs1 rd)
  | .amominW aq rl rd rs1 rs2 => .word (amoType 0b10000 aq rl rs2 rs1 rd)
  | .amominuW aq rl rd rs1 rs2 => .word (amoType 0b11000 aq rl rs2 rs1 rd)
  | .amoorW aq rl rd rs1 rs2 => .word (amoType 0b01000 aq rl rs2 rs1 rd)
  | .amoswapW aq rl rd rs1 rs2 => .word (amoType 0b00001 aq rl rs2 rs1 rd)
  | .amoxorW aq rl rd rs1 rs2 => .word (amoType 0b00100 aq rl rs2 rs1 rd)
  | .scW aq rl rd rs1 rs2 => .word (amoType 0b00011 aq rl rs2 rs1 rd)
  | .lrW aq rl rd rs1 => .word (amoType 0b00010 aq rl 0 rs1 rd)
  | .faddS rm fd fs1 fs2 => .word (rType 0b0000000 fs2 fs1 rm fd 0b1010011)
  | .fsubS rm fd fs1 fs2 => .word (rType 0b0000100 fs2 fs1 rm fd 0b1010011)
  | .fmulS rm fd fs1 fs2 => .word (rType 0b0001000 fs2 fs1 rm fd 0b1010011)
  | .fdivS rm fd fs1 fs2 => .word (rType 0b0001100 fs2 fs1 rm fd 0b1010011)
  | .fsqrtS rm fd fs1 => .word (rType 0b0101100 0b00000 fs1 rm fd 0b1010011)
  | .fsgnjS fd fs1 fs2 => .word (rType 0b0010000 fs2 fs1 0b000 fd 0b1010011)
  | .fsgnjnS fd fs1 fs2 => .word (rType 0b0010000 fs2 fs1 0b001 fd 0b1010011)
  | .fsgnjxS fd fs1 fs2 => .word (rType 0b0010000 fs2 fs1 0b010 fd 0b1010011)
  | .fminS fd fs1 fs2 => .word (rType 0b0010100 fs2 fs1 0b000 fd 0b1010011)
  | .fmaxS fd fs1 fs2 => .word (rType 0b0010100 fs2 fs1 0b001 fd 0b1010011)
  | .feqS rd fs1 fs2 => .word (rType 0b1010000 fs2 fs1 0b010 rd 0b1010011)
  | .fltS rd fs1 fs2 => .word (rType 0b1010000 fs2 fs1 0b001 rd 0b1010011)
  | .fleS rd fs1 fs2 => .word (rType 0b1010000 fs2 fs1 0b000 rd 0b1010011)
  | .fclassS rd fs1 => .word (rType 0b1110000 0b00000 fs1 0b001 rd 0b1010011)
  | .fmaddS rm fd fs1 fs2 fs3 => .word (r4Type fs3 0b00 fs2 fs1 rm fd 0b1000011)
  | .fmsubS rm fd fs1 fs2 fs3 => .word (r4Type fs3 0b00 fs2 fs1 rm fd 0b1000111)
  | .fnmsubS rm fd fs1 fs2 fs3 => .word (r4Type fs3 0b00 fs2 fs1 rm fd 0b1001011)
  | .fnmaddS rm fd fs1 fs2 fs3 => .word (r4Type fs3 0b00 fs2 fs1 rm fd 0b1001111)
  | .fcvtSW rm fd rs1 => .word (rType 0b1101000 0b00000 rs1 rm fd 0b1010011)
  | .fcvtSWu rm fd rs1 => .word (rType 0b1101000 0b00001 rs1 rm fd 0b1010011)
  | .fcvtWS rm rd fs1 => .word (rType 0b1100000 0b00000 fs1 rm rd 0b1010011)
  | .fcvtWuS rm rd fs1 => .word (rType 0b1100000 0b00001 fs1 rm rd 0b1010011)
  | .fmvWX fd rs1 => .word (rType 0b1111000 0b00000 rs1 0b000 fd 0b1010011)
  | .fmvXW rd fs1 => .word (rType 0b1110000 0b00000 fs1 0b000 rd 0b1010011)
  | .flw fd rs1 imm => .word (iType imm rs1 0b010 fd 0b0000111)
  | .fsw fs2 rs1 imm => .word (sType imm fs2 rs1 0b010 0b0100111)
  | .faddD rm fd fs1 fs2 => .word (rType 0b0000001 fs2 fs1 rm fd 0b1010011)
  | .fsubD rm fd fs1 fs2 => .word (rType 0b0000101 fs2 fs1 rm fd 0b1010011)
  | .fmulD rm fd fs1 fs2 => .word (rType 0b0001001 fs2 fs1 rm fd 0b1010011)
  | .fdivD rm fd fs1 fs2 => .word (rType 0b0001101 fs2 fs1 rm fd 0b1010011)
  | .fsqrtD rm fd fs1 => .word (rType 0b0101101 0b00000 fs1 rm fd 0b1010011)
  | .fsgnjD fd fs1 fs2 => .word (rType 0b0010001 fs2 fs1 0b000 fd 0b1010011)
  | .fsgnjnD fd fs1 fs2 => .word (rType 0b0010001 fs2 fs1 0b001 fd 0b1010011)
  | .fsgnjxD fd fs1 fs2 => .word (rType 0b0010001 fs2 fs1 0b010 fd 0b1010011)
  | .fminD fd fs1 fs2 => .word (rType 0b0010101 fs2 fs1 0b000 fd 0b1010011)
  | .fmaxD fd fs1 fs2 => .word (rType 0b0010101 fs2 fs1 0b001 fd 0b1010011)
  | .feqD rd fs1 fs2 => .word (rType 0b1010001 fs2 fs1 0b010 rd 0b1010011)
  | .fltD rd fs1 fs2 => .word (rType 0b1010001 fs2 fs1 0b001 rd 0b1010011)
  | .fleD rd fs1 fs2 => .word (rType 0b1010001 fs2 fs1 0b000 rd 0b1010011)
  | .fclassD rd fs1 => .word (rType 0b1110001 0b00000 fs1 0b001 rd 0b1010011)
  | .fmaddD rm fd fs1 fs2 fs3 => .word (r4Type fs3 0b01 fs2 fs1 rm fd 0b1000011)
  | .fmsubD rm fd fs1 fs2 fs3 => .word (r4Type fs3 0b01 fs2 fs1 rm fd 0b1000111)
  | .fnmsubD rm fd fs1 fs2 fs3 => .word (r4Type fs3 0b01 fs2 fs1 rm fd 0b1001011)
  | .fnmaddD rm fd fs1 fs2 fs3 => .word (r4Type fs3 0b01 fs2 fs1 rm fd 0b1001111)
  | .fcvtDS rm fd fs1 => .word (rType 0b0100001 0b00000 fs1 rm fd 0b1010011)
  | .fcvtDW rm fd rs1 => .word (rType 0b1101001 0b00000 rs1 rm fd 0b1010011)
  | .fcvtDWu rm fd rs1 => .word (rType 0b1101001 0b00001 rs1 rm fd 0b1010011)
  | .fcvtSD rm fd fs1 => .word (rType 0b0100000 0b00001 fs1 rm fd 0b1010011)
  | .fcvtWD rm rd fs1 => .word (rType 0b1100001 0b00000 fs1 rm rd 0b1010011)
  | .fcvtWuD rm rd fs1 => .word (rType 0b1100001 0b00001 fs1 rm rd 0b1010011)
  | .fld fd rs1 imm => .word (iType imm rs1 0b011 fd 0b0000111)
  | .fsd fs2 rs1 imm => .word (sType imm fs2 rs1 0b011 0b0100111)
  | .cAddi4spn rd nzuimm => .half (ciwType nzuimm rd)
  | .cLw rd rs1 uimm => .half (clType 0b010 uimm rs1 rd)
  | .cSw rs2 rs1 uimm => .half (clType 0b110 uimm rs1 rs2)
  | .cNop => .half 0x0001
  | .cAddi rd imm => .half (ciType 0b000 imm rd 0b01)
  | .cJal imm => .half (cjType 0b001 imm)
  | .cLi rd imm => .half (ciType 0b010 imm rd 0b01)
  | .cAddi16sp nzimm => .half (cAddi16Type nzimm)
  | .cLui rd nzimm => .half (ciType 0b011 nzimm rd 0b01)
  | .cSrli rd shamt => .half (cbShiftType 0 0b00 rd shamt)
  | .cSrai rd shamt => .half (cbShiftType 0 0b01 rd shamt)
  | .cAndi rd imm => .half (cbShiftType (imm.extractLsb' 5 1) 0b10 rd (imm.extractLsb' 0 5))
  | .cSub rd rs2 => .half (caType 0b00 rd rs2)
  | .cXor rd rs2 => .half (caType 0b01 rd rs2)
  | .cOr rd rs2 => .half (caType 0b10 rd rs2)
  | .cAnd rd rs2 => .half (caType 0b11 rd rs2)
  | .cJ imm => .half (cjType 0b101 imm)
  | .cBeqz rs1 imm => .half (cbType 0b110 imm rs1)
  | .cBnez rs1 imm => .half (cbType 0b111 imm rs1)
  | .cSlli rd shamt => .half (ciType 0b000 (0b0#1 ++ shamt) rd 0b10)
  | .cLwsp rd uimm => .half (cLwspType uimm rd)
  | .cJr rs1 => .half (crType 0b1000 rs1 0)
  | .cMv rd rs2 => .half (crType 0b1000 rd rs2)
  | .cEbreak => .half 0x9002
  | .cJalr rs1 => .half (crType 0b1001 rs1 0)
  | .cAdd rd rs2 => .half (crType 0b1001 rd rs2)
  | .cSwsp rs2 uimm => .half (cSwspType uimm rs2)
  | .dcacheCall => .word 0x0010000B
  | .dcacheIall => .word 0x0020000B
  | .dcacheCiall => .word 0x0030000B
  | .icacheIall => .word 0x0100000B
  | .sync => .word 0x0180000B
  | .syncI => .word 0x01A0000B
  | .dcacheCsw rs1 => .word (rType 0b0000001 0b00001 rs1 0b000 0b00000 0b0001011)
  | .dcacheIsw rs1 => .word (rType 0b0000001 0b00010 rs1 0b000 0b00000 0b0001011)
  | .dcacheCisw rs1 => .word (rType 0b0000001 0b00011 rs1 0b000 0b00000 0b0001011)
  | .dcacheCpa rs1 => .word (rType 0b0000001 0b01000 rs1 0b000 0b00000 0b0001011)
  | .dcacheIpa rs1 => .word (rType 0b0000001 0b01010 rs1 0b000 0b00000 0b0001011)
  | .dcacheCipa rs1 => .word (rType 0b0000001 0b01011 rs1 0b000 0b00000 0b0001011)
  | .icacheIpa rs1 => .word (rType 0b0000001 0b11000 rs1 0b000 0b00000 0b0001011)

/-- The length of an instruction in bytes: 4, or 2 for the compressed family (rules R200, R480). -/
def Instr.length (i : Instr) : Nat := (encode i).length

end Sys2Proof
end

