-- ==== Sys2Proof/Config.lean ====
section
/-! DEFINITION. What an implementation fixes (rule R6, decisions D1 to D6, D25, D26, D28) and the free values of the
spec: constants without a body, so that nothing can be proved of them. -/

namespace Sys2Proof.Config

/-- The floating-point unit that is built (rule R6, D1). -/
inductive Fpu where
  | none
  | single
  | double
  deriving DecidableEq, Repr

/-- Size of one cache in KiB, or absent (rule R6, D4). -/
inductive CacheSize where
  | absent
  | kib2
  | kib4
  | kib8
  | kib16
  | kib32
  deriving DecidableEq, Repr

/-- The highest bit s of the set index as rule R532 counts it; the index of an address ends there (rules R180, R532). -/
def setTopBit : CacheSize → Nat
  | .absent => 4
  | .kib2 => 9
  | .kib4 => 10
  | .kib8 => 11
  | .kib16 => 12
  | .kib32 => 13

/-- A bus window: the upper twelve address bits are compared under the mask (rule R142). -/
structure Window where
  base : BitVec 12
  mask : BitVec 12
  deriving DecidableEq, Repr

/-- The attributes of an address (rule R170): strong order, cacheable, bufferable. -/
structure Attr where
  strongOrder : Bool
  cacheable   : Bool
  bufferable  : Bool
  deriving DecidableEq, Repr

/-- One SYSMAP region: its upper bound as address bits 31:12, and its attributes (rule R170). -/
structure SysmapRegion where
  bound : BitVec 20
  attr  : Attr
  deriving DecidableEq, Repr

/-- One region of the platform's `BusError` predicate (rule R144, D5): addresses `lo` up to `hi` inclusive answer
with an error to the kinds that are marked. -/
structure BusErrorRegion where
  lo    : Word
  hi    : Word
  fetch : Bool
  load  : Bool
  store : Bool
  deriving DecidableEq, Repr

/-- Bit positions of the fields of MXSTATUS (rule R64, D25): PM takes two bits, `pm` being the lower one. -/
structure MxstatusLayout where
  pm    : Nat
  thead : Nat
  mm    : Nat
  pmdm  : Nat
  pmdu  : Nat
  deriving DecidableEq, Repr

/-- Bit positions of the fields of MEXSTATUS (rule R68, D28): LPMD takes two bits, `lpmd` being the lower one. -/
structure MexstatusLayout where
  lpmd    : Nat
  wfe     : Nat
  exptVld : Nat
  lockup  : Nat
  nmi     : Nat
  buserr  : Nat
  deriving DecidableEq, Repr

/-- The parameters of rule R6 that one implementation fixes. They are plain data held in the state, never written by
a step (log 1). -/
structure Params where
  fpu            : Fpu
  pmpEntries     : Nat
  clicNumInt     : Nat
  clicIntCtlBits : Nat
  clicVersion    : BitVec 8
  resetPc        : Word
  mcpuid         : Word
  icache         : CacheSize
  dcache         : CacheSize
  dcacheSwIndex  : List Nat
  ibus           : Window
  dbus           : Window
  sysmap         : List SysmapRegion
  busErrors      : List BusErrorRegion
  mxstatus       : MxstatusLayout
  mexstatus      : MexstatusLayout
  mhintAee       : Nat
  deriving DecidableEq, Repr

/-- The parameters of `State.reset` (logs 1, 23): the layouts are the spec's defaults (D25, D28), the position of AEE is
PRESUMED (D26), the rest DESIGN CHOICE. -/
def Params.default : Params where
  fpu := .double
  pmpEntries := 16
  clicNumInt := 16
  clicIntCtlBits := 3
  clicVersion := 0
  resetPc := 0
  mcpuid := 0
  icache := .kib32
  dcache := .kib32
  dcacheSwIndex := [5, 6, 7, 8, 9, 10, 11, 12, 13]
  ibus := { base := 0x000, mask := 0xF00 }
  dbus := { base := 0x200, mask := 0xF00 }
  sysmap :=
    [ { bound := 0xE0000, attr := { strongOrder := false, cacheable := true, bufferable := true } },
      { bound := 0xF0000, attr := { strongOrder := true, cacheable := false, bufferable := false } } ]
  busErrors := []
  mxstatus := { pm := 30, thead := 22, mm := 15, pmdm := 13, pmdu := 10 }
  mexstatus := { lpmd := 2, wfe := 4, exptVld := 5, lockup := 6, nmi := 7, buserr := 8 }
  mhintAee := 20

/-- The address hits the window (rule R142). -/
def Window.hits (w : Window) (a : Word) : Bool :=
  (a.extractLsb' 20 12 &&& w.mask) == (w.base &&& w.mask)

/-- The window of the tightly coupled devices, 0xE0000000 to 0xEFFFFFFF (rule R142). -/
def tcipWindow : Window := { base := 0xE00, mask := 0xF00 }

/-- No address hits both windows: they differ in a bit that both compare. -/
def Window.disjoint (v w : Window) : Bool :=
  ((v.base ^^^ w.base) &&& v.mask &&& w.mask) != 0

/-- The masks of windows of 1 MiB to 4 GiB: leading ones, then zeros (rule R142). -/
def Window.maskLegal (w : Window) : Bool :=
  (List.range 13).any fun k => w.mask == BitVec.allOnes 12 <<< k

/-- The attributes of an address (rule R170): the first region whose upper bound lies above it; an address in none of
the regions is cacheable and bufferable. DESIGN CHOICE: bounds need not rise, and an address that lies in the ranges of several
regions then takes the attributes of the lowest-numbered one (rule R170 names no winner; log 54). -/
def attrOf : List SysmapRegion → Word → Attr
  | [], _ => { strongOrder := false, cacheable := true, bufferable := true }
  | r :: rs, a => if a.extractLsb' 12 20 < r.bound then r.attr else attrOf rs a

/-- Every SYSMAP region that overlaps the window of the devices is strong order, not cacheable, not bufferable (rule
R170): the pages from `lower` up to each bound are walked. -/
def tcipStrong : BitVec 20 → List SysmapRegion → Bool
  | lower, [] => decide (0xF0000 ≤ lower)
  | lower, r :: rs =>
    (decide (r.bound ≤ lower) || decide (r.bound ≤ 0xE0000) || decide (0xF0000 ≤ lower) ||
      (r.attr.strongOrder && !r.attr.cacheable && !r.attr.bufferable)) &&
    tcipStrong (if lower < r.bound then r.bound else lower) rs

/-- The bits a layout uses are below 32 and distinct. -/
def layoutLegal (bits : List Nat) : Bool :=
  bits.all (· < 32) && decide bits.Nodup

/-- The operand bits of a set/way instruction that hold the set index, lowest index bit first (`DCACHE_SW_INDEX`, rule R532,
C30, U11; log 23): as many as the index has, none twice, none the way's bit 31, and bits s:6 among them. -/
def swIndexLegal (c : CacheSize) (bits : List Nat) : Bool :=
  bits.length == setTopBit c - 4 && bits.all (· < 31) && decide bits.Nodup &&
    (List.range (setTopBit c + 1)).all fun k => decide (k < 6) || bits.contains k

/-- A well-formed configuration (rules R6, R142, R170, R532; U1): the precondition of the model (log 48). -/
def Params.wf (p : Params) : Bool :=
  [0, 4, 8, 12, 16].contains p.pmpEntries &&
  (decide (1 ≤ p.clicNumInt) && decide (p.clicNumInt ≤ 240)) &&
  (decide (2 ≤ p.clicIntCtlBits) && decide (p.clicIntCtlBits ≤ 5)) &&
  !p.resetPc.getLsbD 0 &&
  (p.ibus.maskLegal && p.dbus.maskLegal) &&
  (p.ibus.disjoint p.dbus && p.ibus.disjoint tcipWindow && p.dbus.disjoint tcipWindow) &&
  decide (p.sysmap.length ≤ 8) &&
  tcipStrong 0 p.sysmap &&
  layoutLegal [p.mxstatus.pm, p.mxstatus.pm + 1, p.mxstatus.thead, p.mxstatus.mm, p.mxstatus.pmdm, p.mxstatus.pmdu] &&
  layoutLegal [p.mexstatus.lpmd, p.mexstatus.lpmd + 1, p.mexstatus.wfe, p.mexstatus.exptVld, p.mexstatus.lockup,
    p.mexstatus.nmi, p.mexstatus.buserr] &&
  decide (p.mhintAee < 32) &&
  swIndexLegal p.dcache p.dcacheSwIndex

/-! ## Free values

Each takes the state's `freeCtr` (log 10), so that it differs from step to step, and what else it may depend on. -/

/-- Clock cycles a step takes beyond the first (rule R59, D73; log 11). -/
opaque extraCycles : Nat → Nat

/-- Occurrences of the micro-architectural event of counter `n` in one step (rule R61; log 12). -/
opaque eventCount : Nat → Nat → Nat

/-- An AMO, or an SC.W whether it stores or not, counts as a store instruction of MHPMCOUNTER13 (rule R61 does not say; log
12). -/
opaque atomicCounts : Nat → Bool

/-- A trapping instruction is counted by MINSTRET (U12; log 13). -/
opaque trapCounts : Nat → Bool

/-- MINSTRET advances after a CSR write to itself (U12; log 13). -/
opaque writeCounts : Nat → Bool

/-- SC.W fails although the reservation holds (rule R179, D41; log 14). -/
opaque scSpurious : Nat → Bool

/-- The destination of a load with an imprecise bus error has changed (rule R566, U15; log 17). -/
opaque unstatedWrites : Nat → Bool

/-- What such a load has left in its destination (rule R566, U15; log 17). -/
opaque unstatedLoad : Nat → Dword

/-- Piece `i` of a store that gets an error in another piece has been written (U2, U3; logs 18 to 20). -/
opaque pieceWritten : Nat → Nat → Bool

/-- Which of the contents a fetched halfword may have is seen (U6; log 22): the step, the address, the number of
candidates. -/
opaque fetchChoice : Nat → Nat → Nat → Nat

/-- A line that the data cache is known to have held is still in it when an access comes to an address of it (rule R182; logs
21, 24, 28): the step and the address. -/
opaque lineStays : Nat → Nat → Bool

/-- A store to an address allocates its line in the data cache, or finds it there (rule R182; logs 21, 28). -/
opaque lineAllocated : Nat → Nat → Bool

/-- The way in which it lies then (rules R180, R182; logs 21, 28). -/
opaque lineWay : Nat → Nat → Bool

/-- The lines, with their ways, that the data cache holds when it is switched off (rules R180, R182; log 24). -/
opaque linesHeld : Nat → List (BitVec 27 × Bool)

/-- A dirty line that is to be discarded has been evicted, hence written back, before (rules R182, R532; log 21). -/
opaque lineEvicted : Nat → Nat → Bool

/-- An edge that arrives in the step in which the pending bit is cleared survives (U17; log 35). -/
opaque edgeSurvives : Nat → Nat → Bool

/-- The pending bit of a source whose trigger is switched from level to edge (rule R674 does not say; log 34). -/
opaque pendingAfterRetrigger : Nat → Nat → Bool

end Sys2Proof.Config
end

