-- ==== Sys2Proof/Machine/State.lean ====
section
/-! DEFINITION. The state of the machine as plain data (rules R20 to R79), the reasons a step can stop, and the state after
reset. INVENTORY.md lists every field with its width, its rule and its reset value. -/

namespace Sys2Proof.Machine

open Sys2Proof.Config

/-- Why the machine stops with a fault. -/
inductive Fault where
  /-- Raised by `step` when the parameters are no well-formed configuration (U1, log 48). Safe: the machine stops where
  the spec calls the behaviour unpredictable. -/
  | illFormedParameters
  deriving DecidableEq, Repr

/-- Why a step has no meaning. -/
inductive Refusal where
  /-- Raised by an arm of `exec` whose instruction has no meaning yet. Safe. -/
  | notModelled (mnemonic : String)
  /-- Raised by the fetch of a compressed floating-point slot when a floating-point unit is built (U10, log 42). Safe. -/
  | compressedFloatSlot (code : Half)
  /-- Raised by a load, store or atomic that the devices do not describe (U16, log 26). Safe. -/
  | deviceAccess (address : Word)
  /-- Raised by a fetch or vector read of a device register or offset in a width that the devices do not describe (U16, rules
  R665, R679, log 27). Safe. -/
  | deviceFetch (address : Word)
  /-- Raised by a misaligned access that reaches a strong-order region (U3, log 19). Safe. -/
  | misalignedDevice (address : Word)
  /-- Raised by a CSR instruction other than CSRRW on MSCRATCHCSW or MSCRATCHCSWL (U7, log 33). Safe. -/
  | mscratchcswForm
  /-- Raised by a CSR instruction other than CSRRSI and CSRRCI on MNXTI (U8, log 33). Safe. -/
  | mnxtiForm
  /-- Raised by a CSR write that would change MXSTATUS.PM (U9, log 33). Safe. -/
  | mxstatusPmWrite
  /-- Raised by a write of MHCR that clears DE or changes WB or WA while the data cache holds dirty lines (U5, log 25).
  Safe. -/
  | cacheModeWithCacheLines
  deriving DecidableEq, Repr

/-- Privilege modes (rule R620). -/
inductive Priv where
  | user
  | machine
  deriving DecidableEq, Repr

/-- MSTATUS without its computed fields XS and SD (rule R36). MCAUSE.MPP and MCAUSE.MPIE are the same storage. -/
structure Mstatus where
  mie  : Bool
  mpie : Bool
  mpp  : Priv
  fs   : BitVec 2
  mprv : Bool
  deriving DecidableEq, Repr

/-- MCAUSE without MPP and MPIE (rule R48). -/
structure Mcause where
  interrupt : Bool
  minhv     : Bool
  mpil      : BitVec 8
  code      : BitVec 12
  deriving DecidableEq, Repr

/-- MNMICAUSE (rule R69). -/
structure Mnmicause where
  intr   : Bool
  mpp    : Priv
  mpie   : Bool
  vector : BitVec 12
  deriving DecidableEq, Repr

/-- MXSTATUS without PM, which is `State.priv` (rule R64). -/
structure Mxstatus where
  thead : Bool
  mm    : Bool
  pmdm  : Bool
  pmdu  : Bool
  deriving DecidableEq, Repr

/-- MEXSTATUS (rule R68). -/
structure Mexstatus where
  lpmd    : BitVec 2
  wfe     : Bool
  exptVld : Bool
  lockup  : Bool
  nmi     : Bool
  buserr  : Bool
  deriving DecidableEq, Repr

/-- MHCR (rule R65). -/
structure Mhcr where
  btb : Bool
  bpe : Bool
  rs  : Bool
  wa  : Bool
  wb  : Bool
  de  : Bool
  ie  : Bool
  deriving DecidableEq, Repr

/-- FCSR: the accrued flags NV DZ OF UF NX in bits 4:0, and the dynamic rounding mode (rule R74). -/
structure Fcsr where
  flags : BitVec 5
  frm   : BitVec 3
  deriving DecidableEq, Repr

/-- One PMP entry: its configuration byte and its address register (rules R53, R54). -/
structure PmpEntry where
  cfg  : Byte
  addr : Word
  deriving DecidableEq, Repr

/-- One event counter: its number, its selector, its count, and whether a CSR write has initialised it (rules R58, R61). -/
structure Hpm where
  index : Nat
  event : BitVec 5
  count : Dword
  ready : Bool
  deriving DecidableEq, Repr

/-- The CLINT's own registers (rules R661, R662). -/
structure Clint where
  msip     : Bool
  mtimecmp : Dword
  deriving DecidableEq, Repr

/-- One interrupt source of the CLIC (rules R674 to R677), with the line its edge detector saw last (rule R685, log 34) and
whether the selected edge arrived in this step (U17, log 35). -/
structure ClicSource where
  id    : Nat
  ip    : Bool
  ie    : Bool
  trig  : BitVec 2
  shv   : Bool
  ctl   : Byte
  line  : Bool
  edge  : Bool
  deriving DecidableEq, Repr

/-- The CLIC (rules R671, R673). -/
structure Clic where
  nlbits  : BitVec 4
  mth     : BitVec 8
  sources : List ClicSource
  deriving DecidableEq, Repr

/-- A line of the data cache: its address without bits 4:0, the way it lies in, and 32 bytes older than those that memory holds
of it: of a dirty line the next level's, of a kept line the cache's own (rules R78(f), R180, R182; logs 21, 24). -/
structure CacheLine where
  line  : BitVec 27
  way   : Bool
  older : List Byte
  deriving DecidableEq, Repr

/-- An older content of a halfword that a fetch may still see; `flushed` when its instruction-cache line has been
invalidated and only the pipeline may still hold it (U6, log 22). -/
structure StaleHalf where
  addr    : Word
  older   : Half
  flushed : Bool
  deriving DecidableEq, Repr

/-- A data bus error that has not been reported yet (rule R566, log 16). -/
structure BusError where
  store : Bool
  addr  : Word
  deriving DecidableEq, Repr

/-- The inputs of one step (rules R16, R610, log 9) and the choices the spec leaves to the hardware's timing (logs 16,
18, 36). -/
structure Pins where
  reset          : Bool
  nmi            : Bool
  extEvent       : Bool
  extInt         : Bool
  intVld         : BitVec 240
  sysCntAdvance  : Dword
  deferInterrupt : Bool
  deferBusError  : Bool
  loseBusError   : Bool
  deriving DecidableEq, Repr

/-- No request on any line; the system counter counts once a step. -/
def Pins.idle : Pins where
  reset := false
  nmi := false
  extEvent := false
  extInt := false
  intVld := 0
  sysCntAdvance := 1
  deferInterrupt := false
  deferBusError := false
  loseBusError := false

/-- Memory: the listed bytes, in the canonical form of `Memory.wf` (rule R140). -/
abbrev Memory := List Host.Cell

/-- The state of the machine. -/
structure State where
  params        : Params
  x             : Vector Word 32
  f             : Vector Dword 32
  pc            : Word
  priv          : Priv
  mstatus       : Mstatus
  mtvecBase     : BitVec 30
  mtvtBase      : BitVec 26
  mscratch      : Word
  mepc          : Word
  mcause        : Mcause
  mtval         : Word
  mil           : BitVec 8
  mnmicause     : Mnmicause
  mnmipc        : Word
  pmp           : List PmpEntry
  mcounteren    : Word
  mcountinhibit : Word
  mcycle        : Dword
  minstret      : Dword
  hpm           : List Hpm
  mxstatus      : Mxstatus
  mhcr          : Mhcr
  aee           : Bool
  mexstatus     : Mexstatus
  fcsr          : Fcsr
  mem           : Memory
  reservation   : Option Word
  asleep        : Bool
  lockedUp      : Bool
  clint         : Clint
  mtime         : Dword
  clic          : Clic
  dirty         : List CacheLine
  kept          : List CacheLine
  stale         : List StaleHalf
  busErrors     : List BusError
  pins          : Pins
  env           : List Pins
  freeCtr       : Nat
  deriving DecidableEq, Repr

/-- What a step, or the meaning of one instruction, answers. -/
abbrev Result := Host.Outcome State Fault Refusal

/-- The event counters that exist, with the event each counts (rules R58, R701). -/
def hpmEvents : List (Nat × BitVec 5) :=
  [(3, 0x1), (4, 0x2), (8, 0x6), (9, 0x7), (13, 0xB), (14, 0xC), (15, 0xD), (16, 0xE), (17, 0xF)]

/-- The interrupt numbers that exist (rules R585, R685). -/
def sourceIds (p : Params) : List Nat :=
  [3, 7, 11] ++ (List.range p.clicNumInt).map (16 + ·)

/-- The bits of CLICINTCTL that are tied to 1 (rule R677). -/
def ctlTied (p : Params) : Byte :=
  BitVec.ofNat 8 (2 ^ (8 - p.clicIntCtlBits) - 1)

/-- The state after reset for given parameters (rules R79, R740): what the spec states, and for what it leaves unspecified the
values of logs 2 to 10. No bus error waits any longer (the spec does not say whether one survives reset, log 16). -/
def State.resetOf (p : Params) : State where
  params := p
  x := Vector.replicate 32 0
  f := Vector.replicate 32 0
  pc := p.resetPc
  priv := .machine
  mstatus := { mie := false, mpie := false, mpp := .user, fs := 0, mprv := false }
  mtvecBase := 0
  mtvtBase := 0
  mscratch := 0
  mepc := 0
  mcause := { interrupt := false, minhv := false, mpil := 0, code := 0 }
  mtval := 0
  mil := 0
  mnmicause := { intr := false, mpp := .user, mpie := false, vector := 0 }
  mnmipc := 0
  pmp := List.replicate p.pmpEntries { cfg := 0, addr := 0 }
  mcounteren := 0
  mcountinhibit := 0
  mcycle := 0
  minstret := 0
  hpm := hpmEvents.map fun (n, _) => { index := n, event := 0, count := 0, ready := false }
  mxstatus := { thead := false, mm := true, pmdm := false, pmdu := false }
  mhcr := { btb := false, bpe := false, rs := false, wa := false, wb := false, de := false, ie := false }
  aee := false
  mexstatus := { lpmd := 0, wfe := true, exptVld := false, lockup := false, nmi := false, buserr := false }
  fcsr := { flags := 0, frm := 0 }
  mem := []
  reservation := none
  asleep := false
  lockedUp := false
  clint := { msip := false, mtimecmp := BitVec.allOnes 64 }
  mtime := 0
  clic := { nlbits := 0, mth := 0,
            sources := (sourceIds p).map fun i =>
              { id := i, ip := false, ie := false, trig := 0, shv := false, ctl := ctlTied p, line := false, edge := false } }
  dirty := []
  kept := []
  stale := []
  busErrors := []
  pins := .idle
  env := []
  freeCtr := 0

/-- The machine right after reset, with the parameters of log 1. -/
def State.reset : State := State.resetOf Params.default

end Sys2Proof.Machine
end

