-- ==== Sys2Proof/Machine/Devices.lean ====
section
/-! DEFINITION. The tightly coupled devices: CLINT (rules R660 to R665) and CLIC (rules R670 to R695). -/

namespace Sys2Proof.Machine

open Sys2Proof.Config

/-- The address lies in the device window 0xE0000000 to 0xEFFFFFFF (rule R142). -/
def inTcip (a : Word) : Bool := a.extractLsb' 28 4 == 0xE

/-! ## Source lines and pending bits (rule R685) -/

/-- The timer line (rule R663). -/
def State.timerLine (s : State) : Bool := decide (s.clint.mtimecmp ≤ s.mtime)

/-- The source line of an interrupt number. -/
def State.sourceLine (s : State) (i : Nat) : Bool :=
  if i = 3 then s.clint.msip
  else if i = 7 then s.timerLine
  else if i = 11 then s.pins.extInt
  else s.pins.intVld.getLsbD (i - 16)

/-- Edge mode: trig[0] = 1 (rule R676). -/
def ClicSource.edgeMode (c : ClicSource) : Bool := c.trig.getLsbD 0

/-- The pending bit follows a level line, and is set by the selected edge (rules R674, R685). -/
def ClicSource.sample (c : ClicSource) (line : Bool) : ClicSource :=
  let selected := if c.trig.getLsbD 1 then c.line && !line else !c.line && line
  { c with ip := if c.edgeMode then c.ip || selected else line, line := line, edge := c.edgeMode && selected }

/-- Every source is changed by a function. -/
def State.mapSources (s : State) (g : ClicSource → ClicSource) : State :=
  { s with clic := { s.clic with sources := s.clic.sources.map g } }

/-- Every source samples its line. -/
def State.sampleClic (s : State) : State := s.mapSources fun c => c.sample (s.sourceLine c.id)

/-- The pending bit of an edge source is cleared; an edge of this step may survive (rule R674, U17, log 35). -/
def ClicSource.clear (ctr : Nat) (c : ClicSource) : ClicSource :=
  if c.edgeMode then { c with ip := c.edge && edgeSurvives ctr c.id } else c

/-- The pending bit of one source is cleared by the core (rules R586, R49). -/
def State.clearPending (s : State) (i : Nat) : State :=
  s.mapSources fun c => if c.id = i then c.clear s.freeCtr else c

/-! ## Levels and arbitration (rules R677, R695) -/

/-- What the CLIC presents to the core. -/
structure Presented where
  id    : Nat
  level : BitVec 8
  shv   : Bool
  deriving DecidableEq, Repr

/-- The level of a control value: its top `min nlbits B` bits, ones below (rule R677). -/
def levelOf (p : Params) (nlbits : BitVec 4) (ctl : Byte) : BitVec 8 :=
  let ones := BitVec.ofNat 8 (2 ^ (8 - min nlbits.toNat p.clicIntCtlBits) - 1)
  (ctl &&& ~~~ones) ||| ones

/-- The level of a source (rule R677). -/
def State.sourceLevel (s : State) (c : ClicSource) : BitVec 8 := levelOf s.params s.clic.nlbits c.ctl

/-- The source takes part in arbitration (rule R695). -/
def State.candidate (s : State) (c : ClicSource) : Bool :=
  c.ip && c.ie && decide (s.clic.mth < s.sourceLevel c) && c.ctl != 0

/-- The one with the larger priority wins; among equals the larger number (rule R695). -/
def ClicSource.outranks (c d : ClicSource) : Bool :=
  decide (d.ctl < c.ctl) || (c.ctl == d.ctl && decide (d.id < c.id))

/-- The better of two candidates. -/
def stronger (best : Option ClicSource) (c : ClicSource) : Option ClicSource :=
  match best with
  | none => some c
  | some d => some (if c.outranks d then c else d)

/-- The winner of the arbitration (rule R695). -/
def State.winner (s : State) : Option ClicSource := (s.clic.sources.filter s.candidate).foldl stronger none

/-- The interrupt the CLIC presents (rule R695). -/
def State.presented (s : State) : Option Presented :=
  s.winner.map fun c => { id := c.id, level := s.sourceLevel c, shv := c.shv }

/-- The core takes the presented interrupt (rules R690, R585; D55). -/
def State.takes (s : State) (c : Presented) : Bool :=
  (s.mstatus.mie || s.priv == .user) && decide (s.mil < c.level) && !s.mexstatus.nmi && !s.lockedUp

/-- A wake-up condition holds (rule R721, D70). -/
def State.wakes (s : State) : Bool :=
  s.pins.nmi || (s.mexstatus.wfe && s.pins.extEvent) ||
    match s.presented with
    | some c => s.mexstatus.wfe || decide (s.mil < c.level)
    | none => false

/-! ## Memory-mapped registers (rules R660, R670) -/

/-- The word registers of CLINT and CLIC (rules R660, R670). -/
inductive DeviceReg where
  | msip
  | mtimecmpLo
  | mtimecmpHi
  | mtimeLo
  | mtimeHi
  | cliccfg
  | clicinfo
  | mintthresh
  deriving DecidableEq, Repr

/-- The word register at an address. -/
def deviceReg (a : Word) : Option DeviceReg :=
  if a = 0xE0000000 then some .msip
  else if a = 0xE0004000 then some .mtimecmpLo
  else if a = 0xE0004004 then some .mtimecmpHi
  else if a = 0xE000BFF8 then some .mtimeLo
  else if a = 0xE000BFFC then some .mtimeHi
  else if a = 0xE0800000 then some .cliccfg
  else if a = 0xE0800004 then some .clicinfo
  else if a = 0xE0800008 then some .mintthresh
  else none

/-- The per-interrupt registers: 4 bytes for each interrupt number up to the end of the 20 KiB region (rule R670). -/
def inSources (a : Word) : Bool := decide (0xE0801000 ≤ a) && decide (a < 0xE0805000)

/-- The interrupt number whose registers hold an address. -/
def sourceAt (a : Word) : Nat := (a - 0xE0801000).toNat / 4

/-- An aligned access of `n` bytes that the devices describe (rules R665, R679); everything else is U16. -/
def deviceSupports (a : Word) (n : Nat) : Bool :=
  if inSources a then n == 1 || n == 2 || n == 4 else n == 4 && (deviceReg a).isSome

/-- CLICCFG: nlbits in bits 4:1, nvbits tied to 1 (rule R671). -/
def Clic.cfgWord (c : Clic) : Word := (0 : BitVec 27) ++ c.nlbits ++ (1 : BitVec 1)

/-- CLICINFO (rule R672, D3). -/
def clicInfo (p : Params) : Word :=
  (0 : BitVec 7) ++ BitVec.ofNat 4 p.clicIntCtlBits ++ p.clicVersion ++ BitVec.ofNat 13 (16 + p.clicNumInt)

/-- CLICINTATTR: mode tied to 11 (rule R676). -/
def ClicSource.attrByte (c : ClicSource) : Byte := (0b11000 : BitVec 5) ++ c.trig ++ BitVec.ofBool c.shv

/-- The four registers of a source as one word: IP, IE, ATTR, CTL from the low byte up (rules R674 to R677, R679). -/
def ClicSource.word (c : ClicSource) : Word :=
  c.ctl ++ c.attrByte ++ (0 : BitVec 7) ++ BitVec.ofBool c.ie ++ (0 : BitVec 7) ++ BitVec.ofBool c.ip

/-- The registers of an interrupt number; 0 where the source does not exist (D67). -/
def State.sourceWord (s : State) (i : Nat) : Word :=
  match s.clic.sources.find? (·.id == i) with
  | some c => c.word
  | none => 0

/-- The value of a word register. -/
def State.readDeviceReg (s : State) : DeviceReg → Word
  | .msip => (0 : BitVec 31) ++ BitVec.ofBool s.clint.msip
  | .mtimecmpLo => s.clint.mtimecmp.setWidth 32
  | .mtimecmpHi => s.clint.mtimecmp.extractLsb' 32 32
  | .mtimeLo => s.mtime.setWidth 32
  | .mtimeHi => s.mtime.extractLsb' 32 32
  | .cliccfg => s.clic.cfgWord
  | .clicinfo => clicInfo s.params
  | .mintthresh => s.clic.mth ++ (0 : BitVec 24)

/-- A read of at most 4 bytes from the devices, zero-extended. -/
def State.deviceRead (s : State) (a : Word) (n : Nat) : Word :=
  if inSources a then
    s.sourceWord (sourceAt a) >>> (8 * (a.toNat % 4)) &&& BitVec.ofNat 32 (2 ^ (8 * n) - 1)
  else match deviceReg a with
    | some r => s.readDeviceReg r
    | none => 0

/-- A write of a word register; the read-only ones ignore it (rules R661 to R664, R671 to R673; D67). -/
def State.writeDeviceReg (s : State) (v : Word) : DeviceReg → State
  | .msip => { s with clint := { s.clint with msip := v.getLsbD 0 } }
  | .mtimecmpLo => { s with clint := { s.clint with mtimecmp := s.clint.mtimecmp.extractLsb' 32 32 ++ v } }
  | .mtimecmpHi => { s with clint := { s.clint with mtimecmp := v ++ s.clint.mtimecmp.extractLsb' 0 32 } }
  | .mtimeLo => s
  | .mtimeHi => s
  | .cliccfg => { s with clic := { s.clic with nlbits := v.extractLsb' 1 4 } }
  | .clicinfo => s
  | .mintthresh => { s with clic := { s.clic with mth := v.extractLsb' 24 8 } }

/-- A write of CLICINTIP: ignored in level mode; a 0 clears as in `ClicSource.clear` (rule R674). -/
def ClicSource.writeIp (ctr : Nat) (v : Byte) (c : ClicSource) : ClicSource :=
  if c.edgeMode then (if v.getLsbD 0 then { c with ip := true } else c.clear ctr) else c

/-- A write of CLICINTATTR: trig and shv (rule R676); the pending bit of a source that becomes edge-triggered is free (log
34). -/
def ClicSource.writeAttr (ctr : Nat) (v : Byte) (c : ClicSource) : ClicSource :=
  { c with trig := v.extractLsb' 1 2, shv := v.getLsbD 0,
           ip := if !c.edgeMode && v.getLsbD 1 then pendingAfterRetrigger ctr c.id else c.ip }

/-- A write of CLICINTCTL: the tied bits stay 1 (rule R677). -/
def ClicSource.writeCtl (p : Params) (v : Byte) (c : ClicSource) : ClicSource :=
  { c with ctl := v ||| ctlTied p }

/-- A write of one of a source's four byte registers. -/
def ClicSource.writeByte (p : Params) (ctr : Nat) (k : Nat) (v : Byte) (c : ClicSource) : ClicSource :=
  match k with
  | 0 => c.writeIp ctr v
  | 1 => { c with ie := v.getLsbD 0 }
  | 2 => c.writeAttr ctr v
  | _ => c.writeCtl p v

/-- A write of `n` bytes from byte register `k` on, the lowest first (rule R679, log 34). -/
def ClicSource.writeBytes (p : Params) (ctr : Nat) : Nat → Nat → Word → ClicSource → ClicSource
  | 0, _, _, c => c
  | n + 1, k, v, c => ClicSource.writeBytes p ctr n (k + 1) (v >>> 8) (c.writeByte p ctr k (v.setWidth 8))

/-- A write of at most 4 bytes to the devices. -/
def State.deviceWrite (s : State) (a : Word) (n : Nat) (v : Word) : State :=
  if inSources a then
    s.mapSources fun c => if c.id = sourceAt a then c.writeBytes s.params s.freeCtr n (a.toNat % 4) v else c
  else match deviceReg a with
    | some r => s.writeDeviceReg v r
    | none => s

end Sys2Proof.Machine
end

