-- ==== Sys2Proof/Machine/Memory.lean ====
section
/-! DEFINITION. Memory as sorted pairs (rules R140, R141): one byte, and little-endian values of several bytes. -/

namespace Sys2Proof.Machine

/-- What a byte reads as that nothing has written: DESIGN CHOICE (log 7). -/
def Memory.blank : Byte := 0

/-- The byte at an address. -/
def Memory.read : Memory → Nat → Byte
  | [], _ => Memory.blank
  | (b, v) :: m, a => if a = b then v else Memory.read m a

/-- The memory after a byte is written; a byte that reads as an unlisted one is not listed. -/
def Memory.write : Memory → Nat → Byte → Memory
  | [], a, v => if v = Memory.blank then [] else [(a, v)]
  | (b, w) :: m, a, v =>
    if a < b then (if v = Memory.blank then (b, w) :: m else (a, v) :: (b, w) :: m)
    else if a = b then (if v = Memory.blank then m else (a, v) :: m)
    else (b, w) :: Memory.write m a v

/-- Every address is at least `lo` and below 2^32, addresses strictly rise, and no listed byte reads as an unlisted one. -/
def Memory.wfFrom : Nat → Memory → Bool
  | _, [] => true
  | lo, (b, v) :: m => decide (lo ≤ b) && decide (b < 2 ^ 32) && (v != Memory.blank) && Memory.wfFrom (b + 1) m

/-- The canonical form of memory. -/
def Memory.wf (m : Memory) : Bool := Memory.wfFrom 0 m

/-- The `n` bytes from address `a` on as one little-endian value (rule R141); addresses wrap (rule R140). -/
def Memory.readLE (m : Memory) (a : Word) : Nat → Dword
  | 0 => 0
  | n + 1 => (m.readLE (a + 1) n) <<< 8 ||| (m.read a.toNat).setWidth 64

/-- The memory after the low `n` bytes of `v` are written from address `a` on, little-endian (rule R141). -/
def Memory.writeLE (m : Memory) (a : Word) : Nat → Dword → Memory
  | 0, _ => m
  | n + 1, v => Memory.writeLE (m.write a.toNat (v.setWidth 8)) (a + 1) n (v >>> 8)

/-- The bytes of a list written from address `a` on. -/
def Memory.writeBytes (m : Memory) (a : Word) : List Byte → Memory
  | [] => m
  | v :: vs => Memory.writeBytes (m.write a.toNat v) (a + 1) vs

/-- The 32 bytes of a cache line, lowest address first (rule R180). -/
def Memory.lineAt (m : Memory) (l : BitVec 27) : List Byte :=
  (List.range 32).map fun i => m.read (32 * l.toNat + i)

/-- The halfword at an address. -/
def Memory.readHalf (m : Memory) (a : Word) : Half := (m.readLE a 2).setWidth 16

end Sys2Proof.Machine
end

