-- ==== Sys2Proof/Machine/Operands.lean ====
section
/-! DEFINITION. Operand forms: registers, immediates, addresses and rounding modes (rules R20, R202, R222, R290, R381 to
R383). -/

namespace Sys2Proof.Machine

open Sys2Proof.Config

/-! ## Integer registers (rule R20) -/

theorem reg_lt (r : Reg) : r.toNat < 32 := r.isLt

/-- The value of a general register; x0 is 0. -/
def State.readX (s : State) (r : Reg) : Word := if r = 0 then 0 else s.x[r.toNat]'(reg_lt r)

/-- A write of a general register; a write to x0 is discarded. -/
def State.setX (s : State) (r : Reg) (v : Word) : State :=
  if r = 0 then s else { s with x := s.x.set r.toNat v (reg_lt r) }

/-- The register that a 3-bit field names: x8 to x15 (rule R222). -/
def wideReg (r : CReg) : Reg := (0b01 : BitVec 2) ++ r

/-- The stack pointer, x2 (rule R481). -/
def sp : Reg := 2

/-- The link register, x1 (rule R481). -/
def ra : Reg := 1

/-! ## Floating-point registers (rules R26, R27, R381) -/

/-- The canonical quiet NaN of binary32 (rule R384). -/
def canonicalNan32 : Word := 0x7FC00000

/-- The canonical quiet NaN of binary64 (rule R430). -/
def canonicalNan64 : Dword := 0x7FF8000000000000

/-- The raw contents of a floating-point register. -/
def State.readF (s : State) (r : Reg) : Dword := s.f[r.toNat]'(reg_lt r)

/-- A single-precision operand: with 64-bit registers, one that is not boxed is a NaN (rules R27, R381). -/
def State.readS (s : State) (r : Reg) : Word :=
  if s.params.fpu = .double ∧ (s.readF r).extractLsb' 32 32 ≠ BitVec.allOnes 32 then canonicalNan32
  else (s.readF r).setWidth 32

/-- The register contents that hold a single-precision value: boxed with 64-bit registers (rules R27, R381); with 32-bit
registers the upper half does not exist and is kept 0 (log 52). -/
def boxed (p : Params) (v : Word) : Dword :=
  if p.fpu = .double then (BitVec.allOnes 32 ++ v : BitVec 64) else v.setWidth 64

/-! ## Immediates and addresses (rules R202, R221, R290) -/

/-- A 12-bit immediate, sign-extended. -/
def imm12Value (i : BitVec 12) : Word := i.signExtend 32

/-- An upper immediate in bits 31:12. -/
def imm20Value (i : BitVec 20) : Word := i ++ (0 : BitVec 12)

/-- A branch offset: the 12-bit field scaled by 2, sign-extended. -/
def branchOffset (i : BitVec 12) : Word := (i ++ (0 : BitVec 1) : BitVec 13).signExtend 32

/-- The JAL offset: the 20-bit field scaled by 2, sign-extended. -/
def jumpOffset (i : BitVec 20) : Word := (i ++ (0 : BitVec 1) : BitVec 21).signExtend 32

/-- The offset of C.BEQZ and C.BNEZ: scaled by 2, sign-extended. -/
def cBranchOffset (i : BitVec 8) : Word := (i ++ (0 : BitVec 1) : BitVec 9).signExtend 32

/-- The offset of C.J and C.JAL: scaled by 2, sign-extended. -/
def cJumpOffset (i : BitVec 11) : Word := (i ++ (0 : BitVec 1) : BitVec 12).signExtend 32

/-- A 6-bit signed immediate. -/
def imm6Value (i : BitVec 6) : Word := i.signExtend 32

/-- The immediate of C.LUI: in bits 17:12, sign-extended (rule R499). -/
def cLuiValue (i : BitVec 6) : Word := (i ++ (0 : BitVec 12) : BitVec 18).signExtend 32

/-- The immediate of C.ADDI4SPN: scaled by 4, zero-extended (rule R487). -/
def cAddi4spnValue (i : BitVec 8) : Word := (i ++ (0 : BitVec 2) : BitVec 10).setWidth 32

/-- The immediate of C.ADDI16SP: scaled by 16, sign-extended (rule R488). -/
def cAddi16spValue (i : BitVec 6) : Word := (i ++ (0 : BitVec 4) : BitVec 10).signExtend 32

/-- The offset of C.LW and C.SW: scaled by 4, zero-extended (rule R500). -/
def cWordOffset (i : BitVec 5) : Word := (i ++ (0 : BitVec 2) : BitVec 7).setWidth 32

/-- The offset of C.LWSP and C.SWSP: scaled by 4, zero-extended (rules R501, R509). -/
def cSpOffset (i : BitVec 6) : Word := (i ++ (0 : BitVec 2) : BitVec 8).setWidth 32

/-- The address of a load or store (rule R290). -/
def State.address (s : State) (rs1 : Reg) (imm : BitVec 12) : Word := s.readX rs1 + imm12Value imm

/-- A jump target has bit 0 cleared (rule R289). -/
def evenTarget (t : Word) : Word := t &&& 0xFFFFFFFE

/-! ## Rounding modes (rules R382, R383) -/

/-- The five rounding modes. -/
inductive Rounding where
  | rne
  | rtz
  | rdn
  | rup
  | rmm
  deriving DecidableEq, Repr

/-- The mode that a number selects; 5, 6 and 7 select none. -/
def roundingOf (m : BitVec 3) : Option Rounding :=
  match m.toNat with
  | 0 => some .rne
  | 1 => some .rtz
  | 2 => some .rdn
  | 3 => some .rup
  | 4 => some .rmm
  | _ => none

/-- The effective rounding mode of an instruction: its field, or FCSR.RM when the field is 111; none is reserved. -/
def State.rounding (s : State) (rm : BitVec 3) : Option Rounding :=
  if rm = 7 then roundingOf s.fcsr.frm else roundingOf rm

end Sys2Proof.Machine
end

