-- ==== Sys2Proof/Machine/Flags.lean ====
section
/-! DEFINITION. The only status flags of the core: the accrued floating-point flags (rules R25, R74, R384), and the
'dirty' state of MSTATUS.FS that follows them (rule R37, D14). -/

namespace Sys2Proof.Machine

/-- Inexact, bit 0 of FCSR. -/
def flagNX : BitVec 5 := 0b00001

/-- Underflow, bit 1. -/
def flagUF : BitVec 5 := 0b00010

/-- Overflow, bit 2. -/
def flagOF : BitVec 5 := 0b00100

/-- Divide by zero, bit 3. -/
def flagDZ : BitVec 5 := 0b01000

/-- Invalid operation, bit 4. -/
def flagNV : BitVec 5 := 0b10000

/-- The flag when the condition holds. -/
def flagIf (c : Bool) (f : BitVec 5) : BitVec 5 := if c then f else 0

/-- Floating-point state has been written (rule R37). -/
def State.fsDirty (s : State) : State := { s with mstatus := { s.mstatus with fs := 0b11 } }

/-- The raised flags are ORed into FCSR (rule R384); an instruction that raises none leaves FS as it is (D14). -/
def State.raiseFlags (s : State) (fl : BitVec 5) : State :=
  if fl = 0 then s else { s with fcsr := { s.fcsr with flags := s.fcsr.flags ||| fl } }.fsDirty

/-- A write of a floating-point register makes FS dirty (rule R37). -/
def State.setF (s : State) (r : Reg) (v : Dword) : State :=
  { s with f := s.f.set r.toNat v (reg_lt r) }.fsDirty

/-- A single-precision result (rule R381). -/
def State.writeS (s : State) (r : Reg) (v : Word) : State := s.setF r (boxed s.params v)

/-- A floating-point unit is built and enabled (rules R380, R37). -/
def State.fpEnabled (s : State) : Bool := s.params.fpu != .none && s.mstatus.fs != 0

/-- The double-precision unit is built and enabled (rule R430). -/
def State.fpEnabledD (s : State) : Bool := s.params.fpu == .double && s.mstatus.fs != 0

end Sys2Proof.Machine
end

