-- ==== Sys2Proof/Machine/Pmp.lean ====
section
/-! DEFINITION. Physical memory protection (rules R53 to R55, R160 to R167). -/

namespace Sys2Proof.Machine

/-- The permission an access needs (rule R160, D35). -/
inductive Perm where
  | read
  | write
  | execute
  deriving DecidableEq, Repr

/-- Lock bit of a configuration byte (rule R53). -/
def PmpEntry.locked (e : PmpEntry) : Bool := e.cfg.getLsbD 7

/-- Address-matching mode of a configuration byte: 0 OFF, 1 TOR, 2 unsupported, 3 NAPOT (rule R53). -/
def PmpEntry.mode (e : PmpEntry) : BitVec 2 := e.cfg.extractLsb' 3 2

/-- The configuration byte grants the permission (rule R53). -/
def PmpEntry.permits (e : PmpEntry) : Perm → Bool
  | .read => e.cfg.getLsbD 0
  | .write => e.cfg.getLsbD 1
  | .execute => e.cfg.getLsbD 2

/-- A TOR boundary: address register bits 29:5, then seven zeros (rule R162). -/
def torBound (addr : Word) : Word := addr.extractLsb' 5 25 ++ (0 : BitVec 7)

/-- `lo <= a < hi`, both bounds multiples of 128 (rule R162). `previous` is the address register of the entry before; for
entry 0 it is 0. -/
def torMatch (previous addr a : Word) : Bool :=
  decide (torBound previous ≤ a) && decide (a < torBound addr)

/-- The value that a NAPOT register is looked up as: its low four bits are ones (rule R163). -/
def napotValue (addr : Word) : Word := addr ||| 0xF

/-- The number of ones below the lowest zero bit, from bit `k` on, in at most `fuel` bits. -/
def onesFrom (v : Word) : Nat → Nat → Nat
  | 0, k => k
  | fuel + 1, k => if v.getLsbD k then onesFrom v fuel (k + 1) else k

/-- The index of the lowest zero bit, 32 when there is none (rule R163, D36). -/
def napotIndex (addr : Word) : Nat := onesFrom (napotValue addr) 32 0

/-- The address bits above the region size agree; regions of 4 GiB and more match everything (rule R163). -/
def napotMatch (addr a : Word) : Bool :=
  let n := napotIndex addr
  decide (29 ≤ n) || a.toNat / 2 ^ (n + 3) == (napotValue addr).toNat % 2 ^ 30 / 2 ^ (n + 1)

/-- The entry matches the address (rules R162, R163; NA4 is unsupported and matches nothing, D20). -/
def PmpEntry.matches (e : PmpEntry) (previous a : Word) : Bool :=
  match e.mode.toNat with
  | 1 => torMatch previous e.addr a
  | 3 => napotMatch e.addr a
  | _ => false

/-- The first matching entry decides; without one, machine mode succeeds and user mode fails (rules R160, R165). -/
def pmpDecide (k : Perm) (p : Priv) (a : Word) : Word → List PmpEntry → Bool
  | _, [] => p == .machine
  | previous, e :: es =>
    if e.matches previous a then (!e.locked && p == .machine) || e.permits k
    else pmpDecide k p a e.addr es

/-- The PMP check of one access (rule R160). -/
def State.pmpAllows (s : State) (k : Perm) (p : Priv) (a : Word) : Bool := pmpDecide k p a 0 s.pmp

/-! ## The registers -/

/-- The configuration byte of an entry; 0 where the entry does not exist (D21). -/
def State.pmpCfgByte (s : State) (i : Nat) : Byte := ((s.pmp[i]?).map PmpEntry.cfg).getD 0

/-- PMPCFGk: four configuration bytes, the lowest entry in the low byte (rule R53). -/
def State.readPmpCfg (s : State) (k : Nat) : Word :=
  s.pmpCfgByte (4 * k + 3) ++ s.pmpCfgByte (4 * k + 2) ++ s.pmpCfgByte (4 * k + 1) ++ s.pmpCfgByte (4 * k)

/-- PMPADDRi; 0 where the entry does not exist (rule R54, D21, D22). -/
def State.readPmpAddr (s : State) (i : Nat) : Word := ((s.pmp[i]?).map PmpEntry.addr).getD 0

/-- A configuration byte is written unless its entry is locked; bits 6:5 stay 0 (rules R53, R55). -/
def PmpEntry.writeCfg (e : PmpEntry) (v : Byte) : PmpEntry :=
  if e.locked then e else { e with cfg := v &&& 0x9F }

/-- A write of PMPCFGk (rules R53, R55). -/
def State.writePmpCfg (s : State) (k : Nat) (v : Word) : State :=
  { s with pmp := s.pmp.mapIdx fun i e => if i / 4 = k then e.writeCfg (v.extractLsb' (8 * (i % 4)) 8) else e }

/-- Entry `i` is locked and TOR, which also locks the address register before it (rule R55). -/
def State.pmpLocksBelow (s : State) (i : Nat) : Bool :=
  match s.pmp[i]? with
  | some e => e.locked && e.mode == 1
  | none => false

/-- A write of PMPADDRi (rules R54, R55). -/
def State.writePmpAddr (s : State) (i : Nat) (v : Word) : State :=
  { s with pmp := s.pmp.mapIdx fun j e =>
      if j = i ∧ !e.locked ∧ !s.pmpLocksBelow (i + 1) then { e with addr := v } else e }

end Sys2Proof.Machine
end

