-- ==== Sys2Proof/Machine/Ops.lean ====
section
/-! DEFINITION. The operations that instructions share: retiring and counting, taking an exception and returning from one,
interrupt and NMI entry, instruction fetch, and data accesses. -/

namespace Sys2Proof.Machine

open Sys2Proof.Config

/-! ## Counting and retiring (rules R56 to R64) -/

/-- The mode gate of the counters (rule R64: PMDM, PMDU). -/
def State.gated (s : State) : Bool :=
  match s.priv with
  | .machine => s.mxstatus.pmdm
  | .user => s.mxstatus.pmdu

/-- The counter of a MCOUNTINHIBIT bit runs (rules R57, R64). -/
def State.counting (s : State) (bit : Nat) : Bool := !s.mcountinhibit.getLsbD bit && !s.gated

/-- An event counter adds occurrences of its event (rule R61). -/
def Hpm.add (running : Bool) (k : Nat) (h : Hpm) : Hpm :=
  if running && h.ready && hpmEvents.lookup h.index == some h.event then { h with count := h.count + BitVec.ofNat 64 k }
  else h

/-- The event of counter `n` has occurred `k` times (rule R61). -/
def State.countEvent (s : State) (n k : Nat) : State :=
  { s with hpm := s.hpm.map fun h => if h.index = n then h.add (s.counting n) k else h }

/-- MINSTRET after an instruction that retires in state `s` (rule R60). -/
def State.retired (s : State) : Dword := if s.counting 2 then s.minstret + 1 else s.minstret

/-- The instruction retires and the next one is at `target`. -/
def State.goto (s : State) (target : Word) : State := { s with pc := target, minstret := s.retired }

/-- The instruction retires and the next one follows it, `len` bytes on (rules R23, R24). -/
def State.advance (s : State) (len : Word) : State := s.goto (s.pc + len)

/-- An integer result: `rd` is written and the instruction retires. -/
def State.writeRd (s : State) (rd : Reg) (v : Word) (len : Word) : Result := .next ((s.setX rd v).advance len)

/-- A conditional branch retires; it is counted by MHPMCOUNTER9 (rules R282 to R287, R61). -/
def State.branch (s : State) (taken : Bool) (offset len : Word) : Result :=
  .next ((s.countEvent 9 1).goto (s.pc + if taken then offset else len))

/-- A jump retires with the link value in `rd` (rules R288, R289, R480). -/
def State.link (s : State) (rd : Reg) (target len : Word) : Result := .next ((s.setX rd (s.pc + len)).goto target)

/-! ## Exceptions (rules R560 to R571, R590) -/

/-- The exceptions (rule R560). -/
inductive Cause where
  | instrAccessFault
  | illegalInstruction
  | breakpoint
  | loadAddrMisaligned
  | loadAccessFault
  | storeAddrMisaligned
  | storeAccessFault
  | ecallFromU
  | ecallFromM
  deriving DecidableEq, Repr

/-- Cause codes (rule R560). -/
def Cause.code : Cause → BitVec 12
  | .instrAccessFault => 1
  | .illegalInstruction => 2
  | .breakpoint => 3
  | .loadAddrMisaligned => 4
  | .loadAccessFault => 5
  | .storeAddrMisaligned => 6
  | .storeAccessFault => 7
  | .ecallFromU => 8
  | .ecallFromM => 11

/-- ECALL and EBREAK never lock the core up (rule R590). -/
def Cause.neverLocks : Cause → Bool
  | .breakpoint | .ecallFromU | .ecallFromM => true
  | _ => false

/-- The access faults are the causes that write MEXSTATUS.BUSERR (rule R567). -/
def Cause.isAccessFault : Cause → Bool
  | .loadAccessFault | .storeAccessFault => true
  | _ => false

/-- The handler of exceptions, NMI and non-vectored interrupts (rule R571). -/
def State.handler (s : State) : Word := s.mtvecBase.extractLsb' 4 26 ++ (0 : BitVec 6)

/-- MTVT (rule R42). -/
def State.mtvt (s : State) : Word := s.mtvtBase ++ (0 : BitVec 6)

/-- The hart is held at `epc` (rule R590, D58). -/
def State.lockUp (s : State) (epc : Word) : State :=
  { s with pc := epc, lockedUp := true, mexstatus := { s.mexstatus with lockup := true } }

/-- Exception entry, or lockup when a handler is already running (rules R570, R590). `epc` is what MEPC saves, `info` what
MTVAL takes, `buserr` whether a bus error response caused an access fault. -/
def State.takeException (s : State) (c : Cause) (epc info : Word) (buserr : Bool) : State :=
  if (s.mexstatus.exptVld || s.mexstatus.nmi) && !c.neverLocks then s.lockUp epc
  else
    { s with
      mepc := epc
      mcause := { s.mcause with code := c.code, interrupt := false }
      mstatus := { s.mstatus with mpie := s.mstatus.mie, mie := false, mpp := s.priv }
      priv := .machine
      mtval := info
      mexstatus := { s.mexstatus with
                     exptVld := true, buserr := if c.isAccessFault then buserr else s.mexstatus.buserr }
      pc := s.handler }

/-- MINSTRET after an instruction that traps is free within one count (U12, log 13). -/
def State.countTrap (s : State) : State :=
  { s with minstret := if s.counting 2 && trapCounts s.freeCtr then s.minstret + 1 else s.minstret }

/-- The instruction at pc raises an exception (rule R12). -/
def State.raise (s : State) (c : Cause) (info : Word) (buserr : Bool := false) : Result :=
  .next (s.countTrap.takeException c s.pc info buserr)

/-- IllegalInstruction, with the instruction bits in MTVAL (rule R563, log 46). -/
def State.illegal (s : State) (i : Instr) : Result := s.raise .illegalInstruction (encode i).value

/-! ## Return (rules R580, R603) -/

/-- MRET returns from an NMI (rule R603, D57). -/
def State.returnsFromNmi (s : State) : Bool :=
  s.mexstatus.nmi && !s.mcause.interrupt && s.mcause.code == 24

/-- Return from an exception or interrupt handler (rule R580, D61). -/
def State.trapReturn (s : State) : State :=
  { s with
    pc := s.mepc
    mstatus := { s.mstatus with mie := s.mstatus.mpie, mpie := true, mpp := .user }
    priv := s.mstatus.mpp
    mil := if s.mcause.interrupt then s.mcause.mpil else s.mil
    mexstatus := if s.mcause.interrupt then s.mexstatus else { s.mexstatus with exptVld := false } }

/-- Return from an NMI handler; a core that was locked up is locked up again (rules R603, R591). -/
def State.nmiReturn (s : State) : State :=
  { s with
    pc := s.mepc
    mepc := s.mnmipc
    mcause := { s.mcause with code := s.mnmicause.vector, interrupt := s.mnmicause.intr }
    priv := s.mstatus.mpp
    mstatus := { s.mstatus with mie := s.mstatus.mpie, mpie := s.mnmicause.mpie, mpp := s.mnmicause.mpp }
    mnmicause := { s.mnmicause with mpp := .user }
    mexstatus := { s.mexstatus with nmi := false }
    lockedUp := s.mexstatus.lockup }

/-! ## Instruction fetch (rules R148, R185) -/

/-- What the fetch of a halfword, or of an instruction, gives. -/
inductive Fetched (α : Type) where
  | ok (v : α)
  | denied (addr : Word)
  | refused (r : Refusal)
  deriving DecidableEq, Repr

/-- A platform region answers a fetch with an error (rule R144, D5). -/
def fetchError (p : Params) (a : Word) : Bool :=
  p.busErrors.any fun r => r.fetch && decide (r.lo ≤ a) && decide (a ≤ r.hi)

/-- The older contents that a fetch of the halfword at `a` may still see (U6, log 22). -/
def State.staleAt (s : State) (a : Word) : List Half :=
  (s.stale.filter (·.addr == a)).map StaleHalf.older

/-- The halfword that a fetch sees: the memory's, or an older content that was not made visible (rule R185, U6). -/
def State.visibleHalf (s : State) (a : Word) : Half :=
  match s.staleAt a with
  | [] => s.mem.readHalf a
  | olds => olds.getD (fetchChoice s.freeCtr a.toNat olds.length) (s.mem.readHalf a)

/-- The fetch of one halfword with a privilege (rules R142, R148, R160). Of the devices the CLIC's per-interrupt registers
answer a halfword (rule R679); user mode is denied the window as for data (D66, log 27). Other device halfwords are refused
(rules R665, R679, U16). `BusError` is asked outside the window only (log 15). -/
def State.fetchHalf (s : State) (p : Priv) (a : Word) : Fetched Half :=
  if !s.pmpAllows .execute p a then .denied a
  else if inTcip a then
    if p = .user then .denied a
    else if deviceSupports a 2 then .ok ((s.deviceRead a 2).setWidth 16)
    else .refused (.deviceFetch a)
  else if fetchError s.params a then .denied a
  else .ok (s.visibleHalf a)

/-- The fetch of two halfwords. -/
def State.fetchWord (s : State) (p : Priv) (a : Word) (low : Half) : Fetched Word :=
  match s.fetchHalf p (a + 2) with
  | .ok h => .ok (h ++ low)
  | .denied b => .denied b
  | .refused r => .refused r

/-- The instruction bits at an address (rules R148, R200). -/
def State.fetchCode (s : State) (p : Priv) (a : Word) : Fetched Code :=
  match s.fetchHalf p a with
  | .ok h =>
    if isLong h then
      match s.fetchWord p a h with
      | .ok w => .ok (.word w)
      | .denied b => .denied b
      | .refused r => .refused r
    else .ok (.half h)
  | .denied b => .denied b
  | .refused r => .refused r

/-! ## Interrupts and NMI (rules R586 to R588, R600) -/

/-- Steps 1 to 6 of interrupt entry (rule R586). -/
def State.saveForInterrupt (s : State) (c : Presented) : State :=
  { s with
    mepc := s.pc
    mcause := { s.mcause with code := BitVec.ofNat 12 c.id, interrupt := true, mpil := s.mil }
    mstatus := { s.mstatus with mpie := s.mstatus.mie, mie := false, mpp := s.priv }
    priv := .machine
    mil := c.level }

/-- MCAUSE.MINHV (rule R587). -/
def State.setMinhv (s : State) (b : Bool) : State := { s with mcause := { s.mcause with minhv := b } }

/-- The word of the vector table at an address, read with privilege M as a fetch (rules R142, R587, D60; log 49): from memory,
or from a device register that is read as a word; reserved device offsets are refused (U16). -/
def State.fetchTable (s : State) (a : Word) : Fetched Word :=
  if !s.pmpAllows .execute .machine a then .denied a
  else if inTcip a then
    if deviceSupports a 4 then .ok (s.deviceRead a 4) else .refused (.deviceFetch a)
  else if fetchError s.params a then .denied a
  else .ok (s.visibleHalf (a + 2) ++ s.visibleHalf a)

/-- Vectored entry: the handler's address is read from the table with privilege M as a fetch; a failed read raises
InstrAccessFault with the table address, MINHV staying 1 (rule R587, D60, logs 38, 49). -/
def State.vectorEntry (s : State) (id : Nat) : Result :=
  let t := s.setMinhv true
  let a := t.mtvt + BitVec.ofNat 32 (4 * id)
  match t.fetchTable a with
  | .ok w => .next { t.setMinhv false with pc := evenTarget w }
  | .denied _ => .next (t.takeException .instrAccessFault a a false)
  | .refused r => .refused r

/-- Interrupt entry (rules R586, R587, R588). -/
def State.interruptEntry (s : State) (c : Presented) : Result :=
  let t := s.saveForInterrupt c
  if c.shv then (t.clearPending c.id).vectorEntry c.id
  else .next { t with pc := t.handler }

/-- NMI entry (rule R600, D62); the held core runs again (rule R591), the sleeping one wakes (rule R602). -/
def State.nmiEntry (s : State) : State :=
  { s with
    mnmipc := s.mepc
    mepc := s.pc
    mnmicause := { intr := s.mcause.interrupt, mpp := s.mstatus.mpp, mpie := s.mstatus.mpie, vector := s.mcause.code }
    mcause := { s.mcause with code := 24, interrupt := false }
    mstatus := { s.mstatus with mpp := s.priv, mpie := s.mstatus.mie, mie := false }
    mexstatus := { s.mexstatus with nmi := true }
    priv := .machine
    lockedUp := false
    asleep := false
    pc := s.handler }

/-! ## Checks of a data access (rules R144 to R147, R160, R352, R665) -/

/-- Loads, stores, and the atomics: an AMO and SC.W are checked as stores, LR.W as a load (D35, D45). -/
inductive Access where
  | load
  | store
  | amo
  | loadReserved
  | storeConditional
  deriving DecidableEq, Repr

/-- The PMP permission (rule R160, D35). -/
def Access.perm : Access → Perm
  | .load | .loadReserved => .read
  | .store | .amo | .storeConditional => .write

/-- The exception of a denied access (rules R352, R562). -/
def Access.faultCause : Access → Cause
  | .load | .loadReserved => .loadAccessFault
  | .store | .amo | .storeConditional => .storeAccessFault

/-- The exception of a misaligned access (rules R352, R562). -/
def Access.misalignedCause : Access → Cause
  | .load | .loadReserved => .loadAddrMisaligned
  | .store | .amo | .storeConditional => .storeAddrMisaligned

/-- Atomics are not described for the devices (U16). -/
def Access.isAtomic : Access → Bool
  | .amo | .loadReserved | .storeConditional => true
  | .load | .store => false

/-- A platform region answers the access with an error (rule R144, D5); an AMO reads and writes. -/
def dataError (p : Params) (k : Access) (a : Word) : Bool :=
  p.busErrors.any fun r => decide (r.lo ≤ a) && decide (a ≤ r.hi) &&
    match k with
    | .load | .loadReserved => r.load
    | .store | .storeConditional => r.store
    | .amo => r.load || r.store

/-- The effective privilege of loads, stores and atomics (rule R161). -/
def State.dataPriv (s : State) : Priv := if s.mstatus.mprv then s.mstatus.mpp else s.priv

/-- The answer to the check of an access. -/
inductive Checked where
  | ok
  | denied (addr : Word)
  | busError (addr : Word)
  | refused (r : Refusal)
  deriving DecidableEq, Repr

/-- The check of one bus transfer: PMP, then the devices' rules, then the bus (rules R160, R665, R679, D66, R144). `info` is the
address that a fault reports (rule R563). A `BusError` region that reaches into the device window has no effect there (log
15). -/
def State.checkPiece (s : State) (k : Access) (split : Bool) (info a : Word) (n : Nat) : Checked :=
  if !s.pmpAllows k.perm s.dataPriv a then .denied info
  else if inTcip a then
    if s.dataPriv = .user then .denied info
    else if split then .refused (.misalignedDevice a)
    else if k.isAtomic || !deviceSupports a n then .refused (.deviceAccess a)
    else .ok
  else if split && (attrOf s.params.sysmap a).strongOrder then .refused (.misalignedDevice a)
  else if dataError s.params k a then .busError info
  else .ok

/-- The access is not a multiple of its size (rule R146). -/
def misaligned (a : Word) (n : Nat) : Bool := a.toNat % n != 0

/-- The bus transfers of an access: one, two words for 8 bytes, or single bytes when hardware splits it (rules R145, R147,
R431; logs 19, 20). -/
def pieces (a : Word) (n : Nat) : List (Word × Nat) :=
  if misaligned a n then (List.range n).map fun i => (a + BitVec.ofNat 32 i, 1)
  else if n = 8 then [(a, 4), (a + 4, 4)]
  else [(a, n)]

/-- The first answer that is not `ok`. -/
def firstFailure : List Checked → Checked
  | [] => .ok
  | .ok :: cs => firstFailure cs
  | c :: _ => c

/-- The check of a piece of an access: a fault reports the effective address, or the piece's own when the access is misaligned
and split (rule R563, D32). -/
def State.checkPieceOf (s : State) (k : Access) (a : Word) (n : Nat) (p : Word × Nat) : Checked :=
  s.checkPiece k (misaligned a n) (if misaligned a n then p.1 else a) p.1 p.2

/-- A misaligned access traps: always for atomics, else when MM = 0 (rules R146, R352). -/
def State.trapsMisaligned (s : State) (k : Access) (a : Word) (n : Nat) : Bool :=
  misaligned a n && (k.isAtomic || !s.mxstatus.mm)

/-! ## Bus errors (rules R66, R172, R566) -/

/-- The error is reported at the instruction itself: precise mode, or the hardware happens to (rule R566, log 16). -/
def State.reportsNow (s : State) : Bool := s.aee || !s.pins.deferBusError

/-- In imprecise mode the error of a store to a bufferable address may be lost; a strong-order address is never buffered (rules
R172, R173, D39; log 18). It is asked for plain stores alone: DESIGN CHOICE, AMO and SC.W never lose theirs (log 18). -/
def State.losesError (s : State) (a : Word) : Bool :=
  !s.aee && (attrOf s.params.sysmap a).bufferable && !(attrOf s.params.sysmap a).strongOrder && s.pins.loseBusError

/-- The answers to the pieces of an access, in their order (rules R145, R147; D32, logs 19, 20). -/
def State.checkPieces (s : State) (k : Access) (a : Word) (n : Nat) : List Checked :=
  (pieces a n).map (s.checkPieceOf k a n)

/-- The address that the bus error of a piece reports, unless that error is lost. -/
def State.unlostError (s : State) (k : Access) : Checked → Option Word
  | .busError b => if k == .store && s.losesError b then none else some b
  | _ => none

/-- A piece ends the access with its answer: a denial and a refusal do, a bus error only when it is reported at the instruction.
After an error that is lost or that waits, the pieces behind it are still checked (rules R147, R160, R566; log 19). -/
def State.endsAccess (s : State) (k : Access) (c : Checked) : Bool :=
  match c with
  | .ok => false
  | .busError _ => s.reportsNow && (s.unlostError k c).isSome
  | _ => true

/-- The check of all pieces (rules R147, R160, R166; D32): the first answer that ends the access; without one the first bus
error that is to be reported, then one that is lost. -/
def State.checkAccess (s : State) (k : Access) (a : Word) (n : Nat) : Checked :=
  match (s.checkPieces k a n).find? (s.endsAccess k) with
  | some c => c
  | none =>
    match (s.checkPieces k a n).findSome? (s.unlostError k) with
    | some b => .busError b
    | none => firstFailure (s.checkPieces k a n)

/-- The bus error, still to be reported, of a piece before the one that ends the access (rules R147, R566; log 19). -/
def State.earlierError (s : State) (k : Access) (a : Word) (n : Nat) : Option Word :=
  ((s.checkPieces k a n).takeWhile fun c => !s.endsAccess k c).findSome? (s.unlostError k)

/-- The error waits to be reported (rule R566). -/
def State.queueError (s : State) (k : Access) (a : Word) : State :=
  { s with busErrors := s.busErrors ++ [{ store := k.faultCause == .storeAccessFault, addr := a }] }

/-- The bus error of an earlier piece, if there is one, waits although the instruction traps (rules R147, R566; log 19). -/
def State.queueEarlier (s : State) (k : Access) (earlier : Option Word) : State :=
  match earlier with
  | some b => s.queueError k b
  | none => s

/-! ## Stores and their overlays (rules R181, R182, R185) -/

/-- The addresses of the halfwords that `n` bytes from `a` on touch. -/
def halvesOf (a : Word) (n : Nat) : List Word :=
  ((List.range (n / 2 + 1)).filter fun i => decide (2 * i < a.toNat % 2 + n)).map fun i =>
    (a &&& 0xFFFFFFFE) + BitVec.ofNat 32 (2 * i)

/-- The contents of the halfwords are noted before they change (U6, log 22). -/
def State.noteStale (s : State) (hs : List Word) : List StaleHalf :=
  hs.foldl (fun l h =>
    let e : StaleHalf := { addr := h, older := s.mem.readHalf h, flushed := false }
    if l.contains e then l else e :: l) s.stale

/-- Accesses to the address go through the data cache: it is present and on, the address is cacheable and not strong-order
(rules R170, R171, R173, R180). -/
def State.usesDcache (s : State) (a : Word) : Bool :=
  s.mhcr.de && s.params.dcache != .absent && (attrOf s.params.sysmap a).cacheable && !(attrOf s.params.sysmap a).strongOrder

/-- A store to the address may stay in the data cache (rule R181). -/
def State.writesBack (s : State) (a : Word) : Bool := s.mhcr.wb && s.usesDcache a

/-- The line of an address (rule R532). -/
def lineOf (a : Word) : BitVec 27 := a.extractLsb' 5 27

/-- The first address of a line (rule R532). -/
def lineBase (l : BitVec 27) : Word := l ++ (0 : BitVec 5)

/-- The set of a line: its low index bits (rules R180, R532; log 23). -/
def lineSet (p : Params) (l : BitVec 27) : Nat := l.toNat % 2 ^ (setTopBit p.dcache - 4)

/-- A line takes its place among lines of the data cache: it leaves no other line at its way and set (rule R180). -/
def CacheLine.enter (p : Params) (d : CacheLine) (ls : List CacheLine) : List CacheLine :=
  d :: ls.filter fun e => e.line != d.line && !(e.way == d.way && lineSet p e.line == lineSet p d.line)

/-- The dirty lines after a store to an address (rules R181, R182; logs 21, 28). A line that has stayed in the cache stays as
it is; otherwise the store allocates it, or finds it clean, in some way, where it takes the place of the line that lay there,
which has been written back; or the store goes to the next level alone. DESIGN CHOICE: each piece of a split store or FSD
draws anew, by its own address, which it is (rule R182 does not say; log 28). -/
def State.noteDirty (s : State) (a : Word) : List CacheLine :=
  let l := lineOf a
  if !s.writesBack a || (s.dirty.any (·.line == l) && lineStays s.freeCtr a.toNat) then s.dirty
  else if lineAllocated s.freeCtr a.toNat then
    { line := l, way := lineWay s.freeCtr a.toNat, older := s.mem.lineAt l : CacheLine }.enter s.params s.dirty
  else s.dirty.filter fun d => d.line != l

/-! ## Lines kept while the data cache was off (rules R180, R184; log 24) -/

/-- The 32 bytes of a kept line. -/
def CacheLine.bytes (d : CacheLine) : List Byte := (List.range 32).map fun i => d.older.getD i 0

/-- The kept line that an access to an address hits; it may have left the cache (rule R182). -/
def State.keptHit (s : State) (a : Word) : Option CacheLine :=
  if s.usesDcache a && lineStays s.freeCtr a.toNat then s.kept.find? (·.line == lineOf a) else none

/-- Memory with the contents of the line that the data cache holds. -/
def State.withLine (s : State) (d : CacheLine) : Memory := s.mem.writeBytes (lineBase d.line) d.bytes

/-- The memory that a load of one bus transfer at an address reads: a kept line that it hits has its own contents. -/
def State.view (s : State) (a : Word) : Memory :=
  match s.keptHit a with
  | some d => s.withLine d
  | none => s.mem

/-- A store in write-back mode that hits a kept line makes it dirty: its contents are now the newest, and the next level holds
what memory held (rule R181). -/
def State.reviveKept (s : State) (a : Word) : State :=
  match if s.mhcr.wb then s.keptHit a else none with
  | some d =>
    { s with
      mem := s.withLine d
      stale := s.noteStale (halvesOf (lineBase d.line) 32)
      dirty := { d with older := s.mem.lineAt d.line }.enter s.params s.dirty }
  | none => s

/-- The low `n` bytes of `v`, stored at `a`, are written into a line. -/
def CacheLine.write (a : Word) (n : Nat) (v : Dword) (d : CacheLine) : CacheLine :=
  { d with older := (List.range 32).map fun i =>
      let k := (lineBase d.line + BitVec.ofNat 32 i - a).toNat
      if k < n then (v >>> (8 * k)).setWidth 8 else d.older.getD i 0 }

/-- The kept lines after a store: one that it hits takes the bytes when the store also goes to the bus, and is dirty in
write-back mode; one that has left the cache is kept no longer (rule R181). With the data cache off they stay. -/
def State.noteKept (s : State) (a : Word) (n : Nat) (v : Dword) : List CacheLine :=
  if !s.usesDcache a then s.kept
  else if s.mhcr.wb || !lineStays s.freeCtr a.toNat then s.kept.filter fun d => d.line != lineOf a
  else s.kept.map fun d => if d.line == lineOf a then d.write a n v else d

/-- The clean lines that the data cache holds when it is switched off: lines kept before that are still there, and any others,
with memory's contents (rules R180, R182). -/
def State.keepLines (s : State) : List CacheLine :=
  (linesHeld s.freeCtr).foldl
    (fun ls l =>
      if s.usesDcache (lineBase l.1) then
        { line := l.1, way := l.2, older := s.mem.lineAt l.1 : CacheLine }.enter s.params ls
      else ls)
    (s.kept.filter fun d => lineStays s.freeCtr (lineBase d.line).toNat)

/-! ## Pieces of an access -/

/-- A store of `n` bytes to memory, all in one line. -/
def State.storeBytes (s : State) (a : Word) (n : Nat) (v : Dword) : State :=
  let t := s.reviveKept a
  { t with
    mem := t.mem.writeLE a n v, stale := t.noteStale (halvesOf a n), dirty := t.noteDirty a, kept := s.noteKept a n v }

/-- The piece of a store at `a` of the value `v` is written. -/
def State.storePiece (a : Word) (v : Dword) (s : State) (p : Word × Nat) : State :=
  s.storeBytes p.1 p.2 (v >>> (8 * (p.1 - a).toNat))

/-- The same, where the piece may belong to the devices. -/
def State.writePiece (a : Word) (v : Dword) (s : State) (p : Word × Nat) : State :=
  if inTcip p.1 then s.deviceWrite p.1 p.2 ((v >>> (8 * (p.1 - a).toNat)).setWidth 32) else s.storePiece a v p

/-- The bytes of some pieces as one little-endian value. -/
def State.readPieces (s : State) : List (Word × Nat) → Dword
  | [] => 0
  | p :: ps => s.readPieces ps <<< (8 * p.2) ||| (s.view p.1).readLE p.1 p.2

/-- The value that a load of `n` bytes reads, zero-extended. -/
def State.loadValue (s : State) (a : Word) (n : Nat) : Dword :=
  if inTcip a then
    if n = 8 then (s.deviceRead (a + 4) 4 ++ s.deviceRead a 4 : BitVec 64) else (s.deviceRead a n).setWidth 64
  else s.readPieces (pieces a n)

/-- A store of `n` bytes, to memory or to the devices. -/
def State.storeValue (s : State) (a : Word) (n : Nat) (v : Dword) : State :=
  if inTcip a then
    if n = 8 then (s.deviceWrite a 4 (v.setWidth 32)).deviceWrite (a + 4) 4 (v.extractLsb' 32 32)
    else s.deviceWrite a n (v.setWidth 32)
  else (pieces a n).foldl (State.storePiece a v) s

/-- The number of pieces of a store before the one that ends it; all of them when it retires. -/
def State.piecesBefore (s : State) (a : Word) (n : Nat) : Nat :=
  ((s.checkPieces .store a n).takeWhile fun c => !s.endsAccess .store c).length

/-- A piece of a store one of whose pieces fails may have been written: its own check passes, and it lies before the one that
ends the store (U3), which are all pieces when the store retires, its errors lost or still to be reported (rules R172, R566 do
not say; log 18), or it is the other half of an 8-byte store (U2). -/
def State.mayBeWritten (s : State) (a : Word) (n : Nat) (p : (Word × Nat) × Nat) : Bool :=
  s.checkPieceOf .store a n p.1 == .ok && (!misaligned a n || decide (p.2 < s.piecesBefore a n))

/-- A store one of whose pieces fails: each piece that may have been written has been, or not (U2, U3; logs 18 to 20). -/
def State.partialStore (s : State) (a : Word) (n : Nat) (v : Dword) : State :=
  ((pieces a n).zipIdx.filter fun p => s.mayBeWritten a n p && pieceWritten s.freeCtr p.2).foldl
    (fun t p => t.writePiece a v p.1) s

/-! ## Loads and stores (rules R12, R290) -/

/-- Where a load puts its value. -/
inductive Dest where
  | int (rd : Reg)
  | float (fd : Reg)
  deriving DecidableEq, Repr

/-- A loaded value reaches its register; a floating-point register takes as many raw bits as it has (rule R26). -/
def State.deliver (s : State) : Dest → Dword → State
  | .int rd, v => s.setX rd (v.setWidth 32)
  | .float fd, v => s.setF fd (if s.params.fpu = .double then v else (v.setWidth 32).setWidth 64)

/-- The destination of a load whose bus error is imprecise: unchanged or any value (rule R566, U15; log 17). -/
def State.deliverUnstated (s : State) (d : Dest) : State :=
  if unstatedWrites s.freeCtr then s.deliver d (unstatedLoad s.freeCtr) else s

/-- An instruction whose data access got a bus error: it is reported at once, or the instruction retires, as `done` says, and
the error waits (rule R566, log 16). Whether it may be lost instead is asked before, of plain stores alone (log 18). -/
def State.busErrorAt (s : State) (k : Access) (a : Word) (done : State → State) (len : Word) : Result :=
  if s.reportsNow then s.raise k.faultCause a true
  else .next ((done (s.queueError k a)).advance len)

/-- A load or LR.W whose access got a bus error: only in imprecise mode does its destination become unstated, also when the
error is reported at once (rules R352, R566, U15; log 17). -/
def State.loadError (s : State) (k : Access) (a : Word) (d : Dest) (len : Word) : Result :=
  (if s.aee then s else s.deliverUnstated d).busErrorAt k a id len

/-- A load one of whose pieces is denied: the destination is unstated when an earlier piece got a bus error that waits (rules
R147, R160, R566, U15; logs 17, 19). -/
def State.loadDenied (s : State) (b : Word) (d : Dest) (earlier : Option Word) : Result :=
  ((if earlier.isSome then s.deliverUnstated d else s).queueEarlier .load earlier).raise .loadAccessFault b

/-- A load of `n` bytes: alignment, access checks, then the value, extended by `ext`, reaches its register (rules R146,
R160, R290). -/
def State.load (s : State) (dest : Dest) (a : Word) (n : Nat) (ext : Dword → Dword) (len : Word) : Result :=
  if s.trapsMisaligned .load a n then s.raise .loadAddrMisaligned a
  else match s.checkAccess .load a n with
    | .ok => .next ((s.deliver dest (ext (s.loadValue a n))).advance len)
    | .denied b => s.loadDenied b dest (s.earlierError .load a n)
    | .busError b => s.loadError .load b dest len
    | .refused r => .refused r

/-- A store whose access got a bus error: it is reported at once, or the store retires and counts, its error lost or waiting
(rules R172, R566; logs 16, 18). -/
def State.storeError (s : State) (b a : Word) (n : Nat) (v : Dword) (len : Word) : Result :=
  if s.losesError b then .next (((s.partialStore a n v).countEvent 13 1).advance len)
  else (s.partialStore a n v).busErrorAt .store b (fun t => t.countEvent 13 1) len

/-- A store of the low `n` bytes of `v` (rules R146, R160, R290). Store instructions are counted by MHPMCOUNTER13 (rule
R61). -/
def State.store (s : State) (a : Word) (n : Nat) (v : Dword) (len : Word) : Result :=
  if s.trapsMisaligned .store a n then s.raise .storeAddrMisaligned a
  else match s.checkAccess .store a n with
    | .ok => .next (((s.storeValue a n v).countEvent 13 1).advance len)
    | .denied b => ((s.partialStore a n v).queueEarlier .store (s.earlierError .store a n)).raise .storeAccessFault b
    | .busError b => s.storeError b a n v len
    | .refused r => .refused r

/-- Loads extended from 8, 16 and 32 bits (rules R291 to R295). -/
def extend (signed : Bool) (bits : Nat) (v : Dword) : Dword :=
  if signed then (v.setWidth bits).signExtend 64 else (v.setWidth bits).setWidth 64

end Sys2Proof.Machine
end

