-- ==== Sys2Proof/Machine/Atomic.lean ====
section
/-! DEFINITION. RV32A (rules R350 to R365). The aq and rl bits have no effect that one hart can see (rule R351, log 44). -/

namespace Sys2Proof.Machine

/-- An AMO or SC.W that retires may count as a store instruction, also an SC.W that stores nothing and one of either whose bus
error is reported late (rule R61 does not say; log 12). -/
def State.countAtomic (s : State) : State := s.countEvent 13 (if Config.atomicCounts s.freeCtr then 1 else 0)

/-- Read, modify, write of the word at `a`; `src` was read before `rd` is written (rules R352, R353). With a bus error neither
`rd` nor memory nor the reservation changes, whenever it is reported (rule R352; log 17). DESIGN CHOICE: that error is reported
or deferred, never lost, also at a bufferable address (rule R172 does not say; log 18). -/
def State.amo (s : State) (rd : Reg) (a src : Word) (op : Word → Word → Word) : Result :=
  if misaligned a 4 then s.raise .storeAddrMisaligned a
  else match s.checkAccess .amo a 4 with
    | .ok =>
      let old := (s.loadValue a 4).setWidth 32
      .next ((((s.storeValue a 4 ((op old src).setWidth 64)).setX rd old).countAtomic).advance 4)
    | .denied b => s.raise .storeAccessFault b
    | .busError b => s.busErrorAt .amo b State.countAtomic 4
    | .refused r => .refused r

/-- LR.W: the word at `a`, which becomes reserved; with a bus error the reservation does not change (rules R352, R360). -/
def State.loadReserved (s : State) (rd : Reg) (a : Word) : Result :=
  if misaligned a 4 then s.raise .loadAddrMisaligned a
  else match s.checkAccess .loadReserved a 4 with
    | .ok => .next (({ s with reservation := some a }.setX rd ((s.loadValue a 4).setWidth 32)).advance 4)
    | .denied b => s.raise .loadAccessFault b
    | .busError b => s.loadError .loadReserved b (.int rd) 4
    | .refused r => .refused r

/-- SC.W succeeds when the reservation is for this word, but may fail at any time (rules R179, R361; D41, log 14). -/
def State.reserves (s : State) (a : Word) : Bool := s.reservation == some a && !Config.scSpurious s.freeCtr

/-- SC.W: 0 and the store, or 1; the reservation ends either way. Alignment and permission are checked always, the bus sees
only a store that takes place; with a bus error neither `rd` nor memory nor the reservation changes (rules R352, R361; log
17). DESIGN CHOICE: that error is reported or deferred, never lost, also at a bufferable address (rule R172 does not say; log
18). -/
def State.storeConditional (s : State) (rd : Reg) (a src : Word) : Result :=
  let fail : Result := .next (({ s with reservation := none }.setX rd 1).countAtomic.advance 4)
  if misaligned a 4 then s.raise .storeAddrMisaligned a
  else match s.checkAccess .storeConditional a 4 with
    | .ok =>
      if s.reserves a then
        .next (({ s.storeValue a 4 (src.setWidth 64) with reservation := none }.setX rd 0).countAtomic.advance 4)
      else fail
    | .denied b => s.raise .storeAccessFault b
    | .busError b => if s.reserves a then s.busErrorAt .storeConditional b State.countAtomic 4 else fail
    | .refused r => .refused r

/-- AMOADD.W (rule R354). -/
def execAmoaddW (_aq _rl : BitVec 1) (rd rs1 rs2 : Reg) (s : State) : Result :=
  s.amo rd (s.readX rs1) (s.readX rs2) (fun old src => old + src)

/-- AMOAND.W (rule R355). -/
def execAmoandW (_aq _rl : BitVec 1) (rd rs1 rs2 : Reg) (s : State) : Result :=
  s.amo rd (s.readX rs1) (s.readX rs2) (fun old src => old &&& src)

/-- AMOOR.W (rule R362). -/
def execAmoorW (_aq _rl : BitVec 1) (rd rs1 rs2 : Reg) (s : State) : Result :=
  s.amo rd (s.readX rs1) (s.readX rs2) (fun old src => old ||| src)

/-- AMOXOR.W (rule R364). -/
def execAmoxorW (_aq _rl : BitVec 1) (rd rs1 rs2 : Reg) (s : State) : Result :=
  s.amo rd (s.readX rs1) (s.readX rs2) (fun old src => old ^^^ src)

/-- AMOSWAP.W (rule R363). -/
def execAmoswapW (_aq _rl : BitVec 1) (rd rs1 rs2 : Reg) (s : State) : Result :=
  s.amo rd (s.readX rs1) (s.readX rs2) (fun _ src => src)

/-- AMOMAX.W (rule R356). -/
def execAmomaxW (_aq _rl : BitVec 1) (rd rs1 rs2 : Reg) (s : State) : Result :=
  s.amo rd (s.readX rs1) (s.readX rs2) (fun old src => if old.slt src then src else old)

/-- AMOMAXU.W (rule R357). -/
def execAmomaxuW (_aq _rl : BitVec 1) (rd rs1 rs2 : Reg) (s : State) : Result :=
  s.amo rd (s.readX rs1) (s.readX rs2) (fun old src => if old.ult src then src else old)

/-- AMOMIN.W (rule R358). -/
def execAmominW (_aq _rl : BitVec 1) (rd rs1 rs2 : Reg) (s : State) : Result :=
  s.amo rd (s.readX rs1) (s.readX rs2) (fun old src => if src.slt old then src else old)

/-- AMOMINU.W (rule R359). -/
def execAmominuW (_aq _rl : BitVec 1) (rd rs1 rs2 : Reg) (s : State) : Result :=
  s.amo rd (s.readX rs1) (s.readX rs2) (fun old src => if src.ult old then src else old)

/-- LR.W (rule R360). -/
def execLrW (_aq _rl : BitVec 1) (rd rs1 : Reg) (s : State) : Result :=
  s.loadReserved rd (s.readX rs1)

/-- SC.W (rule R361). -/
def execScW (_aq _rl : BitVec 1) (rd rs1 rs2 : Reg) (s : State) : Result :=
  s.storeConditional rd (s.readX rs1) (s.readX rs2)

end Sys2Proof.Machine
end

