-- ==== Sys2Proof/Machine/Base.lean ====
section
/-! DEFINITION. RV32I but for CSR and system instructions (rules R260 to R298). -/

namespace Sys2Proof.Machine

/-- Left shift by a 5-bit amount (rule R270). -/
def shiftLeft (v : Word) (n : BitVec 5) : Word := v <<< n.toNat

/-- Logical right shift by a 5-bit amount (rule R272, C1). -/
def shiftRight (v : Word) (n : BitVec 5) : Word := v >>> n.toNat

/-- Arithmetic right shift by a 5-bit amount (rule R274). -/
def shiftArith (v : Word) (n : BitVec 5) : Word := v.sshiftRight n.toNat

/-- 1 when less as signed integers, else 0 (rule R276). -/
def lessSigned (v w : Word) : Word := if v.slt w then 1 else 0

/-- 1 when less as unsigned integers, else 0 (rule R277). -/
def lessUnsigned (v w : Word) : Word := if v.ult w then 1 else 0

/-- ADD (rule R261). -/
def execAdd (rd rs1 rs2 : Reg) (s : State) : Result :=
  s.writeRd rd (s.readX rs1 + s.readX rs2) 4

/-- SUB (rule R263). -/
def execSub (rd rs1 rs2 : Reg) (s : State) : Result :=
  s.writeRd rd (s.readX rs1 - s.readX rs2) 4

/-- AND (rule R264). -/
def execAnd (rd rs1 rs2 : Reg) (s : State) : Result :=
  s.writeRd rd (s.readX rs1 &&& s.readX rs2) 4

/-- OR (rule R266). -/
def execOr (rd rs1 rs2 : Reg) (s : State) : Result :=
  s.writeRd rd (s.readX rs1 ||| s.readX rs2) 4

/-- XOR (rule R268). -/
def execXor (rd rs1 rs2 : Reg) (s : State) : Result :=
  s.writeRd rd (s.readX rs1 ^^^ s.readX rs2) 4

/-- SLL (rule R270). -/
def execSll (rd rs1 rs2 : Reg) (s : State) : Result :=
  s.writeRd rd (shiftLeft (s.readX rs1) ((s.readX rs2).setWidth 5)) 4

/-- SRL (rule R272). -/
def execSrl (rd rs1 rs2 : Reg) (s : State) : Result :=
  s.writeRd rd (shiftRight (s.readX rs1) ((s.readX rs2).setWidth 5)) 4

/-- SRA (rule R274). -/
def execSra (rd rs1 rs2 : Reg) (s : State) : Result :=
  s.writeRd rd (shiftArith (s.readX rs1) ((s.readX rs2).setWidth 5)) 4

/-- SLT (rule R276). -/
def execSlt (rd rs1 rs2 : Reg) (s : State) : Result :=
  s.writeRd rd (lessSigned (s.readX rs1) (s.readX rs2)) 4

/-- SLTU (rule R277). -/
def execSltu (rd rs1 rs2 : Reg) (s : State) : Result :=
  s.writeRd rd (lessUnsigned (s.readX rs1) (s.readX rs2)) 4

/-- ADDI (rule R262). -/
def execAddi (rd rs1 : Reg) (imm : BitVec 12) (s : State) : Result :=
  s.writeRd rd (s.readX rs1 + imm12Value imm) 4

/-- ANDI (rule R265). -/
def execAndi (rd rs1 : Reg) (imm : BitVec 12) (s : State) : Result :=
  s.writeRd rd (s.readX rs1 &&& imm12Value imm) 4

/-- ORI (rule R267). -/
def execOri (rd rs1 : Reg) (imm : BitVec 12) (s : State) : Result :=
  s.writeRd rd (s.readX rs1 ||| imm12Value imm) 4

/-- XORI: exclusive or (rule R269, C2). -/
def execXori (rd rs1 : Reg) (imm : BitVec 12) (s : State) : Result :=
  s.writeRd rd (s.readX rs1 ^^^ imm12Value imm) 4

/-- SLTI (rule R278). -/
def execSlti (rd rs1 : Reg) (imm : BitVec 12) (s : State) : Result :=
  s.writeRd rd (lessSigned (s.readX rs1) (imm12Value imm)) 4

/-- SLTIU: the immediate is sign-extended, the comparison unsigned (rule R279, D43). -/
def execSltiu (rd rs1 : Reg) (imm : BitVec 12) (s : State) : Result :=
  s.writeRd rd (lessUnsigned (s.readX rs1) (imm12Value imm)) 4

/-- SLLI (rule R271). -/
def execSlli (rd rs1 : Reg) (shamt : BitVec 5) (s : State) : Result :=
  s.writeRd rd (shiftLeft (s.readX rs1) shamt) 4

/-- SRLI (rule R273). -/
def execSrli (rd rs1 : Reg) (shamt : BitVec 5) (s : State) : Result :=
  s.writeRd rd (shiftRight (s.readX rs1) shamt) 4

/-- SRAI (rule R275). -/
def execSrai (rd rs1 : Reg) (shamt : BitVec 5) (s : State) : Result :=
  s.writeRd rd (shiftArith (s.readX rs1) shamt) 4

/-- LUI (rule R280). -/
def execLui (rd : Reg) (imm : BitVec 20) (s : State) : Result :=
  s.writeRd rd (imm20Value imm) 4

/-- AUIPC (rule R281). -/
def execAuipc (rd : Reg) (imm : BitVec 20) (s : State) : Result :=
  s.writeRd rd (s.pc + imm20Value imm) 4

/-- BEQ (rule R282). -/
def execBeq (rs1 rs2 : Reg) (imm : BitVec 12) (s : State) : Result :=
  s.branch (s.readX rs1 == s.readX rs2) (branchOffset imm) 4

/-- BNE (rule R283). -/
def execBne (rs1 rs2 : Reg) (imm : BitVec 12) (s : State) : Result :=
  s.branch (s.readX rs1 != s.readX rs2) (branchOffset imm) 4

/-- BLT (rule R284). -/
def execBlt (rs1 rs2 : Reg) (imm : BitVec 12) (s : State) : Result :=
  s.branch ((s.readX rs1).slt (s.readX rs2)) (branchOffset imm) 4

/-- BGE (rule R285). -/
def execBge (rs1 rs2 : Reg) (imm : BitVec 12) (s : State) : Result :=
  s.branch (!(s.readX rs1).slt (s.readX rs2)) (branchOffset imm) 4

/-- BLTU (rule R286). -/
def execBltu (rs1 rs2 : Reg) (imm : BitVec 12) (s : State) : Result :=
  s.branch ((s.readX rs1).ult (s.readX rs2)) (branchOffset imm) 4

/-- BGEU (rule R287). -/
def execBgeu (rs1 rs2 : Reg) (imm : BitVec 12) (s : State) : Result :=
  s.branch (!(s.readX rs1).ult (s.readX rs2)) (branchOffset imm) 4

/-- JAL (rule R288). -/
def execJal (rd : Reg) (imm : BitVec 20) (s : State) : Result :=
  s.link rd (s.pc + jumpOffset imm) 4

/-- JALR: the target is computed before `rd` is written (rule R289). -/
def execJalr (rd rs1 : Reg) (imm : BitVec 12) (s : State) : Result :=
  s.link rd (evenTarget (s.readX rs1 + imm12Value imm)) 4

/-- LB (rule R291). -/
def execLb (rd rs1 : Reg) (imm : BitVec 12) (s : State) : Result :=
  s.load (.int rd) (s.address rs1 imm) 1 (extend true 8) 4

/-- LBU (rule R292). -/
def execLbu (rd rs1 : Reg) (imm : BitVec 12) (s : State) : Result :=
  s.load (.int rd) (s.address rs1 imm) 1 (extend false 8) 4

/-- LH (rule R293). -/
def execLh (rd rs1 : Reg) (imm : BitVec 12) (s : State) : Result :=
  s.load (.int rd) (s.address rs1 imm) 2 (extend true 16) 4

/-- LHU (rule R294). -/
def execLhu (rd rs1 : Reg) (imm : BitVec 12) (s : State) : Result :=
  s.load (.int rd) (s.address rs1 imm) 2 (extend false 16) 4

/-- LW (rule R295). -/
def execLw (rd rs1 : Reg) (imm : BitVec 12) (s : State) : Result :=
  s.load (.int rd) (s.address rs1 imm) 4 (extend false 32) 4

/-- SB (rule R296). -/
def execSb (rs2 rs1 : Reg) (imm : BitVec 12) (s : State) : Result :=
  s.store (s.address rs1 imm) 1 ((s.readX rs2).setWidth 64) 4

/-- SH (rule R297). -/
def execSh (rs2 rs1 : Reg) (imm : BitVec 12) (s : State) : Result :=
  s.store (s.address rs1 imm) 2 ((s.readX rs2).setWidth 64) 4

/-- SW (rule R298). -/
def execSw (rs2 rs1 : Reg) (imm : BitVec 12) (s : State) : Result :=
  s.store (s.address rs1 imm) 4 ((s.readX rs2).setWidth 64) 4

end Sys2Proof.Machine
end

