-- ==== Sys2Proof/Machine/CacheSync.lean ====
section
/-! DEFINITION. The T-Head cache and synchronisation instructions (rules R530 to R545), over the overlays of logs 21 to 24. -/

namespace Sys2Proof.Machine

open Sys2Proof.Config

/-- Every line. -/
def everyLine (_ : CacheLine) : Bool := true

/-- The line that holds a physical address (rule R532). -/
def sameLine (a : Word) (d : CacheLine) : Bool := d.line == lineOf a

/-- The line at the way and set of an operand: the way is its bit 31, the set index stands in the bits that `DCACHE_SW_INDEX`
names, all other bits are ignored (rule R532, C30, U11; log 23). -/
def atWaySet (p : Params) (v : Word) (d : CacheLine) : Bool :=
  d.way == v.getLsbD 31 && p.dcacheSwIndex.zipIdx.all fun b => d.line.getLsbD b.2 == v.getLsbD b.1

/-- Lines that were kept are dropped (rule R532, log 24). -/
def State.dropKept (s : State) (sel : CacheLine → Bool) : State := { s with kept := s.kept.filter fun d => !sel d }

/-- Clean: the lines that are dirty are written to the next level (rule R532). -/
def State.cleanLines (s : State) (sel : CacheLine → Bool) : State := { s with dirty := s.dirty.filter fun d => !sel d }

/-- The contents of a dirty line are lost: memory shows what the next level holds of it, unless the line had been evicted, and
so written back, before (rules R182, R532; log 21). -/
def State.loseLine (s : State) (d : CacheLine) : State :=
  if lineEvicted s.freeCtr d.line.toNat then s
  else
    { s with
      mem := s.mem.writeBytes (lineBase d.line) d.older, stale := s.noteStale (halvesOf (lineBase d.line) 32) }

/-- Invalidate: the lines are dropped without being written back, each as a whole (rule R532, U13). -/
def State.discardLines (s : State) (sel : CacheLine → Bool) : State :=
  (((s.dirty.filter sel).foldl State.loseLine s).cleanLines sel).dropKept sel

/-- Clean and invalidate: what is written back is in the next level, so that dropping the line changes nothing; a clean line is
dropped (rule R532). -/
def State.flushLines (s : State) (sel : CacheLine → Bool) : State := (s.cleanLines sel).dropKept sel

/-- The next level holds an older content of a halfword, because its line is dirty (rules R181, R185). -/
def State.dirtyBelow (s : State) (e : StaleHalf) : Bool :=
  s.dirty.any fun d => d.line == lineOf e.addr &&
    e.older == (d.older.getD (e.addr.toNat % 32 + 1) 0 ++ d.older.getD (e.addr.toNat % 32) 0 : BitVec 16)

/-- Lines of the instruction cache are dropped: what a fetch may still see of them is only in the pipeline, unless the next
level still holds it, the newer contents being in the data cache (rules R544, R545, R185; log 22). -/
def State.invalidateFetch (s : State) (sel : Word → Bool) : State :=
  { s with stale := s.stale.map fun e => if sel e.addr && !s.dirtyBelow e then { e with flushed := true } else e }

/-- The pipeline is flushed (rule R542). -/
def State.flushPipeline (s : State) : State := { s with stale := s.stale.filter fun e => !e.flushed }

/-- A cache instruction: enabled, in machine mode, else illegal (rule R531). -/
def State.cacheOp (s : State) (i : Instr) (op : State → State) : Result :=
  if s.mxstatus.thead && s.priv == .machine then .next ((op s).advance 4) else s.illegal i

/-- A synchronisation instruction: enabled, in any mode (rule R531). -/
def State.syncOp (s : State) (i : Instr) (t : State) : Result :=
  if s.mxstatus.thead then .next (t.advance 4) else s.illegal i

/-- DCACHE.CALL (rule R533). -/
def execDcacheCall (s : State) : Result :=
  s.cacheOp (.dcacheCall) fun t => t.cleanLines everyLine

/-- DCACHE.IALL (rule R543). -/
def execDcacheIall (s : State) : Result :=
  s.cacheOp (.dcacheIall) fun t => t.discardLines everyLine

/-- DCACHE.CIALL (rule R534). -/
def execDcacheCiall (s : State) : Result :=
  s.cacheOp (.dcacheCiall) fun t => t.flushLines everyLine

/-- DCACHE.CSW (rule R536). -/
def execDcacheCsw (rs1 : Reg) (s : State) : Result :=
  s.cacheOp (.dcacheCsw rs1) fun t => t.cleanLines (atWaySet t.params (t.readX rs1))

/-- DCACHE.ISW (rule R540). -/
def execDcacheIsw (rs1 : Reg) (s : State) : Result :=
  s.cacheOp (.dcacheIsw rs1) fun t => t.discardLines (atWaySet t.params (t.readX rs1))

/-- DCACHE.CISW (rule R537). -/
def execDcacheCisw (rs1 : Reg) (s : State) : Result :=
  s.cacheOp (.dcacheCisw rs1) fun t => t.flushLines (atWaySet t.params (t.readX rs1))

/-- DCACHE.CPA (rule R538). -/
def execDcacheCpa (rs1 : Reg) (s : State) : Result :=
  s.cacheOp (.dcacheCpa rs1) fun t => t.cleanLines (sameLine (t.readX rs1))

/-- DCACHE.IPA (rule R539). -/
def execDcacheIpa (rs1 : Reg) (s : State) : Result :=
  s.cacheOp (.dcacheIpa rs1) fun t => t.discardLines (sameLine (t.readX rs1))

/-- DCACHE.CIPA (rule R535). -/
def execDcacheCipa (rs1 : Reg) (s : State) : Result :=
  s.cacheOp (.dcacheCipa rs1) fun t => t.flushLines (sameLine (t.readX rs1))

/-- ICACHE.IALL (rule R544). -/
def execIcacheIall (s : State) : Result :=
  s.cacheOp (.icacheIall) fun t => t.invalidateFetch fun _ => true

/-- ICACHE.IPA (rule R545). -/
def execIcacheIpa (rs1 : Reg) (s : State) : Result :=
  s.cacheOp (.icacheIpa rs1) fun t => t.invalidateFetch fun a => lineOf a == lineOf (t.readX rs1)

/-- SYNC (rule R541). -/
def execSync (s : State) : Result :=
  s.syncOp (.sync) s

/-- SYNC.I (rule R542). -/
def execSyncI (s : State) : Result :=
  s.syncOp (.syncI) s.flushPipeline

end Sys2Proof.Machine
end

