-- ==== Sys2Proof/Machine/Compressed.lean ====
section
/-! DEFINITION. RVC (rules R480 to R511): each has the effect of its 32-bit equivalent, with length 2 (rules R224, R480). -/

namespace Sys2Proof.Machine

/-- C.ADD (rule R485). -/
def execCAdd (rd rs2 : Reg) (s : State) : Result :=
  s.writeRd rd (s.readX rd + s.readX rs2) 2

/-- C.ADDI (rule R486). -/
def execCAddi (rd : Reg) (imm : BitVec 6) (s : State) : Result :=
  s.writeRd rd (s.readX rd + imm6Value imm) 2

/-- C.ADDI4SPN (rule R487). -/
def execCAddi4spn (rd : CReg) (nzuimm : BitVec 8) (s : State) : Result :=
  s.writeRd (wideReg rd) (s.readX sp + cAddi4spnValue nzuimm) 2

/-- C.ADDI16SP (rule R488). -/
def execCAddi16sp (nzimm : BitVec 6) (s : State) : Result :=
  s.writeRd sp (s.readX sp + cAddi16spValue nzimm) 2

/-- C.AND (rule R489). -/
def execCAnd (rd rs2 : CReg) (s : State) : Result :=
  s.writeRd (wideReg rd) (s.readX (wideReg rd) &&& s.readX (wideReg rs2)) 2

/-- C.ANDI (rule R490). -/
def execCAndi (rd : CReg) (imm : BitVec 6) (s : State) : Result :=
  s.writeRd (wideReg rd) (s.readX (wideReg rd) &&& imm6Value imm) 2

/-- C.BEQZ (rule R491). -/
def execCBeqz (rs1 : CReg) (imm : BitVec 8) (s : State) : Result :=
  s.branch (s.readX (wideReg rs1) == 0) (cBranchOffset imm) 2

/-- C.BNEZ (rule R492). -/
def execCBnez (rs1 : CReg) (imm : BitVec 8) (s : State) : Result :=
  s.branch (s.readX (wideReg rs1) != 0) (cBranchOffset imm) 2

/-- C.EBREAK (rule R493). -/
def execCEbreak (s : State) : Result :=
  s.raise .breakpoint 0

/-- C.J (rule R494). -/
def execCJ (imm : BitVec 11) (s : State) : Result :=
  s.link 0 (s.pc + cJumpOffset imm) 2

/-- C.JAL (rule R495). -/
def execCJal (imm : BitVec 11) (s : State) : Result :=
  s.link ra (s.pc + cJumpOffset imm) 2

/-- C.JALR (rule R496). -/
def execCJalr (rs1 : Reg) (s : State) : Result :=
  s.link ra (evenTarget (s.readX rs1)) 2

/-- C.JR (rule R497). -/
def execCJr (rs1 : Reg) (s : State) : Result :=
  s.link 0 (evenTarget (s.readX rs1)) 2

/-- C.LI (rule R498). -/
def execCLi (rd : Reg) (imm : BitVec 6) (s : State) : Result :=
  s.writeRd rd (imm6Value imm) 2

/-- C.LUI (rule R499). -/
def execCLui (rd : Reg) (nzimm : BitVec 6) (s : State) : Result :=
  s.writeRd rd (cLuiValue nzimm) 2

/-- C.LW (rule R500). -/
def execCLw (rd rs1 : CReg) (uimm : BitVec 5) (s : State) : Result :=
  s.load (.int (wideReg rd)) (s.readX (wideReg rs1) + cWordOffset uimm) 4 (extend false 32) 2

/-- C.LWSP (rule R501). -/
def execCLwsp (rd : Reg) (uimm : BitVec 6) (s : State) : Result :=
  s.load (.int rd) (s.readX sp + cSpOffset uimm) 4 (extend false 32) 2

/-- C.MV (rule R502). -/
def execCMv (rd rs2 : Reg) (s : State) : Result :=
  s.writeRd rd (s.readX rs2) 2

/-- C.NOP (rule R503). -/
def execCNop (s : State) : Result :=
  .next (s.advance 2)

/-- C.OR (rule R504). -/
def execCOr (rd rs2 : CReg) (s : State) : Result :=
  s.writeRd (wideReg rd) (s.readX (wideReg rd) ||| s.readX (wideReg rs2)) 2

/-- C.SLLI (rule R505). -/
def execCSlli (rd : Reg) (shamt : BitVec 5) (s : State) : Result :=
  s.writeRd rd (shiftLeft (s.readX rd) shamt) 2

/-- C.SRAI (rule R506). -/
def execCSrai (rd : CReg) (shamt : BitVec 5) (s : State) : Result :=
  s.writeRd (wideReg rd) (shiftArith (s.readX (wideReg rd)) shamt) 2

/-- C.SRLI (rule R507). -/
def execCSrli (rd : CReg) (shamt : BitVec 5) (s : State) : Result :=
  s.writeRd (wideReg rd) (shiftRight (s.readX (wideReg rd)) shamt) 2

/-- C.SW (rule R508). -/
def execCSw (rs2 rs1 : CReg) (uimm : BitVec 5) (s : State) : Result :=
  s.store (s.readX (wideReg rs1) + cWordOffset uimm) 4 ((s.readX (wideReg rs2)).setWidth 64) 2

/-- C.SWSP (rule R509). -/
def execCSwsp (rs2 : Reg) (uimm : BitVec 6) (s : State) : Result :=
  s.store (s.readX sp + cSpOffset uimm) 4 ((s.readX rs2).setWidth 64) 2

/-- C.SUB (rule R510). -/
def execCSub (rd rs2 : CReg) (s : State) : Result :=
  s.writeRd (wideReg rd) (s.readX (wideReg rd) - s.readX (wideReg rs2)) 2

/-- C.XOR (rule R511). -/
def execCXor (rd rs2 : CReg) (s : State) : Result :=
  s.writeRd (wideReg rd) (s.readX (wideReg rd) ^^^ s.readX (wideReg rs2)) 2

end Sys2Proof.Machine
end

