-- ==== Sys2Proof/Machine/Float.lean ====
section
/-! DEFINITION. IEEE 754 arithmetic (rules R29, R384 to R403, R430): exact values first, one rounding at the end. Bit
patterns are natural numbers here; `b32` and `b64` are the two formats. -/

namespace Sys2Proof.Machine

/-- A binary format: widths of exponent and fraction (rule R29). -/
structure Fmt where
  expBits  : Nat
  fracBits : Nat
  deriving DecidableEq, Repr

/-- binary32. -/
def b32 : Fmt := { expBits := 8, fracBits := 23 }

/-- binary64. -/
def b64 : Fmt := { expBits := 11, fracBits := 52 }

/-- The all-ones exponent. -/
def Fmt.expMax (F : Fmt) : Nat := 2 ^ F.expBits - 1

/-- The exponent of the last place of the smallest numbers: 1 - bias - fracBits. -/
def Fmt.minExp (F : Fmt) : Int := 2 - (2 : Int) ^ (F.expBits - 1) - F.fracBits

/-- The pattern of plus infinity; every larger magnitude is a NaN. -/
def Fmt.infBits (F : Fmt) : Nat := F.expMax * 2 ^ F.fracBits

/-- The sign bit. -/
def Fmt.signBit (F : Fmt) : Nat := 2 ^ (F.expBits + F.fracBits)

/-- The canonical quiet NaN (rules R384, R430). -/
def Fmt.nan (F : Fmt) : Nat := F.infBits + 2 ^ (F.fracBits - 1)

/-- What a pattern stands for: a NaN, an infinity, or `± m * 2^e`. -/
inductive Num where
  | nan (signalling : Bool)
  | inf (neg : Bool)
  | fin (neg : Bool) (m : Nat) (e : Int)
  deriving DecidableEq, Repr

/-- The sign bit of a pattern is set. -/
def Fmt.isNeg (F : Fmt) (b : Nat) : Bool := decide (F.signBit ≤ b)

/-- The pattern without its sign. -/
def Fmt.magnitude (F : Fmt) (b : Nat) : Nat := b % F.signBit

/-- The number a pattern stands for (rule R29). -/
def Fmt.unpack (F : Fmt) (b : Nat) : Num :=
  let mag := F.magnitude b
  let ex := mag / 2 ^ F.fracBits
  let frac := mag % 2 ^ F.fracBits
  if ex = F.expMax then
    if frac = 0 then .inf (F.isNeg b) else .nan (decide (frac < 2 ^ (F.fracBits - 1)))
  else if ex = 0 then .fin (F.isNeg b) frac F.minExp
  else .fin (F.isNeg b) (frac + 2 ^ F.fracBits) (F.minExp + (ex - 1 : Nat))

/-- The pattern with a sign. -/
def Fmt.signed (F : Fmt) (neg : Bool) (mag : Nat) : Nat := if neg then F.signBit + mag else mag

/-- A result and the flags it raises. -/
structure FpResult where
  bits  : Nat
  flags : BitVec 5
  deriving DecidableEq, Repr

/-- A result that raises nothing. -/
def exactly (b : Nat) : FpResult := { bits := b, flags := 0 }

/-- An invalid operation (rule R384). -/
def Fmt.invalid (F : Fmt) : FpResult := { bits := F.nan, flags := flagNV }

/-- The canonical NaN, with NV when an operand is signalling (rule R384). -/
def Fmt.nanResult (F : Fmt) (signalling : Bool) : FpResult := { bits := F.nan, flags := flagIf signalling flagNV }

/-- The kept part is stepped up by one: `half` says how the discarded part compares with one half of the last place,
`inexact` that it is not zero (rule R382). -/
def roundsUp (mode : Rounding) (neg : Bool) (kept : Nat) (half : Ordering) (inexact : Bool) : Bool :=
  match mode with
  | .rne => half == .gt || (half == .eq && kept % 2 == 1)
  | .rtz => false
  | .rdn => neg && inexact
  | .rup => !neg && inexact
  | .rmm => half != .lt

/-- A natural number with `shift` low bits rounded away; `sticky` says that a nonzero rest lies below its last bit. The
result and whether it is inexact. -/
def roundShift (mode : Rounding) (neg : Bool) (m shift : Nat) (sticky : Bool) : Nat × Bool :=
  let kept := m / 2 ^ shift
  let rest := m % 2 ^ shift
  let inexact := rest != 0 || sticky
  let half : Ordering :=
    if shift = 0 then .lt
    else match compare rest (2 ^ (shift - 1)) with
      | .eq => if sticky then .gt else .eq
      | o => o
  (if roundsUp mode neg kept half inexact then kept + 1 else kept, inexact)

/-- The number of bits of a natural number. -/
def bitLength (m : Nat) : Nat := if m = 0 then 0 else m.log2 + 1

/-- The magnitude that an overflow gives (rule R384). -/
def Fmt.overflowBits (F : Fmt) (mode : Rounding) (neg : Bool) : Nat :=
  let toInf := match mode with
    | .rne | .rmm => true
    | .rtz => false
    | .rdn => neg
    | .rup => !neg
  if toInf then F.infBits else F.infBits - 1

/-- The exact value `± m * 2^e`, or slightly more in magnitude when `sticky`, rounded to the format (rule R384). `m` is not
zero; when `sticky`, it has at least two bits more than the format keeps. Tininess is detected after rounding. -/
def Fmt.round (F : Fmt) (mode : Rounding) (neg : Bool) (m : Nat) (e : Int) (sticky : Bool) : FpResult :=
  let p := F.fracBits + 1
  let free : Int := e + bitLength m - p
  let q : Int := max free F.minExp
  let scaled (at' : Int) : Nat × Bool :=
    if at' ≤ e then (m * 2 ^ (e - at').toNat, sticky) else roundShift mode neg m (at' - e).toNat sticky
  let (kept, inexact) := scaled q
  let mag := (q - F.minExp).toNat * 2 ^ F.fracBits + kept
  let tiny := decide (free < F.minExp) && !(decide (free + 1 = F.minExp) && (scaled free).1 == 2 ^ p)
  if F.infBits ≤ mag then
    { bits := F.signed neg (F.overflowBits mode neg), flags := flagOF ||| flagNX }
  else
    { bits := F.signed neg mag, flags := flagIf inexact flagNX ||| flagIf (tiny && inexact) flagUF }

/-- A zero of a sign. -/
def Fmt.zero (F : Fmt) (neg : Bool) : FpResult := exactly (F.signed neg 0)

/-- The exact integer `z * 2^e` rounded; an exact zero takes the sign `zeroNeg`. -/
def Fmt.roundInt (F : Fmt) (mode : Rounding) (z : Int) (e : Int) (zeroNeg : Bool) : FpResult :=
  if z = 0 then F.zero zeroNeg else F.round mode (decide (z < 0)) z.natAbs e false

/-- A signed magnitude as an integer. -/
def signedInt (neg : Bool) (m : Nat) : Int := if neg then -(m : Int) else m

/-- `± m1 * 2^e1 + ± m2 * 2^e2`, exact, then rounded; an exact zero sum of unlike signs is +0, or -0 in mode RDN (rule
R390). -/
def Fmt.addFinite (F : Fmt) (mode : Rounding) (n1 : Bool) (m1 : Nat) (e1 : Int) (n2 : Bool) (m2 : Nat) (e2 : Int) :
    FpResult :=
  let e := min e1 e2
  let z := signedInt n1 (m1 * 2 ^ (e1 - e).toNat) + signedInt n2 (m2 * 2 ^ (e2 - e).toNat)
  F.roundInt mode z e (if n1 = n2 then n1 else mode == .rdn)

/-- The sum of two numbers (rules R384, R390). -/
def Fmt.addNum (F : Fmt) (mode : Rounding) : Num → Num → FpResult
  | .nan s, .nan t => F.nanResult (s || t)
  | .nan s, _ => F.nanResult s
  | _, .nan t => F.nanResult t
  | .inf n, .inf k => if n = k then exactly (F.signed n F.infBits) else F.invalid
  | .inf n, .fin _ _ _ => exactly (F.signed n F.infBits)
  | .fin _ _ _, .inf k => exactly (F.signed k F.infBits)
  | .fin n1 m1 e1, .fin n2 m2 e2 => F.addFinite mode n1 m1 e1 n2 m2 e2

/-- The number with the opposite sign; a NaN stays as it is. -/
def Num.negate : Num → Num
  | .nan s => .nan s
  | .inf n => .inf !n
  | .fin n m e => .fin (!n) m e

/-- The exact product; `none` for zero times infinity (rule R384). -/
def mulNum : Num → Num → Option Num
  | .nan s, .nan t => some (.nan (s || t))
  | .nan s, _ => some (.nan s)
  | _, .nan t => some (.nan t)
  | .inf n, .inf k => some (.inf (n != k))
  | .inf n, .fin k m _ => if m = 0 then none else some (.inf (n != k))
  | .fin n m _, .inf k => if m = 0 then none else some (.inf (n != k))
  | .fin n m e, .fin k m' e' => some (.fin (n != k) (m * m') (e + e'))

/-- FADD (rules R390, R440). -/
def Fmt.add (F : Fmt) (mode : Rounding) (a b : Nat) : FpResult := F.addNum mode (F.unpack a) (F.unpack b)

/-- FSUB (rules R414, R465). -/
def Fmt.sub (F : Fmt) (mode : Rounding) (a b : Nat) : FpResult := F.addNum mode (F.unpack a) (F.unpack b).negate

/-- FMUL (rules R405, R457). -/
def Fmt.mul (F : Fmt) (mode : Rounding) (a b : Nat) : FpResult :=
  match mulNum (F.unpack a) (F.unpack b) with
  | none => F.invalid
  | some (.nan s) => F.nanResult s
  | some (.inf n) => exactly (F.signed n F.infBits)
  | some (.fin n m e) => if m = 0 then F.zero n else F.round mode n m e false

/-- The fused forms: `± a * b ± c` with one rounding; zero times infinity is invalid whatever the addend is, and a
signalling addend is too (rules R384, R401, R404, R408, R409; D48). -/
def Fmt.fused (F : Fmt) (negProduct negAddend : Bool) (mode : Rounding) (a b c : Nat) : FpResult :=
  let z := if negAddend then (F.unpack c).negate else F.unpack c
  match mulNum (F.unpack a) (F.unpack b) with
  | none => F.invalid
  | some p => F.addNum mode (if negProduct then p.negate else p) z

/-- The quotient of finite nonzero numbers, computed to two bits beyond the format and a sticky rest. -/
def Fmt.divFinite (F : Fmt) (mode : Rounding) (neg : Bool) (m1 : Nat) (e1 : Int) (m2 : Nat) (e2 : Int) : FpResult :=
  let k := F.fracBits + 3 + bitLength m2
  let n := m1 * 2 ^ k
  F.round mode neg (n / m2) (e1 - e2 - k) (n % m2 != 0)

/-- FDIV (rules R384, R396, R448). -/
def Fmt.div (F : Fmt) (mode : Rounding) (a b : Nat) : FpResult :=
  match F.unpack a, F.unpack b with
  | .nan s, .nan t => F.nanResult (s || t)
  | .nan s, _ => F.nanResult s
  | _, .nan t => F.nanResult t
  | .inf _, .inf _ => F.invalid
  | .inf n, .fin k _ _ => exactly (F.signed (n != k) F.infBits)
  | .fin n _ _, .inf k => F.zero (n != k)
  | .fin n m1 e1, .fin k m2 e2 =>
    if m2 = 0 then
      if m1 = 0 then F.invalid else { bits := F.signed (n != k) F.infBits, flags := flagDZ }
    else if m1 = 0 then F.zero (n != k)
    else F.divFinite mode (n != k) m1 e1 m2 e2

/-- The largest `r` with `r * r ≤ n`, found bit by bit below bit `k`, `r` holding the bits found so far. -/
def isqrtFrom (n : Nat) : Nat → Nat → Nat
  | 0, r => r
  | k + 1, r => isqrtFrom n k (if (r + 2 ^ k) * (r + 2 ^ k) ≤ n then r + 2 ^ k else r)

/-- The integer square root. -/
def isqrt (n : Nat) : Nat := isqrtFrom n (bitLength n / 2 + 1) 0

/-- The square root of a positive number: the exponent is made even, the root computed beyond the format with a sticky
rest. -/
def Fmt.sqrtFinite (F : Fmt) (mode : Rounding) (m : Nat) (e : Int) : FpResult :=
  let k := 2 * (F.fracBits + 4) + (e % 2).toNat
  let n := m * 2 ^ k
  let r := isqrt n
  F.round mode false r ((e - k) / 2) (r * r != n)

/-- FSQRT (rules R384, R413, R464). -/
def Fmt.sqrt (F : Fmt) (mode : Rounding) (a : Nat) : FpResult :=
  match F.unpack a with
  | .nan s => F.nanResult s
  | .inf n => if n then F.invalid else exactly F.infBits
  | .fin n m e =>
    if m = 0 then F.zero n
    else if n then F.invalid
    else F.sqrtFinite mode m e

/-! ## Comparisons (rules R397 to R399, R402, R403) -/

/-- The pattern is a NaN. -/
def Fmt.isNan (F : Fmt) (b : Nat) : Bool := decide (F.infBits < F.magnitude b)

/-- The pattern is a signalling NaN. -/
def Fmt.isSignalling (F : Fmt) (b : Nat) : Bool := F.unpack b == .nan true

/-- The order of numbers that are not NaNs; both zeros have key 0. -/
def Fmt.key (F : Fmt) (b : Nat) : Int := signedInt (F.isNeg b) (F.magnitude b)

/-- FEQ: a quiet comparison (rule R397). -/
def Fmt.eq (F : Fmt) (a b : Nat) : Bool × BitVec 5 :=
  if F.isNan a || F.isNan b then (false, flagIf (F.isSignalling a || F.isSignalling b) flagNV)
  else (F.key a == F.key b, 0)

/-- FLT: a signalling comparison (rule R399). -/
def Fmt.lt (F : Fmt) (a b : Nat) : Bool × BitVec 5 :=
  if F.isNan a || F.isNan b then (false, flagNV) else (decide (F.key a < F.key b), 0)

/-- FLE: a signalling comparison (rule R398). -/
def Fmt.le (F : Fmt) (a b : Nat) : Bool × BitVec 5 :=
  if F.isNan a || F.isNan b then (false, flagNV) else (decide (F.key a ≤ F.key b), 0)

/-- The operand that is no NaN, or the canonical NaN; `pick` chooses between two numbers (rule R402, D49). -/
def Fmt.select (F : Fmt) (pick : Nat → Nat → Nat) (a b : Nat) : FpResult :=
  { bits := if F.isNan a then (if F.isNan b then F.nan else b) else if F.isNan b then a else pick a b
    flags := flagIf (F.isSignalling a || F.isSignalling b) flagNV }

/-- FMAX; +0 is larger than -0 (rule R402). -/
def Fmt.max (F : Fmt) : Nat → Nat → FpResult :=
  F.select fun a b => if F.key a = F.key b then (if F.isNeg a then b else a) else if F.key b < F.key a then a else b

/-- FMIN; -0 is smaller than +0 (rule R403). -/
def Fmt.min (F : Fmt) : Nat → Nat → FpResult :=
  F.select fun a b => if F.key a = F.key b then (if F.isNeg a then a else b) else if F.key a < F.key b then a else b

/-- FCLASS: exactly one bit (rule R391). -/
def Fmt.classify (F : Fmt) (b : Nat) : Word :=
  match F.unpack b with
  | .nan s => if s then 0x100 else 0x200
  | .inf n => if n then 0x1 else 0x80
  | .fin n m _ =>
    if m = 0 then (if n then 0x8 else 0x10)
    else if m < 2 ^ F.fracBits then (if n then 0x4 else 0x20)
    else (if n then 0x2 else 0x40)

/-! ## Sign injection (rules R410 to R412) -/

/-- The magnitude of `a` with a sign. -/
def Fmt.withSign (F : Fmt) (neg : Bool) (a : Nat) : Nat := F.signed neg (F.magnitude a)

/-! ## Conversions (rules R392 to R395, R442 to R447) -/

/-- An integer to the format. -/
def Fmt.ofInt (F : Fmt) (mode : Rounding) (z : Int) : FpResult := F.roundInt mode z 0 false

/-- A number of format `G` to format `F`; NaNs become canonical (rules R442, R445). -/
def Fmt.convert (F G : Fmt) (mode : Rounding) (a : Nat) : FpResult :=
  match G.unpack a with
  | .nan s => F.nanResult s
  | .inf n => exactly (F.signed n F.infBits)
  | .fin n m e => if m = 0 then F.zero n else F.round mode n m e false

/-- A finite number rounded to an integer, and whether that is inexact. -/
def roundToInt (mode : Rounding) (neg : Bool) (m : Nat) (e : Int) : Int × Bool :=
  if 0 ≤ e then (signedInt neg (m * 2 ^ e.toNat), false)
  else
    let (k, inexact) := roundShift mode neg m (-e).toNat false
    (signedInt neg k, inexact)

/-- A number to an integer in `lo .. hi`; a NaN and everything beyond saturate with NV (rules R394, R395). -/
def Fmt.toInt (F : Fmt) (lo hi : Int) (mode : Rounding) (a : Nat) : Int × BitVec 5 :=
  match F.unpack a with
  | .nan _ => (hi, flagNV)
  | .inf n => (if n then lo else hi, flagNV)
  | .fin n m e =>
    let (r, inexact) := roundToInt mode n m e
    if hi < r then (hi, flagNV)
    else if r < lo then (lo, flagNV)
    else (r, flagIf inexact flagNX)

/-- The range of a signed 32-bit integer. -/
def minInt32 : Int := -2147483648

/-- The largest signed 32-bit integer. -/
def maxInt32 : Int := 2147483647

/-- The largest unsigned 32-bit integer. -/
def maxUInt32 : Int := 4294967295

end Sys2Proof.Machine
end

