-- ==== Sys2Proof/Machine/FloatOps.lean ====
section
/-! DEFINITION. What the floating-point instructions share: enabling, rounding modes, results and flags (rules R380 to R386,
R430). -/

namespace Sys2Proof.Machine

/-- An instruction without rounding mode: illegal unless the unit is built and enabled (rules R380, R430). -/
def State.fp (s : State) (enabled : Bool) (i : Instr) (r : Result) : Result := if enabled then r else s.illegal i

/-- An instruction with a rounding mode: illegal also when the mode is reserved (rule R383). -/
def State.fpRounded (s : State) (enabled : Bool) (i : Instr) (rm : BitVec 3) (k : Rounding → Result) : Result :=
  s.fp enabled i (match s.rounding rm with
    | some m => k m
    | none => s.illegal i)

/-- A single-precision result with its flags (rules R381, R384). -/
def State.putS (s : State) (fd : Reg) (r : FpResult) : Result :=
  .next (((s.writeS fd (BitVec.ofNat 32 r.bits)).raiseFlags r.flags).advance 4)

/-- A double-precision result with its flags (rule R430). -/
def State.putD (s : State) (fd : Reg) (r : FpResult) : Result :=
  .next (((s.setF fd (BitVec.ofNat 64 r.bits)).raiseFlags r.flags).advance 4)

/-- An integer result with flags (rule R381). -/
def State.putX (s : State) (rd : Reg) (v : Word) (flags : BitVec 5) : Result :=
  .next (((s.setX rd v).raiseFlags flags).advance 4)

/-- A comparison's result (rules R397 to R399). -/
def State.putBool (s : State) (rd : Reg) (r : Bool × BitVec 5) : Result := s.putX rd (if r.1 then 1 else 0) r.2

/-- A conversion's integer result (rules R394, R395). -/
def State.putInt (s : State) (rd : Reg) (r : Int × BitVec 5) : Result := s.putX rd (BitVec.ofInt 32 r.1) r.2

/-- A single-precision operand as a pattern. -/
def State.natS (s : State) (r : Reg) : Nat := (s.readS r).toNat

/-- A double-precision operand as a pattern. -/
def State.natD (s : State) (r : Reg) : Nat := (s.readF r).toNat

end Sys2Proof.Machine
end

