-- ==== Sys2Proof/Machine/FloatD.lean ====
section
/-! DEFINITION. RV32D (rules R440 to R465). -/

namespace Sys2Proof.Machine

/-- FADD.D (rule R440). -/
def execFaddD (rm : BitVec 3) (fd fs1 fs2 : Reg) (s : State) : Result :=
  s.fpRounded s.fpEnabledD (.faddD rm fd fs1 fs2) rm fun m => s.putD fd (b64.add m (s.natD fs1) (s.natD fs2))

/-- FSUB.D (rule R465). -/
def execFsubD (rm : BitVec 3) (fd fs1 fs2 : Reg) (s : State) : Result :=
  s.fpRounded s.fpEnabledD (.fsubD rm fd fs1 fs2) rm fun m => s.putD fd (b64.sub m (s.natD fs1) (s.natD fs2))

/-- FMUL.D (rule R457). -/
def execFmulD (rm : BitVec 3) (fd fs1 fs2 : Reg) (s : State) : Result :=
  s.fpRounded s.fpEnabledD (.fmulD rm fd fs1 fs2) rm fun m => s.putD fd (b64.mul m (s.natD fs1) (s.natD fs2))

/-- FDIV.D (rule R448). -/
def execFdivD (rm : BitVec 3) (fd fs1 fs2 : Reg) (s : State) : Result :=
  s.fpRounded s.fpEnabledD (.fdivD rm fd fs1 fs2) rm fun m => s.putD fd (b64.div m (s.natD fs1) (s.natD fs2))

/-- FSQRT.D (rule R464). -/
def execFsqrtD (rm : BitVec 3) (fd fs1 : Reg) (s : State) : Result :=
  s.fpRounded s.fpEnabledD (.fsqrtD rm fd fs1) rm fun m => s.putD fd (b64.sqrt m (s.natD fs1))

/-- FMADD.D (rule R453). -/
def execFmaddD (rm : BitVec 3) (fd fs1 fs2 fs3 : Reg) (s : State) : Result :=
  s.fpRounded s.fpEnabledD (.fmaddD rm fd fs1 fs2 fs3) rm fun m =>
    s.putD fd (b64.fused false false m (s.natD fs1) (s.natD fs2) (s.natD fs3))

/-- FMSUB.D (rule R456). -/
def execFmsubD (rm : BitVec 3) (fd fs1 fs2 fs3 : Reg) (s : State) : Result :=
  s.fpRounded s.fpEnabledD (.fmsubD rm fd fs1 fs2 fs3) rm fun m =>
    s.putD fd (b64.fused false true m (s.natD fs1) (s.natD fs2) (s.natD fs3))

/-- FNMSUB.D (rule R459). -/
def execFnmsubD (rm : BitVec 3) (fd fs1 fs2 fs3 : Reg) (s : State) : Result :=
  s.fpRounded s.fpEnabledD (.fnmsubD rm fd fs1 fs2 fs3) rm fun m =>
    s.putD fd (b64.fused true false m (s.natD fs1) (s.natD fs2) (s.natD fs3))

/-- FNMADD.D (rule R458). -/
def execFnmaddD (rm : BitVec 3) (fd fs1 fs2 fs3 : Reg) (s : State) : Result :=
  s.fpRounded s.fpEnabledD (.fnmaddD rm fd fs1 fs2 fs3) rm fun m =>
    s.putD fd (b64.fused true true m (s.natD fs1) (s.natD fs2) (s.natD fs3))

/-- FSGNJ.D (rule R461). -/
def execFsgnjD (fd fs1 fs2 : Reg) (s : State) : Result :=
  s.fp s.fpEnabledD (.fsgnjD fd fs1 fs2) (s.putD fd (exactly (b64.withSign (b64.isNeg (s.natD fs2)) (s.natD fs1))))

/-- FSGNJN.D (rule R462). -/
def execFsgnjnD (fd fs1 fs2 : Reg) (s : State) : Result :=
  s.fp s.fpEnabledD (.fsgnjnD fd fs1 fs2) (s.putD fd (exactly (b64.withSign (!b64.isNeg (s.natD fs2)) (s.natD fs1))))

/-- FSGNJX.D (rule R463). -/
def execFsgnjxD (fd fs1 fs2 : Reg) (s : State) : Result :=
  s.fp s.fpEnabledD (.fsgnjxD fd fs1 fs2) (s.putD fd (exactly (b64.withSign (b64.isNeg (s.natD fs1) != b64.isNeg (s.natD fs2)) (s.natD fs1))))

/-- FMIN.D (rule R455). -/
def execFminD (fd fs1 fs2 : Reg) (s : State) : Result :=
  s.fp s.fpEnabledD (.fminD fd fs1 fs2) (s.putD fd (b64.min (s.natD fs1) (s.natD fs2)))

/-- FMAX.D (rule R454). -/
def execFmaxD (fd fs1 fs2 : Reg) (s : State) : Result :=
  s.fp s.fpEnabledD (.fmaxD fd fs1 fs2) (s.putD fd (b64.max (s.natD fs1) (s.natD fs2)))

/-- FEQ.D (rule R449). -/
def execFeqD (rd fs1 fs2 : Reg) (s : State) : Result :=
  s.fp s.fpEnabledD (.feqD rd fs1 fs2) (s.putBool rd (b64.eq (s.natD fs1) (s.natD fs2)))

/-- FLT.D (rule R452). -/
def execFltD (rd fs1 fs2 : Reg) (s : State) : Result :=
  s.fp s.fpEnabledD (.fltD rd fs1 fs2) (s.putBool rd (b64.lt (s.natD fs1) (s.natD fs2)))

/-- FLE.D (rule R451). -/
def execFleD (rd fs1 fs2 : Reg) (s : State) : Result :=
  s.fp s.fpEnabledD (.fleD rd fs1 fs2) (s.putBool rd (b64.le (s.natD fs1) (s.natD fs2)))

/-- FCLASS.D (rule R441). -/
def execFclassD (rd fs1 : Reg) (s : State) : Result :=
  s.fp s.fpEnabledD (.fclassD rd fs1) (s.putX rd (b64.classify (s.natD fs1)) 0)

/-- FCVT.W.D (rule R446). -/
def execFcvtWD (rm : BitVec 3) (rd fs1 : Reg) (s : State) : Result :=
  s.fpRounded s.fpEnabledD (.fcvtWD rm rd fs1) rm fun m => s.putInt rd (b64.toInt minInt32 maxInt32 m (s.natD fs1))

/-- FCVT.WU.D (rule R447). -/
def execFcvtWuD (rm : BitVec 3) (rd fs1 : Reg) (s : State) : Result :=
  s.fpRounded s.fpEnabledD (.fcvtWuD rm rd fs1) rm fun m => s.putInt rd (b64.toInt 0 maxUInt32 m (s.natD fs1))

/-- FCVT.D.W (rule R443). -/
def execFcvtDW (rm : BitVec 3) (fd rs1 : Reg) (s : State) : Result :=
  s.fpRounded s.fpEnabledD (.fcvtDW rm fd rs1) rm fun m => s.putD fd (b64.ofInt m (s.readX rs1).toInt)

/-- FCVT.D.WU (rule R444). -/
def execFcvtDWu (rm : BitVec 3) (fd rs1 : Reg) (s : State) : Result :=
  s.fpRounded s.fpEnabledD (.fcvtDWu rm fd rs1) rm fun m => s.putD fd (b64.ofInt m (s.readX rs1).toNat)

/-- FCVT.D.S (rule R442). -/
def execFcvtDS (rm : BitVec 3) (fd fs1 : Reg) (s : State) : Result :=
  s.fpRounded s.fpEnabledD (.fcvtDS rm fd fs1) rm fun m => s.putD fd (b64.convert b32 m (s.natS fs1))

/-- FCVT.S.D (rule R445). -/
def execFcvtSD (rm : BitVec 3) (fd fs1 : Reg) (s : State) : Result :=
  s.fpRounded s.fpEnabledD (.fcvtSD rm fd fs1) rm fun m => s.putS fd (b32.convert b64 m (s.natD fs1))

/-- FLD (rule R450). -/
def execFld (fd rs1 : Reg) (imm : BitVec 12) (s : State) : Result :=
  s.fp s.fpEnabledD (.fld fd rs1 imm)
    (s.load (.float fd) (s.address rs1 imm) 8 (fun v => v) 4)

/-- FSD (rule R460). -/
def execFsd (fs2 rs1 : Reg) (imm : BitVec 12) (s : State) : Result :=
  s.fp s.fpEnabledD (.fsd fs2 rs1 imm)
    (s.store (s.address rs1 imm) 8 (s.readF fs2) 4)

end Sys2Proof.Machine
end

