-- ==== Sys2Proof/Machine/FloatS.lean ====
section
/-! DEFINITION. RV32F (rules R390 to R415). -/

namespace Sys2Proof.Machine

/-- FADD.S (rule R390). -/
def execFaddS (rm : BitVec 3) (fd fs1 fs2 : Reg) (s : State) : Result :=
  s.fpRounded s.fpEnabled (.faddS rm fd fs1 fs2) rm fun m => s.putS fd (b32.add m (s.natS fs1) (s.natS fs2))

/-- FSUB.S (rule R414). -/
def execFsubS (rm : BitVec 3) (fd fs1 fs2 : Reg) (s : State) : Result :=
  s.fpRounded s.fpEnabled (.fsubS rm fd fs1 fs2) rm fun m => s.putS fd (b32.sub m (s.natS fs1) (s.natS fs2))

/-- FMUL.S (rule R405). -/
def execFmulS (rm : BitVec 3) (fd fs1 fs2 : Reg) (s : State) : Result :=
  s.fpRounded s.fpEnabled (.fmulS rm fd fs1 fs2) rm fun m => s.putS fd (b32.mul m (s.natS fs1) (s.natS fs2))

/-- FDIV.S (rule R396). -/
def execFdivS (rm : BitVec 3) (fd fs1 fs2 : Reg) (s : State) : Result :=
  s.fpRounded s.fpEnabled (.fdivS rm fd fs1 fs2) rm fun m => s.putS fd (b32.div m (s.natS fs1) (s.natS fs2))

/-- FSQRT.S (rule R413). -/
def execFsqrtS (rm : BitVec 3) (fd fs1 : Reg) (s : State) : Result :=
  s.fpRounded s.fpEnabled (.fsqrtS rm fd fs1) rm fun m => s.putS fd (b32.sqrt m (s.natS fs1))

/-- FMADD.S (rule R401). -/
def execFmaddS (rm : BitVec 3) (fd fs1 fs2 fs3 : Reg) (s : State) : Result :=
  s.fpRounded s.fpEnabled (.fmaddS rm fd fs1 fs2 fs3) rm fun m =>
    s.putS fd (b32.fused false false m (s.natS fs1) (s.natS fs2) (s.natS fs3))

/-- FMSUB.S (rule R404). -/
def execFmsubS (rm : BitVec 3) (fd fs1 fs2 fs3 : Reg) (s : State) : Result :=
  s.fpRounded s.fpEnabled (.fmsubS rm fd fs1 fs2 fs3) rm fun m =>
    s.putS fd (b32.fused false true m (s.natS fs1) (s.natS fs2) (s.natS fs3))

/-- FNMSUB.S (rule R409). -/
def execFnmsubS (rm : BitVec 3) (fd fs1 fs2 fs3 : Reg) (s : State) : Result :=
  s.fpRounded s.fpEnabled (.fnmsubS rm fd fs1 fs2 fs3) rm fun m =>
    s.putS fd (b32.fused true false m (s.natS fs1) (s.natS fs2) (s.natS fs3))

/-- FNMADD.S (rule R408). -/
def execFnmaddS (rm : BitVec 3) (fd fs1 fs2 fs3 : Reg) (s : State) : Result :=
  s.fpRounded s.fpEnabled (.fnmaddS rm fd fs1 fs2 fs3) rm fun m =>
    s.putS fd (b32.fused true true m (s.natS fs1) (s.natS fs2) (s.natS fs3))

/-- FSGNJ.S (rule R410). -/
def execFsgnjS (fd fs1 fs2 : Reg) (s : State) : Result :=
  s.fp s.fpEnabled (.fsgnjS fd fs1 fs2) (s.putS fd (exactly (b32.withSign (b32.isNeg (s.natS fs2)) (s.natS fs1))))

/-- FSGNJN.S (rule R411). -/
def execFsgnjnS (fd fs1 fs2 : Reg) (s : State) : Result :=
  s.fp s.fpEnabled (.fsgnjnS fd fs1 fs2) (s.putS fd (exactly (b32.withSign (!b32.isNeg (s.natS fs2)) (s.natS fs1))))

/-- FSGNJX.S (rule R412). -/
def execFsgnjxS (fd fs1 fs2 : Reg) (s : State) : Result :=
  s.fp s.fpEnabled (.fsgnjxS fd fs1 fs2) (s.putS fd (exactly (b32.withSign (b32.isNeg (s.natS fs1) != b32.isNeg (s.natS fs2)) (s.natS fs1))))

/-- FMIN.S (rule R403). -/
def execFminS (fd fs1 fs2 : Reg) (s : State) : Result :=
  s.fp s.fpEnabled (.fminS fd fs1 fs2) (s.putS fd (b32.min (s.natS fs1) (s.natS fs2)))

/-- FMAX.S (rule R402). -/
def execFmaxS (fd fs1 fs2 : Reg) (s : State) : Result :=
  s.fp s.fpEnabled (.fmaxS fd fs1 fs2) (s.putS fd (b32.max (s.natS fs1) (s.natS fs2)))

/-- FEQ.S (rule R397). -/
def execFeqS (rd fs1 fs2 : Reg) (s : State) : Result :=
  s.fp s.fpEnabled (.feqS rd fs1 fs2) (s.putBool rd (b32.eq (s.natS fs1) (s.natS fs2)))

/-- FLT.S (rule R399). -/
def execFltS (rd fs1 fs2 : Reg) (s : State) : Result :=
  s.fp s.fpEnabled (.fltS rd fs1 fs2) (s.putBool rd (b32.lt (s.natS fs1) (s.natS fs2)))

/-- FLE.S (rule R398). -/
def execFleS (rd fs1 fs2 : Reg) (s : State) : Result :=
  s.fp s.fpEnabled (.fleS rd fs1 fs2) (s.putBool rd (b32.le (s.natS fs1) (s.natS fs2)))

/-- FCLASS.S (rule R391). -/
def execFclassS (rd fs1 : Reg) (s : State) : Result :=
  s.fp s.fpEnabled (.fclassS rd fs1) (s.putX rd (b32.classify (s.natS fs1)) 0)

/-- FCVT.W.S (rule R394). -/
def execFcvtWS (rm : BitVec 3) (rd fs1 : Reg) (s : State) : Result :=
  s.fpRounded s.fpEnabled (.fcvtWS rm rd fs1) rm fun m => s.putInt rd (b32.toInt minInt32 maxInt32 m (s.natS fs1))

/-- FCVT.WU.S (rule R395). -/
def execFcvtWuS (rm : BitVec 3) (rd fs1 : Reg) (s : State) : Result :=
  s.fpRounded s.fpEnabled (.fcvtWuS rm rd fs1) rm fun m => s.putInt rd (b32.toInt 0 maxUInt32 m (s.natS fs1))

/-- FCVT.S.W (rule R392). -/
def execFcvtSW (rm : BitVec 3) (fd rs1 : Reg) (s : State) : Result :=
  s.fpRounded s.fpEnabled (.fcvtSW rm fd rs1) rm fun m => s.putS fd (b32.ofInt m (s.readX rs1).toInt)

/-- FCVT.S.WU (rule R393). -/
def execFcvtSWu (rm : BitVec 3) (fd rs1 : Reg) (s : State) : Result :=
  s.fpRounded s.fpEnabled (.fcvtSWu rm fd rs1) rm fun m => s.putS fd (b32.ofInt m (s.readX rs1).toNat)

/-- FMV.W.X (rule R406). -/
def execFmvWX (fd rs1 : Reg) (s : State) : Result :=
  s.fp s.fpEnabled (.fmvWX fd rs1) (.next ((s.writeS fd (s.readX rs1)).advance 4))

/-- FMV.X.W: raw bits, no box check (rule R407). -/
def execFmvXW (rd fs1 : Reg) (s : State) : Result :=
  s.fp s.fpEnabled (.fmvXW rd fs1) (s.putX rd ((s.readF fs1).setWidth 32) 0)

/-- FLW (rule R400). -/
def execFlw (fd rs1 : Reg) (imm : BitVec 12) (s : State) : Result :=
  s.fp s.fpEnabled (.flw fd rs1 imm)
    (s.load (.float fd) (s.address rs1 imm) 4 (fun v => boxed s.params (v.setWidth 32)) 4)

/-- FSW (rule R415). -/
def execFsw (fs2 rs1 : Reg) (imm : BitVec 12) (s : State) : Result :=
  s.fp s.fpEnabled (.fsw fs2 rs1 imm)
    (s.store (s.address rs1 imm) 4 (s.readF fs2) 4)

end Sys2Proof.Machine
end

