-- ==== Sys2Proof/Machine/MulDiv.lean ====
section
/-! DEFINITION. RV32M (rules R330 to R337). -/

namespace Sys2Proof.Machine

/-- The high word of a 64-bit product (rules R331 to R333). -/
def mulHigh (v w : Dword) : Word := (v * w).extractLsb' 32 32

/-- Signed division toward zero; by zero all ones, on overflow the dividend (rule R334). -/
def divSigned (v w : Word) : Word :=
  if w = 0 then 0xFFFFFFFF
  else if v = 0x80000000 ∧ w = 0xFFFFFFFF then 0x80000000
  else BitVec.ofInt 32 (v.toInt.tdiv w.toInt)

/-- Unsigned division; by zero all ones (rule R335). -/
def divUnsigned (v w : Word) : Word := if w = 0 then 0xFFFFFFFF else BitVec.ofNat 32 (v.toNat / w.toNat)

/-- Signed remainder with the sign of the dividend; by zero the dividend, on overflow 0 (rule R336). -/
def remSigned (v w : Word) : Word :=
  if w = 0 then v
  else if v = 0x80000000 ∧ w = 0xFFFFFFFF then 0
  else BitVec.ofInt 32 (v.toInt.tmod w.toInt)

/-- Unsigned remainder; by zero the dividend (rule R337). -/
def remUnsigned (v w : Word) : Word := if w = 0 then v else BitVec.ofNat 32 (v.toNat % w.toNat)

/-- MUL (rule R330). -/
def execMul (rd rs1 rs2 : Reg) (s : State) : Result :=
  s.writeRd rd (s.readX rs1 * s.readX rs2) 4

/-- MULH (rule R331). -/
def execMulh (rd rs1 rs2 : Reg) (s : State) : Result :=
  s.writeRd rd (mulHigh ((s.readX rs1).signExtend 64) ((s.readX rs2).signExtend 64)) 4

/-- MULHSU (rule R332). -/
def execMulhsu (rd rs1 rs2 : Reg) (s : State) : Result :=
  s.writeRd rd (mulHigh ((s.readX rs1).signExtend 64) ((s.readX rs2).setWidth 64)) 4

/-- MULHU (rule R333). -/
def execMulhu (rd rs1 rs2 : Reg) (s : State) : Result :=
  s.writeRd rd (mulHigh ((s.readX rs1).setWidth 64) ((s.readX rs2).setWidth 64)) 4

/-- DIV (rule R334). -/
def execDiv (rd rs1 rs2 : Reg) (s : State) : Result :=
  s.writeRd rd (divSigned (s.readX rs1) (s.readX rs2)) 4

/-- DIVU (rule R335). -/
def execDivu (rd rs1 rs2 : Reg) (s : State) : Result :=
  s.writeRd rd (divUnsigned (s.readX rs1) (s.readX rs2)) 4

/-- REM (rule R336). -/
def execRem (rd rs1 rs2 : Reg) (s : State) : Result :=
  s.writeRd rd (remSigned (s.readX rs1) (s.readX rs2)) 4

/-- REMU (rule R337). -/
def execRemu (rd rs1 rs2 : Reg) (s : State) : Result :=
  s.writeRd rd (remUnsigned (s.readX rs1) (s.readX rs2)) 4

end Sys2Proof.Machine
end

