-- ==== Sys2Proof/Machine/Csr.lean ====
section
/-! DEFINITION. The control and status registers: addresses and access rights (rules R30, R31), what each reads and what
a write changes (rules R32 to R75). -/

namespace Sys2Proof.Machine

open Sys2Proof.Config

/-- The control and status registers (rule R30). -/
inductive Csr where
  | fflags | frm | fcsr | fxcr
  | mstatus | misa | mie | mtvec | mcounteren | mtvt | mcountinhibit
  | mscratch | mepc | mcause | mtval | mip | mnxti | mintstatus | mscratchcsw | mscratchcswl | mclicbase
  | mxstatus | mhcr | mhint | mraddr | mexstatus | mnmicause | mnmipc
  | mcycle | minstret | mcycleh | minstreth
  | cycle | time | instret | cycleh | timeh | instreth
  | mvendorid | marchid | mimpid | mhartid | mcpuid
  | pmpcfg (k : Nat)
  | pmpaddr (i : Nat)
  | mhpmevent (n : Nat)
  | mhpmcounter (n : Nat)
  | mhpmcounterh (n : Nat)
  | hpmcounter (n : Nat)
  | hpmcounterh (n : Nat)
  deriving DecidableEq, Repr

/-- The registers with one address each (rule R30). -/
def csrTable : List (Nat × Csr) :=
  [(0x001, .fflags), (0x002, .frm), (0x003, .fcsr), (0x800, .fxcr),
   (0x300, .mstatus), (0x301, .misa), (0x304, .mie), (0x305, .mtvec), (0x306, .mcounteren), (0x307, .mtvt),
   (0x320, .mcountinhibit), (0x340, .mscratch), (0x341, .mepc), (0x342, .mcause), (0x343, .mtval), (0x344, .mip),
   (0x345, .mnxti), (0x346, .mintstatus), (0x348, .mscratchcsw), (0x349, .mscratchcswl), (0x350, .mclicbase),
   (0x7C0, .mxstatus), (0x7C1, .mhcr), (0x7C5, .mhint), (0x7E0, .mraddr), (0x7E1, .mexstatus), (0x7E2, .mnmicause),
   (0x7E3, .mnmipc), (0xB00, .mcycle), (0xB02, .minstret), (0xB80, .mcycleh), (0xB82, .minstreth), (0xC00, .cycle),
   (0xC01, .time), (0xC02, .instret), (0xC80, .cycleh), (0xC81, .timeh), (0xC82, .instreth), (0xF11, .mvendorid),
   (0xF12, .marchid), (0xF13, .mimpid), (0xF14, .mhartid), (0xFC0, .mcpuid)]

/-- The ranges of registers: first address, first number, count (rule R30). -/
def csrRanges : List (Nat × Nat × Nat × (Nat → Csr)) :=
  [(0x3A0, 0, 4, .pmpcfg), (0x3B0, 0, 16, .pmpaddr), (0x323, 3, 15, .mhpmevent), (0xB03, 3, 15, .mhpmcounter),
   (0xB83, 3, 15, .mhpmcounterh), (0xC03, 3, 15, .hpmcounter), (0xC83, 3, 15, .hpmcounterh)]

/-- The register at an address (rule R30). -/
def csrAt (a : BitVec 12) : Option Csr :=
  match csrTable.lookup a.toNat with
  | some c => some c
  | none =>
    (csrRanges.find? fun (lo, _, n, _) => decide (lo ≤ a.toNat) && decide (a.toNat < lo + n)).map fun (lo, k, _, mk) =>
      mk (k + (a.toNat - lo))

/-- Access rights (rule R14). -/
inductive Right where
  | mrw
  | mro
  | urw
  | uro
  deriving DecidableEq, Repr

/-- The access right of a register (rule R30; FXCR: C11). -/
def Csr.right : Csr → Right
  | .fflags | .frm | .fcsr | .fxcr => .urw
  | .cycle | .time | .instret | .cycleh | .timeh | .instreth => .uro
  | .hpmcounter _ | .hpmcounterh _ => .uro
  | .mintstatus | .mclicbase | .mraddr | .mvendorid | .marchid | .mimpid | .mhartid | .mcpuid => .mro
  | _ => .mrw

/-- The registers that need an enabled floating-point unit (rule R31 e). -/
def Csr.isFp : Csr → Bool
  | .fflags | .frm | .fcsr | .fxcr => true
  | _ => false

/-- The MCOUNTEREN bit that opens a user image to U mode (rules R31 d, R56). -/
def Csr.counterBit : Csr → Nat
  | .cycle | .cycleh => 0
  | .time | .timeh => 1
  | .instret | .instreth => 2
  | .hpmcounter n | .hpmcounterh n => n
  | _ => 0

/-- The access checks of rule R31 pass. -/
def State.csrAllowed (s : State) (c : Csr) (write : Bool) : Bool :=
  (match c.right with
   | .mrw => s.priv == .machine
   | .mro => s.priv == .machine && !write
   | .urw => true
   | .uro => !write && (s.priv == .machine || s.mcounteren.getLsbD c.counterBit)) &&
  (!c.isFp || s.fpEnabled)

/-! ## Fields -/

/-- A field shifted to its place. -/
def place {n : Nat} (v : BitVec n) (at' : Nat) : Word := v.setWidth 32 <<< at'

/-- A one-bit field shifted to its place. -/
def placeBit (b : Bool) (at' : Nat) : Word := place (BitVec.ofBool b) at'

/-- The encoding of a privilege mode in PM and MPP (rule R620). -/
def Priv.bits : Priv → BitVec 2
  | .user => 0b00
  | .machine => 0b11

/-- MPP after a write: 01 and 10 leave it unchanged (rule R36, D13). -/
def Priv.write (old : Priv) (v : BitVec 2) : Priv :=
  match v.toNat with
  | 0 => .user
  | 3 => .machine
  | _ => old

/-- The bits of MCOUNTEREN that exist (rule R56). -/
def counterenMask : Word := 0x0003E31F

/-- The bits of MCOUNTINHIBIT that exist (rule R57). -/
def countinhibitMask : Word := 0x0003E31D

/-- MISA (rule R39). -/
def misaValue : Word := 0x40901105

/-- MCLICBASE (rule R46). -/
def mclicbaseValue : Word := 0xE0800000

/-! ## Reading -/

/-- MSTATUS; XS is 0 and SD is set exactly when FS = 11 (rule R36). -/
def State.readMstatus (s : State) : Word :=
  placeBit s.mstatus.mie 3 ||| placeBit s.mstatus.mpie 7 ||| place s.mstatus.mpp.bits 11 ||| place s.mstatus.fs 13 |||
    placeBit s.mstatus.mprv 17 ||| placeBit (s.mstatus.fs == 3) 31

/-- MCAUSE, with MPP and MPIE of MSTATUS (rule R48). -/
def State.readMcause (s : State) : Word :=
  placeBit s.mcause.interrupt 31 ||| placeBit s.mcause.minhv 30 ||| place s.mstatus.mpp.bits 28 |||
    placeBit s.mstatus.mpie 27 ||| place s.mcause.mpil 16 ||| place s.mcause.code 0

/-- MNMICAUSE (rule R69). -/
def State.readMnmicause (s : State) : Word :=
  placeBit s.mnmicause.intr 31 ||| place s.mnmicause.mpp.bits 28 ||| placeBit s.mnmicause.mpie 27 |||
    place s.mnmicause.vector 0

/-- MXSTATUS under the layout of the parameters (rule R64). -/
def State.readMxstatus (s : State) : Word :=
  let l := s.params.mxstatus
  place s.priv.bits l.pm ||| placeBit s.mxstatus.thead l.thead ||| placeBit s.mxstatus.mm l.mm |||
    placeBit s.mxstatus.pmdm l.pmdm ||| placeBit s.mxstatus.pmdu l.pmdu

/-- MEXSTATUS under the layout of the parameters (rule R68). -/
def State.readMexstatus (s : State) : Word :=
  let l := s.params.mexstatus
  place s.mexstatus.lpmd l.lpmd ||| placeBit s.mexstatus.wfe l.wfe ||| placeBit s.mexstatus.exptVld l.exptVld |||
    placeBit s.mexstatus.lockup l.lockup ||| placeBit s.mexstatus.nmi l.nmi ||| placeBit s.mexstatus.buserr l.buserr

/-- MHCR (rule R65). -/
def State.readMhcr (s : State) : Word :=
  placeBit s.mhcr.btb 12 ||| placeBit s.mhcr.bpe 5 ||| placeBit s.mhcr.rs 4 ||| placeBit s.mhcr.wa 3 |||
    placeBit s.mhcr.wb 2 ||| placeBit s.mhcr.de 1 ||| placeBit s.mhcr.ie 0

/-- The counter record of a number (rules R58, R61). -/
def State.findHpm (s : State) (n : Nat) : Option Hpm := s.hpm.find? (·.index == n)

/-- An event counter; 0 where no event exists (D24). -/
def State.hpmCount (s : State) (n : Nat) : Dword := ((s.findHpm n).map Hpm.count).getD 0

/-- The value a register reads (rules R32 to R75). MNXTI and the MSCRATCHCSW views are read by their own operations. -/
def State.readCsr (s : State) : Csr → Word
  | .fflags => place s.fcsr.flags 0
  | .frm => place s.fcsr.frm 0
  | .fcsr => place s.fcsr.flags 0 ||| place s.fcsr.frm 5
  | .fxcr => place s.fcsr.flags 0
  | .mstatus => s.readMstatus
  | .misa => misaValue
  | .mie => 0
  | .mtvec => s.mtvecBase ++ (0b11 : BitVec 2)
  | .mcounteren => s.mcounteren
  | .mtvt => s.mtvt
  | .mcountinhibit => s.mcountinhibit
  | .mscratch => s.mscratch
  | .mepc => s.mepc
  | .mcause => s.readMcause
  | .mtval => s.mtval
  | .mip => 0
  | .mnxti => 0
  | .mintstatus => place s.mil 24
  | .mscratchcsw => s.mscratch
  | .mscratchcswl => s.mscratch
  | .mclicbase => mclicbaseValue
  | .mxstatus => s.readMxstatus
  | .mhcr => s.readMhcr
  | .mhint => placeBit s.aee s.params.mhintAee
  | .mraddr => s.params.resetPc
  | .mexstatus => s.readMexstatus
  | .mnmicause => s.readMnmicause
  | .mnmipc => s.mnmipc
  | .mcycle | .cycle => s.mcycle.setWidth 32
  | .mcycleh | .cycleh => s.mcycle.extractLsb' 32 32
  | .minstret | .instret => s.minstret.setWidth 32
  | .minstreth | .instreth => s.minstret.extractLsb' 32 32
  | .time => s.mtime.setWidth 32
  | .timeh => s.mtime.extractLsb' 32 32
  | .mvendorid => 0
  | .marchid => 0
  | .mimpid => 0
  | .mhartid => 0
  | .mcpuid => s.params.mcpuid
  | .pmpcfg k => s.readPmpCfg k
  | .pmpaddr i => s.readPmpAddr i
  | .mhpmevent n => ((s.findHpm n).map fun h => place h.event 0).getD 0
  | .mhpmcounter n | .hpmcounter n => (s.hpmCount n).setWidth 32
  | .mhpmcounterh n | .hpmcounterh n => (s.hpmCount n).extractLsb' 32 32

/-! ## Writing -/

/-- The low half of a 64-bit counter is replaced. -/
def withLow (d : Dword) (v : Word) : Dword := d.extractLsb' 32 32 ++ v

/-- The high half of a 64-bit counter is replaced. -/
def withHigh (d : Dword) (v : Word) : Dword := v ++ d.extractLsb' 0 32

/-- MSTATUS (rule R36): FS is tied to 00 without a floating-point unit (rule R37); XS, SD and reserved bits ignore it. -/
def State.writeMstatus (s : State) (v : Word) : State :=
  { s with mstatus :=
      { mie := v.getLsbD 3, mpie := v.getLsbD 7, mpp := s.mstatus.mpp.write (v.extractLsb' 11 2),
        fs := if s.params.fpu = .none then s.mstatus.fs else v.extractLsb' 13 2, mprv := v.getLsbD 17 } }

/-- MCAUSE: all named fields, MPP and MPIE reaching MSTATUS (rule R48). -/
def State.writeMcause (s : State) (v : Word) : State :=
  { s with
    mcause := { interrupt := v.getLsbD 31, minhv := v.getLsbD 30, mpil := v.extractLsb' 16 8, code := v.extractLsb' 0 12 }
    mstatus := { s.mstatus with mpp := s.mstatus.mpp.write (v.extractLsb' 28 2), mpie := v.getLsbD 27 } }

/-- MNMICAUSE; an MPP value that names no mode leaves MPP unchanged (rule R69, log 32). -/
def State.writeMnmicause (s : State) (v : Word) : State :=
  { s with mnmicause :=
      { intr := v.getLsbD 31, mpp := s.mnmicause.mpp.write (v.extractLsb' 28 2), mpie := v.getLsbD 27,
        vector := v.extractLsb' 0 12 } }

/-- MXSTATUS; a write that would change PM is refused (rule R64, U9). -/
def State.writeMxstatus (s : State) (v : Word) : Except Refusal State :=
  let l := s.params.mxstatus
  if v.extractLsb' l.pm 2 ≠ s.priv.bits then .error .mxstatusPmWrite
  else .ok { s with mxstatus :=
      { thead := v.getLsbD l.thead, mm := v.getLsbD l.mm, pmdm := v.getLsbD l.pmdm, pmdu := v.getLsbD l.pmdu } }

/-- MEXSTATUS: all named fields (rule R68, log 31). -/
def State.writeMexstatus (s : State) (v : Word) : State :=
  let l := s.params.mexstatus
  { s with mexstatus :=
      { lpmd := v.extractLsb' l.lpmd 2, wfe := v.getLsbD l.wfe, exptVld := v.getLsbD l.exptVld,
        lockup := v.getLsbD l.lockup, nmi := v.getLsbD l.nmi, buserr := v.getLsbD l.buserr } }

/-- MHCR after a write (rule R65). -/
def mhcrOf (v : Word) : Mhcr :=
  { btb := v.getLsbD 12, bpe := v.getLsbD 5, rs := v.getLsbD 4, wa := v.getLsbD 3, wb := v.getLsbD 2, de := v.getLsbD 1,
    ie := v.getLsbD 0 }

/-- MHCR; clearing DE or changing WB or WA while the data cache holds dirty lines is refused (rule R184, U5). A data cache
that is switched off keeps its clean lines (log 24). -/
def State.writeMhcr (s : State) (v : Word) : Except Refusal State :=
  let n := mhcrOf v
  if !s.dirty.isEmpty && ((s.mhcr.de && !n.de) || n.wb != s.mhcr.wb || n.wa != s.mhcr.wa) then
    .error .cacheModeWithCacheLines
  else .ok { s with mhcr := n, kept := if s.mhcr.de && !n.de then s.keepLines else s.kept }

/-- The records of one counter number are changed. -/
def State.mapHpm (s : State) (n : Nat) (g : Hpm → Hpm) : State :=
  { s with hpm := s.hpm.map fun h => if h.index = n then g h else h }

/-- A write of a register (rules R36 to R75); reserved bits and read-only fields ignore it (D7). -/
def State.writeCsr (s : State) (v : Word) : Csr → Except Refusal State
  | .fflags | .fxcr => .ok { s with fcsr := { s.fcsr with flags := v.setWidth 5 } }.fsDirty
  | .frm => .ok { s with fcsr := { s.fcsr with frm := v.setWidth 3 } }.fsDirty
  | .fcsr => .ok { s with fcsr := { flags := v.setWidth 5, frm := v.extractLsb' 5 3 } }.fsDirty
  | .mstatus => .ok (s.writeMstatus v)
  | .mtvec => .ok { s with mtvecBase := v.extractLsb' 2 30 }
  | .mcounteren => .ok { s with mcounteren := v &&& counterenMask }
  | .mtvt => .ok { s with mtvtBase := v.extractLsb' 6 26 }
  | .mcountinhibit => .ok { s with mcountinhibit := v &&& countinhibitMask }
  | .mscratch => .ok { s with mscratch := v }
  | .mepc => .ok { s with mepc := evenTarget v }
  | .mcause => .ok (s.writeMcause v)
  | .mtval => .ok { s with mtval := v }
  | .mxstatus => s.writeMxstatus v
  | .mhcr => s.writeMhcr v
  | .mhint => .ok { s with aee := v.getLsbD s.params.mhintAee }
  | .mexstatus => .ok (s.writeMexstatus v)
  | .mnmicause => .ok (s.writeMnmicause v)
  | .mnmipc => .ok { s with mnmipc := evenTarget v }
  | .mcycle => .ok { s with mcycle := withLow s.mcycle v }
  | .mcycleh => .ok { s with mcycle := withHigh s.mcycle v }
  | .minstret => .ok { s with minstret := withLow s.minstret v }
  | .minstreth => .ok { s with minstret := withHigh s.minstret v }
  | .pmpcfg k => .ok (s.writePmpCfg k v)
  | .pmpaddr i => .ok (s.writePmpAddr i v)
  | .mhpmevent n => .ok (s.mapHpm n fun h => { h with event := v.setWidth 5 })
  | .mhpmcounter n => .ok (s.mapHpm n fun h => { h with count := withLow h.count v, ready := true })
  | .mhpmcounterh n => .ok (s.mapHpm n fun h => { h with count := withHigh h.count v, ready := true })
  | .misa | .mie | .mip | .mintstatus | .mclicbase | .mraddr | .mvendorid | .marchid | .mimpid | .mhartid | .mcpuid => .ok s
  | .mnxti | .mscratchcsw | .mscratchcswl => .ok s
  | .cycle | .time | .instret | .cycleh | .timeh | .instreth => .ok s
  | .hpmcounter _ | .hpmcounterh _ => .ok s

/-! ## The CSR instructions (rule R299) -/

/-- The six forms: replace, set bits, clear bits, from a register or an immediate. -/
inductive CsrOp where
  | write
  | set
  | clear
  deriving DecidableEq, Repr

/-- The new value of the register (rules R300 to R305). -/
def CsrOp.apply : CsrOp → Word → Word → Word
  | .write, _, v => v
  | .set, t, v => t ||| v
  | .clear, t, v => t &&& ~~~v

/-- MINSTRET at the end of a CSR instruction executed in state `s` that leaves `t`: counted as in `s`, but free after a
write to itself (rule R60, U12). -/
def State.csrRetired (s t : State) (c : Csr) (write : Bool) : Dword :=
  if s.counting 2 && (!(write && (c == .minstret || c == .minstreth)) || writeCounts s.freeCtr) then t.minstret + 1
  else t.minstret

/-- The CSR instruction that was executed in state `s` retires. -/
def State.csrDone (s t : State) (c : Csr) (write : Bool) (rd : Reg) (old : Word) : Result :=
  .next { t.setX rd old with pc := s.pc + 4, minstret := s.csrRetired t c write }

/-- The swap views of MSCRATCH (rules R44, R45): the register and MSCRATCH are exchanged, or the register is copied. -/
def State.swapScratch (s : State) (c : Csr) (swap : Bool) (rd : Reg) (v : Word) : Result :=
  if swap then s.csrDone { s with mscratch := v } c true rd s.mscratch else s.csrDone s c true rd v

/-- The interrupt that an access to MNXTI returns (rule R49). -/
def State.nextInterrupt (s : State) : Option Presented :=
  s.presented.filter fun c => decide (s.mcause.mpil < c.level) && !c.shv

/-- MNXTI: the claimed interrupt becomes the running one, then the write data goes to MSTATUS (rule R49, D18). The pending bit
of an edge-triggered interrupt is cleared; `clearPending` leaves a level one alone. -/
def State.accessMnxti (s : State) (op : CsrOp) (rd : Reg) (v : Word) : Result :=
  let done (t : State) (old : Word) : Result :=
    s.csrDone (t.writeMstatus (op.apply t.readMstatus v)) .mnxti true rd old
  match s.nextInterrupt with
  | some c =>
    done ({ s with mil := c.level,
                   mcause := { s.mcause with code := BitVec.ofNat 12 c.id, interrupt := true } }.clearPending c.id)
      (s.mtvt + BitVec.ofNat 32 (4 * c.id))
  | none => done s 0

/-- An ordinary register: read, and write when the instruction writes (rule R299). -/
def State.accessPlain (s : State) (c : Csr) (op : CsrOp) (write : Bool) (rd : Reg) (v : Word) : Result :=
  let old := s.readCsr c
  if write then
    match s.writeCsr (op.apply old v) c with
    | .ok t => s.csrDone t c true rd old
    | .error r => .refused r
  else s.csrDone s c false rd old

/-- One CSR instruction: `write` says whether it writes, `immediate` whether it is one of the immediate forms, `v` its
operand (rules R299 to R305). -/
def State.csrInstr (s : State) (i : Instr) (a : BitVec 12) (op : CsrOp) (write immediate : Bool) (rd : Reg) (v : Word) :
    Result :=
  match csrAt a with
  | none => s.illegal i
  | some c =>
    if !s.csrAllowed c write then s.illegal i
    else match c with
      | .mnxti => if immediate && op != .write then s.accessMnxti op rd v else .refused .mnxtiForm
      | .mscratchcsw =>
        if !immediate && op == .write then s.swapScratch c (s.mstatus.mpp != .machine) rd v else .refused .mscratchcswForm
      | .mscratchcswl =>
        if !immediate && op == .write then s.swapScratch c ((s.mcause.mpil == 0) != (s.mil == 0)) rd v
        else .refused .mscratchcswForm
      | c => s.accessPlain c op write rd v

end Sys2Proof.Machine
end

