-- ==== Sys2Proof/Machine/System.lean ====
section
/-! DEFINITION. CSR and system instructions (rules R299 to R311). -/

namespace Sys2Proof.Machine

/-- CSRRW (rule R300). -/
def execCsrrw (rd rs1 : Reg) (csr : BitVec 12) (s : State) : Result :=
  s.csrInstr (.csrrw rd rs1 csr) csr .write true false rd (s.readX rs1)

/-- CSRRS (rule R301). -/
def execCsrrs (rd rs1 : Reg) (csr : BitVec 12) (s : State) : Result :=
  s.csrInstr (.csrrs rd rs1 csr) csr .set (rs1 != 0) false rd (s.readX rs1)

/-- CSRRC (rule R302). -/
def execCsrrc (rd rs1 : Reg) (csr : BitVec 12) (s : State) : Result :=
  s.csrInstr (.csrrc rd rs1 csr) csr .clear (rs1 != 0) false rd (s.readX rs1)

/-- CSRRWI (rule R303). -/
def execCsrrwi (rd : Reg) (uimm : BitVec 5) (csr : BitVec 12) (s : State) : Result :=
  s.csrInstr (.csrrwi rd uimm csr) csr .write true true rd (uimm.setWidth 32)

/-- CSRRSI (rule R304). -/
def execCsrrsi (rd : Reg) (uimm : BitVec 5) (csr : BitVec 12) (s : State) : Result :=
  s.csrInstr (.csrrsi rd uimm csr) csr .set (uimm != 0) true rd (uimm.setWidth 32)

/-- CSRRCI (rule R305). -/
def execCsrrci (rd : Reg) (uimm : BitVec 5) (csr : BitVec 12) (s : State) : Result :=
  s.csrInstr (.csrrci rd uimm csr) csr .clear (uimm != 0) true rd (uimm.setWidth 32)

/-- WFI: retires and sleeps, unless a wake-up condition holds as it executes; illegal in user mode (rules R306, R720; log 40).
-/
def execWfi (s : State) : Result :=
  if s.priv = .machine then .next { s.advance 4 with asleep := !s.wakes } else s.illegal .wfi

/-- MRET: returns from an exception, an interrupt or an NMI; illegal in user mode (rules R307, R580, R603). -/
def execMret (s : State) : Result :=
  if s.priv = .machine then
    let t := if s.returnsFromNmi then s.nmiReturn else s.trapReturn
    .next { t with minstret := s.retired }
  else s.illegal .mret

/-- ECALL (rule R310). -/
def execEcall (s : State) : Result :=
  s.raise (if s.priv = .user then .ecallFromU else .ecallFromM) 0

/-- EBREAK (rule R311). -/
def execEbreak (s : State) : Result :=
  s.raise .breakpoint 0

/-- FENCE: orders accesses for other observers only (rules R174, R308; D40, D44; log 44). -/
def execFence (_rd _rs1 : Reg) (_fm _pred _succ : BitVec 4) (s : State) : Result :=
  .next (s.advance 4)

/-- FENCE.I: later fetches see all earlier stores (rules R175, R309; D44). -/
def execFenceI (_rd _rs1 : Reg) (_imm : BitVec 12) (s : State) : Result :=
  .next ({ s with stale := [] }.advance 4)

end Sys2Proof.Machine
end

