-- ==== Sys2Proof/Machine/Cycle.lean ====
section
/-! DEFINITION. One step of the hart in the order of rule R610: sample the inputs, reset, lockup, sleep, NMI, interrupt,
pending bus error, and otherwise fetch, decode and execute. -/

namespace Sys2Proof.Machine

open Sys2Proof.Config

/-! ## Sampling the environment (rules R610, R664, R685) -/

/-- The inputs of the step: the next entry of the environment; without one the pins hold (log 9). -/
def State.nextPins (s : State) : Pins := s.env.headD s.pins

/-- Clock cycles of the step: at least one while the hart runs (rules R59, R723; logs 11, 40). -/
def State.cyclesOf (s : State) : Nat :=
  extraCycles s.freeCtr + if s.asleep || s.lockedUp then 0 else 1

/-- The micro-architectural events of the step (rule R61; log 12). The branch and store counters are advanced by their
instructions. -/
def State.countMicroEvents (s : State) : State :=
  [3, 4, 8, 14, 15, 16, 17].foldl (fun t n => t.countEvent n (eventCount s.freeCtr n)) s

/-- MCYCLE advances unless it is inhibited (rules R57, R59). -/
def State.tick (s : State) : State :=
  { s with mcycle := if s.counting 0 then s.mcycle + BitVec.ofNat 64 s.cyclesOf else s.mcycle }

/-- The pins and the system counter of the step, and fresh free values (logs 8 to 10). -/
def State.takeInputs (s : State) : State :=
  { s with pins := s.nextPins, env := s.env.tail, mtime := s.mtime + s.nextPins.sysCntAdvance, freeCtr := s.freeCtr + 1 }

/-- The inputs of the step are taken, MCYCLE advances, and the pending bits follow their lines; the event counters advance
unless the hart stays asleep (rule R723). -/
def State.sample (s : State) : State :=
  let t := s.takeInputs.tick.sampleClic
  if t.asleep && !t.wakes then t else t.countMicroEvents

/-! ## Reset (rule R740) -/

/-- The reset event: the caches lose what they hold, memory and the system counter are not touched (rule R740, D71; log
41). Bus errors that still wait to be reported are dropped, which the spec does not say (log 16). -/
def State.onReset (s : State) : State :=
  { State.resetOf s.params with
    mem := (s.discardLines everyLine).mem, mtime := s.mtime, pins := s.pins, env := s.env, freeCtr := s.freeCtr }

/-! ## One boundary (rule R610) -/

/-- An NMI request is taken (rule R602). -/
def State.takesNmi (s : State) : Bool := s.pins.nmi && !s.mexstatus.nmi

/-- The interrupt that is taken at this boundary (rules R690, R610, D63; log 36). -/
def State.takenInterrupt (s : State) : Option Presented :=
  if s.pins.deferInterrupt then none else s.presented.filter s.takes

/-- The bus error that is reported at this boundary (rule R566; log 16). -/
def State.reportedBusError (s : State) : Option BusError :=
  if s.pins.deferBusError then none else s.busErrors.head?

/-- The exception of a bus error that is reported late: MEPC is the first instruction not retired, MTVAL the address (rule
R566). DESIGN CHOICE: when it locks the core up, the pc that is held is that of this boundary, the first instruction not
retired, not that of the load or store the error belongs to (rule R590 does not say; log 16). -/
def State.reportBusError (s : State) (e : BusError) : State :=
  { s with busErrors := s.busErrors.tail }.takeException
    (if e.store then .storeAccessFault else .loadAccessFault) s.pc e.addr true

/-- Bits that are no instruction: IllegalInstruction; a compressed floating-point slot is refused when a floating-point unit
is built (rules R210, R525, U10; log 42). -/
def State.undefinedCode (s : State) (c : Code) : DecodeError → Result
  | .compressedFloat h =>
    if s.params.fpu = .none then s.raise .illegalInstruction c.value else .refused (.compressedFloatSlot h)
  | _ => s.raise .illegalInstruction c.value

/-- The instruction of some bits is executed (rule R210). -/
def State.executeCode (s : State) (c : Code) : Result :=
  match decodeCode c with
  | .ok i => exec i s
  | .error e => s.undefinedCode c e

/-- Fetch at pc, decode, execute (rules R148, R210, R610). -/
def State.fetchExecute (s : State) : Result :=
  match s.fetchCode s.priv s.pc with
  | .ok c => s.executeCode c
  | .denied a => s.raise .instrAccessFault a
  | .refused r => .refused r

/-- What happens at the boundary before the instruction at pc (rules R561, R610). -/
def State.boundary (s : State) : Result :=
  if s.takesNmi then .next s.nmiEntry
  else match s.takenInterrupt with
    | some c => s.interruptEntry c
    | none =>
      match s.reportedBusError with
      | some e => .next (s.reportBusError e)
      | none => s.fetchExecute

/-- One step after the inputs have been sampled (rule R610). -/
def State.afterSample (s : State) : Result :=
  if s.pins.reset then .next s.onReset
  else if s.lockedUp then .next (if s.takesNmi then s.nmiEntry else s)
  else if s.asleep && !s.wakes then .next s
  else { s with asleep := false }.boundary

/-- One step (rule R610). -/
def State.cycle (s : State) : Result := s.sample.afterSample

/-! ## Outputs (rule R16) -/

/-- `cpu_pad_lockup`: high while the hart is locked up (rules R590, R591). -/
def State.padLockup (s : State) : Bool := s.lockedUp

/-- `sysio_pad_lpmd_b`: 00 while asleep, 11 when awake (rule R720, log 51). -/
def State.padLpmd (s : State) : BitVec 2 := if s.asleep then 0b00 else 0b11

/-! ## Placing an instruction -/

/-- The memory and the fetch overlay with one instruction word of four bytes at pc. -/
def State.placeWord (s : State) (w : Word) : State :=
  { s with
    mem := s.mem.writeLE s.pc 4 (w.setWidth 64)
    stale := s.stale.filter fun e => !(e.addr == s.pc || e.addr == s.pc + 2) }

end Sys2Proof.Machine
end

