-- ==== Sys2Proof/Machine/Step.lean ====
section
/-! DEFINITION. The step function, and how the host places an instruction. -/

namespace Sys2Proof.Machine

/-- One step of the machine (rule R610). A configuration that is not well-formed stops it (U1, log 48). -/
def step (s : State) : Host.Outcome State Fault Refusal :=
  if s.params.wf then s.cycle else .fault .illFormedParameters

/-- The state with the instruction whose bits are `w` where the next step fetches (log 45): four bytes at pc, the bits at and
above `nbits` zero. -/
def State.withFetchWord (s : State) (nbits w : Nat) : State := s.placeWord (BitVec.ofNat 32 (w % 2 ^ nbits))

end Sys2Proof.Machine
end

