-- ==== Sys2Proof/Safety.lean ====
section
/-! DEFINITION. What counts as a well-formed state and as a safe run, in the terms that statements use. -/

namespace Sys2Proof.Machine

open Sys2Proof.Config

/-! ## The invariant -/

/-- The pc and the registers that hold a pc are even (rules R23, R47, R70). -/
def State.evenAddresses (s : State) : Bool :=
  !s.pc.getLsbD 0 && !s.mepc.getLsbD 0 && !s.mnmipc.getLsbD 0

/-- The reserved bits of the counter registers read 0 (rules R56, R57). -/
def State.maskedCounters (s : State) : Bool :=
  (s.mcounteren &&& ~~~0x0003E31F) == 0 && (s.mcountinhibit &&& ~~~0x0003E31D) == 0

/-- As many PMP entries as the parameters say; bits 6:5 of every configuration byte are 0 (rule R53, D21). -/
def State.pmpShape (s : State) : Bool :=
  s.pmp.length == s.params.pmpEntries && s.pmp.all fun e => (e.cfg &&& 0x60) == 0

/-- The event counters are those of rule R701, in order. -/
def State.hpmShape (s : State) : Bool := s.hpm.map Hpm.index == hpmEvents.map Prod.fst

/-- The interrupt sources are those that exist, in order, each with its tied bits 1 (rules R677, R685). -/
def State.clicShape (s : State) : Bool :=
  s.clic.sources.map ClicSource.id == sourceIds s.params &&
    s.clic.sources.all fun c => (c.ctl ||| ctlTied s.params) == c.ctl

/-- Without a floating-point unit FS is 00 (rule R37). -/
def State.fsTied (s : State) : Bool := s.params.fpu != .none || s.mstatus.fs == 0

/-- Every line has 32 bytes, and no two are the same line or lie at one way and set (rule R180). -/
def linesShape (p : Params) (ls : List CacheLine) : Bool :=
  (ls.all fun d => d.older.length == 32) &&
    decide (ls.Pairwise fun d e => d.line ≠ e.line ∧ (d.way ≠ e.way ∨ lineSet p d.line ≠ lineSet p e.line))

/-- The dirty lines can all lie in the data cache. -/
def State.dirtyShape (s : State) : Bool := linesShape s.params s.dirty

/-- The kept lines can all lie in the data cache. -/
def State.keptShape (s : State) : Bool := linesShape s.params s.kept

/-- The invariant of the machine: memory in its canonical form, every tied or reserved part of a register as the spec says it
reads, and at most one dirty line and one kept line at each way and set of the data cache. -/
def State.Inv (s : State) : Prop :=
  s.params.wf = true ∧ s.mem.wf = true ∧ s.evenAddresses = true ∧ s.maskedCounters = true ∧ s.pmpShape = true ∧
    s.hpmShape = true ∧ s.clicShape = true ∧ s.fsTied = true ∧ s.dirtyShape = true ∧ s.keptShape = true

/-! ## What one instruction leaves

Each says what the state `t` after an instruction holds, and that everything it does not name is as in `s`. -/

/-- The general registers are as before, but `rd` holds `v`; x0 stays 0 (rule R20). -/
def State.wroteX (s t : State) (rd : Reg) (v : Word) : Prop :=
  ∀ r, t.readX r = if r = 0 then 0 else if r = rd then v else s.readX r

/-- The floating-point registers are as before, but `fd` holds `v`. -/
def State.wroteF (s t : State) (fd : Reg) (v : Dword) : Prop := ∀ r, t.readF r = if r = fd then v else s.readF r

/-- Every byte of memory reads as before. -/
def State.sameMemory (s t : State) : Prop := ∀ a, t.mem.read a = s.mem.read a

/-- The dirty lines `ds` may have been lost: each of them, as a whole, reads as before or as the next level held it; every other
byte reads as before (rule R532). -/
def State.lostLines (s t : State) (ds : List CacheLine) : Prop :=
  (∀ a : Word, (∀ d ∈ ds, d.line.toNat ≠ a.toNat / 32) → t.mem.read a.toNat = s.mem.read a.toNat) ∧
    ∀ d ∈ ds,
      (∀ i, i < 32 → t.mem.read (32 * d.line.toNat + i) = s.mem.read (32 * d.line.toNat + i)) ∨
      ∀ i, i < 32 → t.mem.read (32 * d.line.toNat + i) = d.older.getD i 0

/-- The instruction has retired: the next one is at `target`, and MINSTRET has counted unless it is stopped (rule R60). -/
def State.retiredTo (s t : State) (target : Word) : Prop :=
  t.pc = target ∧ t.minstret = if s.counting 2 then s.minstret + 1 else s.minstret

/-- An integer result: `rd` holds `v`, the next instruction is `len` bytes on, nothing else has changed. -/
def State.gaveX (s t : State) (rd : Reg) (v len : Word) : Prop :=
  s.wroteX t rd v ∧ s.retiredTo t (s.pc + len) ∧ s.sameMemory t ∧
    t = { s with x := t.x, pc := t.pc, minstret := t.minstret }

/-- A floating-point result: `fd` holds `v`, the flags `fl` are accrued, FS is 'dirty' (rules R37, R384). -/
def State.gaveF (s t : State) (fd : Reg) (v : Dword) (fl : BitVec 5) : Prop :=
  s.wroteF t fd v ∧ s.retiredTo t (s.pc + 4) ∧ s.sameMemory t ∧
    t.fcsr = { s.fcsr with flags := s.fcsr.flags ||| fl } ∧ t.mstatus = { s.mstatus with fs := 3 } ∧
    t = { s with f := t.f, fcsr := t.fcsr, mstatus := t.mstatus, pc := t.pc, minstret := t.minstret }

/-- An integer result of a floating-point instruction: the flags `fl` are accrued, and FS is 'dirty' when there is one
(D14). -/
def State.gaveXF (s t : State) (rd : Reg) (v : Word) (fl : BitVec 5) : Prop :=
  s.wroteX t rd v ∧ s.retiredTo t (s.pc + 4) ∧ s.sameMemory t ∧
    t.fcsr = { s.fcsr with flags := s.fcsr.flags ||| fl } ∧
    t.mstatus = { s.mstatus with fs := if fl = 0 then s.mstatus.fs else 3 } ∧
    t = { s with x := t.x, fcsr := t.fcsr, mstatus := t.mstatus, pc := t.pc, minstret := t.minstret }

/-- Some byte of the `n` from `a` on lies in the line. -/
def touches (a : Word) (n : Nat) (l : BitVec 27) : Prop := ∃ i, i < n ∧ (a + BitVec.ofNat 32 i).toNat / 32 = l.toNat

/-- The data cache is present and on, and holds addresses of the line (rules R170, R171, R173, R180). -/
def State.cachesLine (s : State) (l : BitVec 27) : Prop :=
  s.mhcr.de = true ∧ s.params.dcache ≠ .absent ∧
    (attrOf s.params.sysmap (BitVec.ofNat 32 (32 * l.toNat))).cacheable = true ∧
    (attrOf s.params.sysmap (BitVec.ofNat 32 (32 * l.toNat))).strongOrder = false

/-- The bytes that an access to some lines may find: memory's, but each of those lines, as a whole, may be one that the data
cache kept while it was off (rules R180, R184; log 24). Without kept lines these are memory's bytes. -/
def State.mayFind (s : State) (lines : BitVec 27 → Prop) (g : Word → Byte) : Prop :=
  ∀ l : BitVec 27, (∀ c : Word, c.toNat / 32 = l.toNat → g c = s.mem.read c.toNat) ∨
    lines l ∧ s.cachesLine l ∧
      ∃ d ∈ s.kept, d.line = l ∧ ∀ c : Word, c.toNat / 32 = l.toNat → g c = d.older.getD (c.toNat % 32) 0

/-- The bytes `a` to `a + n - 1`, little-endian. -/
def bytesOf (g : Word → Byte) (a : Word) : Nat → Nat
  | 0 => 0
  | n + 1 => (g a).toNat + 256 * bytesOf g (a + 1) n

/-- Byte `i` of the low `n` bytes of `v` stands at `a + i`; every other byte of memory is as before, or as in `g` in write-back
mode, where a kept line that the store finds becomes dirty as it is (rule R181; log 24). With the data cache off the kept lines
stay; else one that the store meets takes its bytes, unless it has left the cache or become dirty. -/
def State.wroteBytes (s t : State) (g : Word → Byte) (a : Word) (n : Nat) (v : Dword) : Prop :=
  let byte := fun c : Word => (v >>> (8 * (c - a).toNat)).setWidth 8
  (∀ c : Word, t.mem.read c.toNat =
    if (c - a).toNat < n then byte c else if s.mhcr.wb = true then g c else s.mem.read c.toNat) ∧
  (s.mhcr.de = false → t.kept = s.kept) ∧ (s.mhcr.de = false ∨ s.mhcr.wb = false → t.dirty = s.dirty) ∧
  (∀ e ∈ s.kept, ¬ touches a n e.line → e ∈ t.kept) ∧ (∀ d ∈ t.dirty, d ∈ s.dirty ∨ touches a n d.line) ∧
  ∀ d ∈ t.kept, ∃ e ∈ s.kept, d.line = e.line ∧ d.way = e.way ∧
    (touches a n d.line → s.cachesLine d.line → s.mhcr.wb = false) ∧
    ∀ c : Word, c.toNat / 32 = d.line.toNat →
      ((c - a).toNat < n ∧ s.cachesLine d.line → d.older.getD (c.toNat % 32) 0 = byte c) ∧
      (¬ ((c - a).toNat < n ∧ s.cachesLine d.line) →
        d.older.getD (c.toNat % 32) 0 = e.older.getD (c.toNat % 32) 0)

/-- A store to memory: the bytes are written; the fetch and data-cache overlays and the counter of store instructions may
change with them; nothing else has changed. -/
def State.stored (s t : State) (a : Word) (n : Nat) (v : Dword) (len : Word) : Prop :=
  (∃ g, s.mayFind (touches a n) g ∧ s.wroteBytes t g a n v) ∧ s.retiredTo t (s.pc + len) ∧
    t.hpm = (s.countEvent 13 1).hpm ∧
    t = { s with
          mem := t.mem, stale := t.stale, dirty := t.dirty, kept := t.kept, hpm := t.hpm, pc := t.pc,
          minstret := t.minstret }

/-- The handler of an exception is entered (rule R570): `epc` and `info` are saved, the mode is M, interrupts are off, the
handler's address is MTVEC with its low six bits cleared (rule R571). -/
def State.inHandler (s t : State) (code : BitVec 12) (epc info : Word) : Prop :=
  t.mepc = epc ∧ t.mtval = info ∧ t.mcause = { s.mcause with code := code, interrupt := false } ∧
    t.mstatus = { s.mstatus with mpie := s.mstatus.mie, mie := false, mpp := s.priv } ∧ t.priv = .machine ∧
    t.mexstatus = { s.mexstatus with exptVld := true, buserr := t.mexstatus.buserr } ∧
    t.pc = s.readCsr .mtvec &&& 0xFFFFFFC0 ∧
    (t.minstret = s.minstret ∨ t.minstret = s.minstret + 1) ∧
    t = { s with
          mepc := t.mepc, mtval := t.mtval, mcause := t.mcause, mstatus := t.mstatus, priv := t.priv,
          mexstatus := t.mexstatus, pc := t.pc, minstret := t.minstret }

/-- The core is locked up at `epc` (rule R590): only the pc, LOCKUP and the lockup output have changed. -/
def State.heldAt (s t : State) (epc : Word) : Prop :=
  t.pc = epc ∧ t.lockedUp = true ∧ t.mexstatus = { s.mexstatus with lockup := true } ∧
    (t.minstret = s.minstret ∨ t.minstret = s.minstret + 1) ∧
    t = { s with pc := t.pc, lockedUp := t.lockedUp, mexstatus := t.mexstatus, minstret := t.minstret }

/-- The instruction at pc has raised an exception: the handler is entered, or the core is locked up when a handler is
already running (rules R570, R590). -/
def State.trapped (s t : State) (code : BitVec 12) (info : Word) : Prop :=
  if s.mexstatus.exptVld = true ∨ s.mexstatus.nmi = true then s.heldAt t s.pc else s.inHandler t code s.pc info

/-! ## When an access goes to memory and succeeds -/

/-- `n` bytes at `a`, a multiple of `n`: outside the device window, allowed by the PMP with the effective privilege, and
answered by the platform without an error. -/
def State.plainAccess (s : State) (k : Access) (a : Word) (n : Nat) : Prop :=
  a.toNat % n = 0 ∧ inTcip a = false ∧ s.pmpAllows k.perm s.dataPriv a = true ∧ dataError s.params k a = false

/-- The address register of the PMP entry before; 0 for the first (rule R162). -/
def State.pmpBelow (s : State) : Nat → Word
  | 0 => 0
  | i + 1 => s.readPmpAddr i

/-! ## What a floating-point result should be

Values are rationals, read from the fields of a pattern (rule R29), without the model's own unpacking. -/

/-- The number of a pattern that is no NaN; an infinity stands as the power of two above the largest number, so that
comparing values orders all of them. -/
def Fmt.value (F : Fmt) (b : Nat) : ℚ :=
  let sign : ℚ := if b / F.signBit = 0 then 1 else -1
  let ex := b % F.signBit / 2 ^ F.fracBits
  let frac := b % 2 ^ F.fracBits
  if ex = 0 then sign * frac * 2 ^ F.minExp else sign * (2 ^ F.fracBits + frac : Nat) * 2 ^ (F.minExp + ex - 1)

/-- A pattern of the format. -/
def Fmt.isPattern (F : Fmt) (b : Nat) : Prop := b < 2 * F.signBit

/-- The pattern of a finite number. -/
def Fmt.isFinite (F : Fmt) (b : Nat) : Prop := F.isPattern b ∧ b % F.signBit < F.infBits

/-- The pattern of an infinity. -/
def Fmt.isInf (F : Fmt) (b : Nat) : Prop := F.isPattern b ∧ b % F.signBit = F.infBits

/-- The pattern of a NaN. -/
def Fmt.nanPattern (F : Fmt) (b : Nat) : Prop := F.isPattern b ∧ F.infBits < b % F.signBit

/-- A NaN whose highest fraction bit is 0 (rule R384). -/
def Fmt.signalling (F : Fmt) (b : Nat) : Prop := F.nanPattern b ∧ b / 2 ^ (F.fracBits - 1) % 2 = 0

/-- `v` rounded in a mode to the format's precision, but with no bound on the exponent, is at least `hi` in magnitude, where
`hi` is a power of two and `lo` the number of that precision next below it (rule R382). -/
def reaches (mode : Rounding) (v lo hi : ℚ) : Prop :=
  match mode with
  | .rne | .rmm => (lo + hi) / 2 ≤ |v|
  | .rtz => hi ≤ |v|
  | .rdn => if v < 0 then lo < |v| else hi ≤ |v|
  | .rup => if 0 < v then lo < |v| else hi ≤ |v|

/-- `r` is the exact number `v` rounded in a mode (rules R382, R384). NV and DZ are not raised; OF is raised exactly when `v`,
rounded with no bound on the exponent, lies beyond the largest finite number; NX exactly when the result is no finite number or
differs from `v`; UF exactly when NX is and `v`, rounded with no bound on the exponent, lies below the smallest normal number.
The result of a number that is not 0 has its sign, also when it is a zero. Toward minus or plus infinity the result is the
nearest number on that side, toward zero the nearest that is not larger in magnitude; to nearest, an overflow is an infinity,
otherwise no number is nearer, and a tie goes to the even pattern or to the larger magnitude. -/
def Fmt.roundsTo (F : Fmt) (mode : Rounding) (v : ℚ) (r : FpResult) : Prop :=
  let far := fun b : Nat => |F.value b - v|
  let largest := F.value (F.infBits - 1)
  let smallestNormal : ℚ := 2 ^ (F.minExp + F.fracBits)
  let overflows := reaches mode v largest (2 ^ (F.minExp + F.expMax + F.fracBits - 1))
  let tiny := ¬ reaches mode v (smallestNormal - 2 ^ (F.minExp - 1)) smallestNormal
  F.isPattern r.bits ∧ (F.isFinite r.bits ∨ F.isInf r.bits) ∧ r.flags &&& 0b11000 = 0 ∧
    (r.flags.getLsbD 2 = true ↔ overflows) ∧
    (r.flags.getLsbD 0 = true ↔ ¬ (F.isFinite r.bits ∧ F.value r.bits = v)) ∧
    (r.flags.getLsbD 1 = true ↔ r.flags.getLsbD 0 = true ∧ tiny) ∧
    (v ≠ 0 → (F.signBit ≤ r.bits ↔ v < 0)) ∧
    match mode with
    | .rdn => (F.isFinite r.bits → F.value r.bits ≤ v) ∧ (¬ F.isFinite r.bits → r.bits = F.signBit + F.infBits) ∧
        ∀ w, F.isFinite w → F.value w ≤ v → F.isFinite r.bits ∧ F.value w ≤ F.value r.bits
    | .rup => (F.isFinite r.bits → v ≤ F.value r.bits) ∧ (¬ F.isFinite r.bits → r.bits = F.infBits) ∧
        ∀ w, F.isFinite w → v ≤ F.value w → F.isFinite r.bits ∧ F.value r.bits ≤ F.value w
    | .rtz => F.isFinite r.bits ∧ |F.value r.bits| ≤ |v| ∧
        ∀ w, F.isFinite w → |F.value w| ≤ |v| → |F.value w| ≤ |F.value r.bits|
    | .rne => (F.isFinite r.bits ↔ ¬ overflows) ∧
        (F.isFinite r.bits → ∀ w, F.isFinite w → far r.bits < far w ∨ F.value w = F.value r.bits ∨
          far r.bits = far w ∧ r.bits % 2 = 0)
    | .rmm => (F.isFinite r.bits ↔ ¬ overflows) ∧
        (F.isFinite r.bits → ∀ w, F.isFinite w → far r.bits < far w ∨ F.value w = F.value r.bits ∨
          far r.bits = far w ∧ |F.value w| < |F.value r.bits|)

/-- A number rounded to an integer in a mode (rule R382). -/
def roundedInteger (mode : Rounding) (v : ℚ) : ℤ :=
  match mode with
  | .rne => if v - ⌊v⌋ < 1 / 2 then ⌊v⌋ else if 1 / 2 < v - ⌊v⌋ then ⌊v⌋ + 1 else if ⌊v⌋ % 2 = 0 then ⌊v⌋ else ⌊v⌋ + 1
  | .rtz => if 0 ≤ v then ⌊v⌋ else ⌈v⌉
  | .rdn => ⌊v⌋
  | .rup => ⌈v⌉
  | .rmm => if 0 ≤ v then ⌊v + 1 / 2⌋ else ⌈v - 1 / 2⌉

/-! ## Runs -/

/-- The step of a state stops, with a fault or a refusal. -/
def State.stops (s : State) : Prop := ∀ t, step s ≠ .next t

/-- A run of `n` steps that never stops ends in `t`. -/
def State.runsTo (s : State) (n : Nat) (t : State) : Prop := Host.Core.run Sys2Proof.core n s = .next t

end Sys2Proof.Machine
end

