-- ==== Sys2Proof/Certificates/Slice0/Obligations.lean ====
section
/-! DEFINITION. The statements for the provers. What a statement leaves to the helpers of Sys2Proof/Safety.lean
(`State.gaveX`, `State.stored`, `State.trapped` and so on) is said there. Every statement ranges over all states and all
configurations, unless it says otherwise. -/

section

open Sys2Proof Sys2Proof.Machine Sys2Proof.Config

/-! ## Encoding -/

/-- The decoder reads back what the encoder writes, from the code, from the bytes in memory, and from the table word. -/
def Obligations.DecodeInvertsEncode : Prop :=
  ∀ i : Instr, i.wf = true →
    decodeCode (encode i) = .ok i ∧
      (∀ rest, decodeBytes ((encode i).bytes ++ rest) = .ok (i, rest)) ∧
      decodeTableWord 32 (encode i).value.toNat = some i

/-- Every code that the decoder accepts is the encoding of the instruction it reads, and that instruction is
well-formed: no bit of an accepted code is ignored. -/
def Obligations.EncodeInvertsDecode : Prop :=
  ∀ (c : Code) (i : Instr), decodeCode c = .ok i → encode i = c ∧ i.wf = true

/-- Fourteen words of the spec's examples decode to the instructions they stand for. -/
def Obligations.DecodesSpecWords : Prop :=
  decodeWord 0x002081B3 = .ok (.add 3 1 2) ∧ decodeWord 0xFFF00293 = .ok (.addi 5 0 0xFFF) ∧
  decodeWord 0x41F35293 = .ok (.srai 5 6 31) ∧ decodeWord 0xE08012B7 = .ok (.lui 5 0xE0801) ∧
  decodeWord 0xFE029CE3 = .ok (.bne 5 0 0xFFC) ∧ decodeWord 0x001000EF = .ok (.jal 1 0x400) ∧
  decodeWord 0x00231283 = .ok (.lh 5 6 2) ∧ decodeWord 0x022091B3 = .ok (.mulh 3 1 2) ∧
  decodeWord 0x30200073 = .ok .mret ∧ decodeWord 0x10500073 = .ok .wfi ∧
  decodeWord 0x0010000B = .ok .dcacheCall ∧ decodeWord 0x01A0000B = .ok .syncI ∧
  decodeHalf 0x0001 = .ok .cNop ∧ decodeHalf 0x9002 = .ok .cEbreak

/-! ## The step -/

/-- When nothing of higher rank happens at the boundary, the step is the instruction that the code at pc stands for, run
on the state with the inputs sampled and the sleep ended (rule R610). -/
def Obligations.StepRunsDecodedInstruction : Prop :=
  ∀ (s u : State) (c : Code) (i : Instr), s.params.wf = true → u = s.sample →
    u.pins.reset = false → u.lockedUp = false → (u.asleep = true → u.wakes = true) →
    u.takesNmi = false → u.takenInterrupt = none → u.reportedBusError = none →
    u.fetchCode u.priv u.pc = .ok c → decodeCode c = .ok i →
    step s = exec i { u with asleep := false }

/-- A fetch that the PMP and the platform allow gives the bytes of memory, two or four of them as the low two bits say
(rules R148, R200, R141); the fetch overlay of log 22 being empty there. In the device window machine mode reads the CLIC's
per-interrupt registers by halfwords (rules R142, R679), any other halfword is refused by name (rule R665, U16), and user mode
is denied (D66; log 27). -/
def Obligations.FetchReadsMemoryBytes : Prop :=
  ∀ (s : State) (p : Priv) (a : Word),
    let ready := fun b : Word =>
      s.pmpAllows .execute p b = true ∧ inTcip b = false ∧ fetchError s.params b = false ∧ s.staleAt b = []
    let byte := fun k : Word => (s.mem.read (a + k).toNat)
    (ready a → (byte 0).extractLsb' 0 2 ≠ 0b11 → s.fetchCode p a = .ok (.half (byte 1 ++ byte 0))) ∧
    (ready a → ready (a + 2) → (byte 0).extractLsb' 0 2 = 0b11 →
      s.fetchCode p a = .ok (.word (byte 3 ++ byte 2 ++ byte 1 ++ byte 0))) ∧
    (inTcip a = true → s.fetchCode .user a = .denied a) ∧
    (inTcip a = true → s.pmpAllows .execute .machine a = true → a.toNat % 2 = 0 →
      let h := (s.sourceWord ((a.toNat - 0xE0801000) / 4) >>> (8 * (a.toNat % 4))).setWidth 16
      (0xE0801000 ≤ a.toNat → a.toNat < 0xE0805000 →
        s.fetchHalf .machine a = .ok h ∧ (h.extractLsb' 0 2 ≠ 0b11 → s.fetchCode .machine a = .ok (.half h))) ∧
      (a.toNat < 0xE0801000 ∨ 0xE0805000 ≤ a.toNat → s.fetchCode .machine a = .refused (.deviceFetch a)))

/-- At a boundary where the instruction at pc is due: a fetch that fails raises InstrAccessFault with the address of the
halfword that failed, and bits that are no instruction raise IllegalInstruction with those bits (rules R148, R210, R563).
The eight slots of rule R525 are covered here when no floating-point unit is built (log 42). -/
def Obligations.FetchOrDecodeTraps : Prop :=
  ∀ s u : State, s.params.wf = true → u = { s.sample with asleep := false } →
    u.pins.reset = false → u.lockedUp = false → (s.sample.asleep = true → s.sample.wakes = true) →
    u.takesNmi = false → u.takenInterrupt = none → u.reportedBusError = none →
    (∀ a, u.fetchHalf u.priv u.pc = .denied a → ∃ t, step s = .next t ∧ u.trapped t 1 u.pc) ∧
    (∀ h a, u.fetchHalf u.priv u.pc = .ok h → isLong h = true → u.fetchHalf u.priv (u.pc + 2) = .denied a →
      ∃ t, step s = .next t ∧ u.trapped t 1 (u.pc + 2)) ∧
    (∀ c e, u.fetchCode u.priv u.pc = .ok c → decodeCode c = .error e →
      (∀ h, e = .compressedFloat h → u.params.fpu = .none) → ∃ t, step s = .next t ∧ u.trapped t 2 c.value)

/-- What reset leaves, for every configuration: the values of rule R79, those among them that are the spec's own decisions
(D11, D12, D17, D22 to D24, D30) included. Nothing is said of the registers whose reset value the spec leaves unspecified
(logs 2 to 6). -/
def Obligations.ResetStateAsStated : Prop :=
  ∀ p : Params,
    let r := State.resetOf p
    State.reset = State.resetOf Params.default ∧
    r.priv = .machine ∧ r.pc = p.resetPc ∧ r.readCsr .mraddr = p.resetPc ∧ r.readX 0 = 0 ∧
    r.mstatus.mie = false ∧ r.mstatus.fs = 0 ∧ r.mstatus.mprv = false ∧
    r.readCsr .misa = 0x40901105 ∧ r.readCsr .mie = 0 ∧ r.readCsr .mip = 0 ∧
    r.readCsr .mtvec = 0x00000003 ∧ r.readCsr .mtvt = 0 ∧
    r.mcause = { interrupt := false, minhv := false, mpil := 0, code := 0 } ∧
    r.readCsr .mintstatus = 0 ∧ r.readCsr .mclicbase = 0xE0800000 ∧
    (∀ k, r.readCsr (.pmpcfg k) = 0) ∧ (∀ i, r.readCsr (.pmpaddr i) = 0) ∧
    r.readCsr .mcounteren = 0 ∧ r.readCsr .mcountinhibit = 0 ∧ (∀ n, r.readCsr (.mhpmevent n) = 0) ∧
    r.readCsr .mcycle = 0 ∧ r.readCsr .mcycleh = 0 ∧ r.readCsr .minstret = 0 ∧ r.readCsr .minstreth = 0 ∧
    (∀ n, r.readCsr (.mhpmcounter n) = 0 ∧ r.readCsr (.mhpmcounterh n) = 0) ∧
    r.mxstatus = { thead := false, mm := true, pmdm := false, pmdu := false } ∧
    r.readCsr .mhcr = 0 ∧ r.readCsr .mhint = 0 ∧
    r.mexstatus.wfe = true ∧ r.mexstatus.exptVld = false ∧ r.mexstatus.lockup = false ∧ r.mexstatus.nmi = false ∧
    r.mexstatus.buserr = false ∧ r.readCsr .fcsr = 0 ∧
    r.readCsr .mvendorid = 0 ∧ r.readCsr .marchid = 0 ∧ r.readCsr .mimpid = 0 ∧ r.readCsr .mhartid = 0 ∧
    r.dirty = [] ∧ r.kept = [] ∧ r.stale = [] ∧ r.reservation = none ∧ r.asleep = false ∧ r.lockedUp = false ∧
    r.deviceRead 0xE0000000 4 = 0 ∧ r.deviceRead 0xE0004000 4 = 0xFFFFFFFF ∧ r.deviceRead 0xE0004004 4 = 0xFFFFFFFF ∧
    r.deviceRead 0xE0800000 4 = 1 ∧ r.deviceRead 0xE0800008 4 = 0 ∧
    (∀ c ∈ r.clic.sources, c.ip = false ∧ c.ie = false ∧ c.attrByte = 0xC0 ∧ c.ctl = ctlTied p)

/-- The state after reset meets the invariant, for every well-formed configuration. -/
def Obligations.ResetMeetsInvariant : Prop :=
  (∀ p : Params, p.wf = true → (State.resetOf p).Inv) ∧ State.reset.Inv

/-- Every step that gives a next state keeps the invariant: memory stays canonical, pc, MEPC and MNMIPC stay even, and every
reserved or tied part of a register stays as the spec says it reads (rules R23, R37, R47, R53, R56, R57, R61, R70, R677), and
each way and set of the data cache holds at most one dirty line, and at most one that was kept while it was off (rule R180). -/
def Obligations.StepKeepsInvariant : Prop :=
  ∀ s t : State, s.Inv → step s = .next t → t.Inv

/-- A step with the reset input gives the state after reset (rule R740), but for the inputs and the model's own counter;
memory is not touched, except that a line that was dirty in the data cache may, as a whole, hold what the next level held of it
(log 21, log 41). That bus errors waiting to be reported are dropped is the model's choice (log 16). -/
def Obligations.ResetEventResets : Prop :=
  ∀ s u : State, s.params.wf = true → s.mem.wf = true → s.dirtyShape = true → u = s.sample → u.pins.reset = true →
    ∃ t, step s = .next t ∧
      t = { State.resetOf s.params with
            mem := t.mem, mtime := u.mtime, pins := u.pins, env := u.env, freeCtr := u.freeCtr } ∧
      s.lostLines t s.dirty

/-- An NMI request is taken before everything but reset, from a running, sleeping or locked-up hart, when no NMI is being
handled (rules R600, R602, R610); the MRET of its handler, run from the entry state, restores what the entry saved, and
locks the hart up again when MEXSTATUS.LOCKUP says so (rules R603, R591). -/
def Obligations.NmiEntryAndReturn : Prop :=
  ∀ s u : State, s.params.wf = true → u = s.sample →
    u.pins.reset = false → u.pins.nmi = true → u.mexstatus.nmi = false →
    ∃ t, step s = .next t ∧
      t.mnmipc = u.mepc ∧ t.mepc = u.pc ∧
      t.mnmicause = { intr := u.mcause.interrupt, mpp := u.mstatus.mpp, mpie := u.mstatus.mpie, vector := u.mcause.code } ∧
      t.mcause = { u.mcause with code := 24, interrupt := false } ∧
      t.mstatus = { u.mstatus with mpp := u.priv, mpie := u.mstatus.mie, mie := false } ∧
      t.mexstatus = { u.mexstatus with nmi := true } ∧ t.priv = .machine ∧ t.lockedUp = false ∧ t.asleep = false ∧
      t.pc = u.readCsr .mtvec &&& 0xFFFFFFC0 ∧
      t = { u with
            mnmipc := t.mnmipc, mepc := t.mepc, mnmicause := t.mnmicause, mcause := t.mcause, mstatus := t.mstatus,
            mexstatus := t.mexstatus, priv := t.priv, lockedUp := t.lockedUp, asleep := t.asleep, pc := t.pc } ∧
      ∃ v, exec .mret t = .next v ∧ v.lockedUp = u.mexstatus.lockup ∧
        v.mnmicause = { t.mnmicause with mpp := .user } ∧
        v = { u with
              mnmicause := v.mnmicause, mnmipc := u.mepc, lockedUp := v.lockedUp, asleep := false,
              minstret := v.minstret }

/-- A hart that is locked up, or asleep without a reason to wake, executes nothing: the step only samples the inputs, and no
register, no privilege and no byte of memory changes; while it sleeps no event is counted either (rules R591, R601, R721, R723;
logs 12, 40). -/
def Obligations.HeldHartWaits : Prop :=
  ∀ s u : State, s.params.wf = true → u = s.sample → u.pins.reset = false →
    (u.lockedUp = true ∧ (u.pins.nmi = false ∨ u.mexstatus.nmi = true) ∨
      u.lockedUp = false ∧ u.asleep = true ∧ u.pins.nmi = false ∧
        (u.mexstatus.wfe = false ∨ u.pins.extEvent = false) ∧
        (∀ c, u.presented = some c → u.mexstatus.wfe = false ∧ c.level ≤ u.mil)) →
    step s = .next u ∧
      u = { s with
            pins := u.pins, env := u.env, mtime := u.mtime, freeCtr := u.freeCtr, mcycle := u.mcycle, hpm := u.hpm,
            clic := u.clic } ∧
      (u.lockedUp = false → u.hpm = s.hpm) ∧
      u.clic.nlbits = s.clic.nlbits ∧ u.clic.mth = s.clic.mth ∧
      u.clic.sources.map (fun c => (c.id, c.ie, c.trig, c.shv, c.ctl)) =
        s.clic.sources.map (fun c => (c.id, c.ie, c.trig, c.shv, c.ctl))

/-! ## Exceptions, returns, interrupts, modes -/

/-- Exception entry: with no handler running, or for ECALL and EBREAK whatever is running, the instruction at pc that raises
a cause enters the handler with the steps of rule R570, MTVAL taking `info`; BUSERR is written by the access faults only. The
codes are those of rule R560. -/
def Obligations.ExceptionEntry : Prop :=
  (Cause.instrAccessFault.code = 1 ∧ Cause.illegalInstruction.code = 2 ∧ Cause.breakpoint.code = 3 ∧
    Cause.loadAddrMisaligned.code = 4 ∧ Cause.loadAccessFault.code = 5 ∧ Cause.storeAddrMisaligned.code = 6 ∧
    Cause.storeAccessFault.code = 7 ∧ Cause.ecallFromU.code = 8 ∧ Cause.ecallFromM.code = 11) ∧
  ∀ (s : State) (c : Cause) (info : Word) (b : Bool),
    (s.mexstatus.exptVld = false ∧ s.mexstatus.nmi = false ∨ c = .breakpoint ∨ c = .ecallFromU ∨ c = .ecallFromM) →
    ∃ t, s.raise c info b = .next t ∧ s.inHandler t c.code s.pc info ∧
      t.mexstatus.buserr = if c = .loadAccessFault ∨ c = .storeAccessFault then b else s.mexstatus.buserr

/-- Any other exception while an exception or NMI handler runs locks the core up instead (rule R590): pc stays, nothing is
saved, the lockup output rises. -/
def Obligations.LockupInsteadOfEntry : Prop :=
  ∀ (s : State) (c : Cause) (info : Word) (b : Bool),
    s.mexstatus.exptVld = true ∨ s.mexstatus.nmi = true → c ≠ .breakpoint → c ≠ .ecallFromU → c ≠ .ecallFromM →
    ∃ t, s.raise c info b = .next t ∧ s.heldAt t s.pc ∧ t.padLockup = true

/-- ECALL raises cause 8 from user mode and 11 from machine mode, EBREAK and C.EBREAK cause 3, with MTVAL 0 and MEPC their own
pc; they never lock the core up, and they change no flag (rules R310, R311, R493, R560, R590, R712). That EBREAK and C.EBREAK
always raise Breakpoint, no debugger being attached, is D69 (log 43). -/
def Obligations.EcallEbreak : Prop :=
  encode .ecall = .word 0x00000073 ∧ encode .ebreak = .word 0x00100073 ∧ encode .cEbreak = .half 0x9002 ∧
  ∀ s : State,
    (∃ t, exec .ecall s = .next t ∧ s.inHandler t (if s.priv = .user then 8 else 11) s.pc 0 ∧
      t.lockedUp = s.lockedUp ∧ t.mexstatus = { s.mexstatus with exptVld := true } ∧ t.fcsr = s.fcsr) ∧
    (∃ t, exec .ebreak s = .next t ∧ s.inHandler t 3 s.pc 0 ∧
      t.lockedUp = s.lockedUp ∧ t.mexstatus = { s.mexstatus with exptVld := true } ∧ t.fcsr = s.fcsr) ∧
    (∃ t, exec .cEbreak s = .next t ∧ s.inHandler t 3 s.pc 0 ∧
      t.lockedUp = s.lockedUp ∧ t.mexstatus = { s.mexstatus with exptVld := true } ∧ t.fcsr = s.fcsr)

/-- MRET in machine mode that is no NMI return: pc, the mode, MIE, MPIE, MPP, and MIL or EXPT_VLD as MCAUSE.Interrupt says
(rules R307, R580). While an NMI is handled and MCAUSE holds code 24 with Interrupt 0 it is the NMI return of rule R603, which
locks the core up again when LOCKUP is 1 (rule R591). Executed right after an exception was taken from a running program, it
resumes that program at the same pc, in the same mode, with the same MIE, level and EXPT_VLD (rule R581). -/
def Obligations.MretReturns : Prop :=
  (∀ s : State, s.priv = .machine →
    ¬ (s.mexstatus.nmi = true ∧ s.mcause.interrupt = false ∧ s.mcause.code = 24) →
    ∃ t, exec .mret s = .next t ∧
      t = { s with
            pc := s.mepc
            mstatus := { s.mstatus with mie := s.mstatus.mpie, mpie := true, mpp := .user }
            priv := s.mstatus.mpp
            mil := if s.mcause.interrupt = true then s.mcause.mpil else s.mil
            mexstatus := { s.mexstatus with
                           exptVld := if s.mcause.interrupt = true then s.mexstatus.exptVld else false }
            minstret := if s.counting 2 then s.minstret + 1 else s.minstret }) ∧
  (∀ s : State, s.priv = .machine → s.mexstatus.nmi = true → s.mcause.interrupt = false → s.mcause.code = 24 →
    ∃ t, exec .mret s = .next t ∧
      t = { s with
            pc := s.mepc, mepc := s.mnmipc
            mcause := { s.mcause with code := s.mnmicause.vector, interrupt := s.mnmicause.intr }
            priv := s.mstatus.mpp
            mstatus := { s.mstatus with mie := s.mstatus.mpie, mpie := s.mnmicause.mpie, mpp := s.mnmicause.mpp }
            mnmicause := { s.mnmicause with mpp := .user }
            mexstatus := { s.mexstatus with nmi := false }
            lockedUp := s.mexstatus.lockup
            minstret := if s.counting 2 then s.minstret + 1 else s.minstret }) ∧
  (∀ (s : State) (c : Cause) (info : Word) (b : Bool),
    s.mexstatus.exptVld = false → s.mexstatus.nmi = false →
    ∃ t v, s.raise c info b = .next t ∧ exec .mret t = .next v ∧
      v.pc = s.pc ∧ v.priv = s.priv ∧ v.mstatus.mie = s.mstatus.mie ∧ v.mil = s.mil ∧ v.mexstatus.exptVld = false ∧
      v.x = s.x ∧ v.f = s.f ∧ v.mem = s.mem ∧ v.mcause.code = c.code ∧ v.mtval = info)

/-- MRET, WFI and the eleven cache instructions are illegal in user mode, and with THEADISAE = 0 the thirteen T-Head
instructions are illegal in every mode; MTVAL takes the instruction word (rules R307, R531, R621, R720). -/
def Obligations.MachineOnlyIllegal : Prop :=
  ∀ (s : State) (rs1 : Reg),
    let cache : List Instr :=
      [.dcacheCall, .dcacheIall, .dcacheCiall, .icacheIall, .dcacheCsw rs1, .dcacheIsw rs1, .dcacheCisw rs1,
       .dcacheCpa rs1, .dcacheIpa rs1, .dcacheCipa rs1, .icacheIpa rs1]
    (encode .mret).value = 0x30200073 ∧ (encode .wfi).value = 0x10500073 ∧
    (s.priv = .user → ∀ i ∈ Instr.mret :: Instr.wfi :: cache,
      ∃ t, exec i s = .next t ∧ s.trapped t 2 (encode i).value) ∧
    (s.mxstatus.thead = false → ∀ i ∈ Instr.sync :: Instr.syncI :: cache,
      ∃ t, exec i s = .next t ∧ s.trapped t 2 (encode i).value)

/-- An interrupt that is taken and not vectored: the seven steps of rule R586, pc at the handler of rule R588; the
instruction at pc is not executed, MTVAL, EXPT_VLD and the pending bits stay. -/
def Obligations.InterruptEntryNonVectored : Prop :=
  ∀ (s u : State) (c : Presented), s.params.wf = true → u = s.sample →
    u.pins.reset = false → u.lockedUp = false → (u.asleep = true → u.wakes = true) → u.takesNmi = false →
    u.takenInterrupt = some c → c.shv = false →
    ∃ t, step s = .next t ∧ t.asleep = false ∧
      t.mepc = u.pc ∧ t.mcause = { u.mcause with code := BitVec.ofNat 12 c.id, interrupt := true, mpil := u.mil } ∧
      t.mstatus = { u.mstatus with mpie := u.mstatus.mie, mie := false, mpp := u.priv } ∧ t.priv = .machine ∧
      t.mil = c.level ∧ t.pc = u.readCsr .mtvec &&& 0xFFFFFFC0 ∧
      t = { u with
            asleep := t.asleep, mepc := t.mepc, mcause := t.mcause, mstatus := t.mstatus, priv := t.priv,
            mil := t.mil, pc := t.pc }

/-- An interrupt that is taken and vectored: the same steps, the pending bit of an edge-triggered source cleared (free when its
edge arrives in the same step, log 35), and pc the word at MTVT + 4 * id without its bit 0; when the PMP denies that word to a
machine-mode fetch, InstrAccessFault with MEPC and MTVAL the table address and MINHV 1 (rules R586, R587). The fetch overlay
of log 22 is empty at the table entry. -/
def Obligations.InterruptEntryVectored : Prop :=
  ∀ (s u : State) (c : Presented), s.params.wf = true → u = s.sample →
    u.pins.reset = false → u.lockedUp = false → (u.asleep = true → u.wakes = true) → u.takesNmi = false →
    u.takenInterrupt = some c → c.shv = true →
    let a := u.readCsr .mtvt + BitVec.ofNat 32 (4 * c.id)
    let ready := fun b : Word =>
      u.pmpAllows .execute .machine b = true ∧ inTcip b = false ∧ fetchError u.params b = false ∧ u.staleAt b = []
    let cleared := fun t : State =>
      t.clic.nlbits = u.clic.nlbits ∧ t.clic.mth = u.clic.mth ∧
      List.Forall₂ (fun d e : ClicSource => e = { d with ip := e.ip } ∧ (d.id ≠ c.id ∨ d.edgeMode = false → e = d) ∧
        (d.id = c.id → d.edgeMode = true → d.edge = false → e.ip = false)) u.clic.sources t.clic.sources
    (ready a → ready (a + 2) → ∃ t, step s = .next t ∧ cleared t ∧ t.asleep = false ∧
      t.pc = (u.mem.read (a + 3).toNat ++ u.mem.read (a + 2).toNat ++ u.mem.read (a + 1).toNat ++
        u.mem.read a.toNat) &&& 0xFFFFFFFE ∧
      t.mepc = u.pc ∧
      t.mcause = { interrupt := true, minhv := false, mpil := u.mil, code := BitVec.ofNat 12 c.id } ∧
      t.mstatus = { u.mstatus with mpie := u.mstatus.mie, mie := false, mpp := u.priv } ∧ t.priv = .machine ∧
      t.mil = c.level ∧
      t = { u with
            asleep := t.asleep, clic := t.clic, mepc := t.mepc, mcause := t.mcause, mstatus := t.mstatus,
            priv := t.priv, mil := t.mil, pc := t.pc }) ∧
    (u.pmpAllows .execute .machine a = false → u.mexstatus.exptVld = false → ∃ t, step s = .next t ∧ cleared t ∧
      t.asleep = false ∧ t.pc = u.readCsr .mtvec &&& 0xFFFFFFC0 ∧ t.mepc = a ∧ t.mtval = a ∧
      t.mcause = { interrupt := false, minhv := true, mpil := u.mil, code := 1 } ∧
      t.mstatus = { u.mstatus with mpie := false, mie := false, mpp := .machine } ∧ t.priv = .machine ∧
      t.mil = c.level ∧ t.mexstatus = { u.mexstatus with exptVld := true } ∧
      t = { u with
            asleep := t.asleep, clic := t.clic, mepc := t.mepc, mtval := t.mtval, mcause := t.mcause,
            mstatus := t.mstatus, priv := t.priv, mil := t.mil, mexstatus := t.mexstatus, pc := t.pc })

/-- The boundary between the modes (rule R622): an instruction leaves user mode only by an exception, whose handler it enters
with the mode saved in MPP; an instruction leaves machine mode only as MRET with MPP = U; and a step from machine to user mode
is the execution of an MRET fetched at pc. -/
def Obligations.UserMachineBoundary : Prop :=
  (∀ (i : Instr) (s t : State), exec i s = .next t → s.priv = .user → t.priv = .machine →
    t.mepc = s.pc ∧ t.mstatus.mpp = .user ∧ t.mstatus.mie = false ∧ t.mstatus.mpie = s.mstatus.mie ∧
      t.mcause.interrupt = false ∧ t.mcause.code ∈ ([2, 3, 4, 5, 6, 7, 8] : List (BitVec 12)) ∧
      t.mexstatus.exptVld = true ∧ t.pc = s.readCsr .mtvec &&& 0xFFFFFFC0) ∧
  (∀ (i : Instr) (s t : State), exec i s = .next t → s.priv = .machine → t.priv = .user →
    i = .mret ∧ s.mstatus.mpp = .user) ∧
  (∀ s t u : State, step s = .next t → u = s.sample → u.priv = .machine → t.priv = .user →
    u.mstatus.mpp = .user ∧ ∃ c, u.fetchCode .machine u.pc = .ok c ∧ decodeCode c = .ok .mret)

/-- An instruction executed in user mode, with user mode also the effective privilege of data accesses, that raises no
exception leaves every machine-mode register, every protection entry and every device register as it was; all it can do to
them is lock the core up (rules R31, R621, R665, R590). -/
def Obligations.UserKeepsMachineState : Prop :=
  ∀ (i : Instr) (s t : State), exec i s = .next t → s.priv = .user → s.dataPriv = .user → t.priv = .user →
    t.params = s.params ∧ t.mstatus = { s.mstatus with fs := t.mstatus.fs } ∧ t.mtvecBase = s.mtvecBase ∧
    t.mtvtBase = s.mtvtBase ∧ t.mscratch = s.mscratch ∧ t.mepc = s.mepc ∧ t.mcause = s.mcause ∧ t.mtval = s.mtval ∧
    t.mil = s.mil ∧ t.mnmicause = s.mnmicause ∧ t.mnmipc = s.mnmipc ∧ t.pmp = s.pmp ∧ t.mcounteren = s.mcounteren ∧
    t.mcountinhibit = s.mcountinhibit ∧ t.mcycle = s.mcycle ∧ t.mxstatus = s.mxstatus ∧ t.mhcr = s.mhcr ∧
    t.aee = s.aee ∧ t.clint = s.clint ∧ t.clic = s.clic ∧ t.mtime = s.mtime ∧ t.asleep = s.asleep ∧
    t.hpm.map (fun h => (h.index, h.event, h.ready)) = s.hpm.map (fun h => (h.index, h.event, h.ready)) ∧
    (t.mexstatus = s.mexstatus ∧ t.lockedUp = s.lockedUp ∨
      t.mexstatus = { s.mexstatus with lockup := true } ∧ t.lockedUp = true)


/-! ## Physical memory protection -/

/-- The first matching entry decides, an unlocked one letting machine mode through; without a match machine mode succeeds and
user mode fails (rules R160, R165). -/
def Obligations.PmpFirstMatchDecides : Prop :=
  ∀ (s : State) (k : Perm) (p : Priv) (a : Word),
    (∀ (i : Nat) (e : PmpEntry), s.pmp[i]? = some e → e.matches (s.pmpBelow i) a = true →
      (∀ (j : Nat) (d : PmpEntry), j < i → s.pmp[j]? = some d → d.matches (s.pmpBelow j) a = false) →
      (s.pmpAllows k p a = true ↔ e.cfg.getLsbD 7 = false ∧ p = .machine ∨
        match k with
        | .read => e.cfg.getLsbD 0 = true
        | .write => e.cfg.getLsbD 1 = true
        | .execute => e.cfg.getLsbD 2 = true)) ∧
    ((∀ (i : Nat) (e : PmpEntry), s.pmp[i]? = some e → e.matches (s.pmpBelow i) a = false) →
      (s.pmpAllows k p a = true ↔ p = .machine))

/-- The regions of the entries: OFF and NA4 match nothing; TOR matches the addresses between two bounds that are multiples of
128, taken from bits 29:5 of the address registers; NAPOT with lowest zero bit n, the low four bits read as ones, matches
2^(n+3) bytes, and everything from n = 29 on (rules R53, R162, R163). -/
def Obligations.PmpRegions : Prop :=
  ∀ (e : PmpEntry) (below a : Word),
    let A := e.cfg.extractLsb' 3 2
    let bound := fun w : Word => w.toNat / 32 % 2 ^ 25 * 128
    (A = 0b00 ∨ A = 0b10 → e.matches below a = false) ∧
    (A = 0b01 → (e.matches below a = true ↔ bound below ≤ a.toNat ∧ a.toNat < bound e.addr)) ∧
    (A = 0b11 → ∀ n, 4 ≤ n → n ≤ 31 → (∀ k, 4 ≤ k → k < n → e.addr.getLsbD k = true) → e.addr.getLsbD n = false →
      (e.matches below a = true ↔ 29 ≤ n ∨ a.toNat / 2 ^ (n + 3) = e.addr.toNat / 2 ^ (n + 1) % 2 ^ (29 - n))) ∧
    (A = 0b11 → (∀ k, 4 ≤ k → k < 32 → e.addr.getLsbD k = true) → e.matches below a = true)

/-- A locked entry stays through every instruction, and so does the address register below a locked TOR entry; a write of a
PMPCFG register, by any of the six CSR instructions, writes the other bytes of the register all the same, and raises nothing.
Only reset clears the lock. -/
def Obligations.LockedPmpEntriesStay : Prop :=
  let written := fun (a : BitVec 12) (old v : Word) (rd rs1 : Reg) (uimm : BitVec 5) =>
    let u := BitVec.ofNat 32 uimm.toNat
    [(Instr.csrrw rd rs1 a, v), (.csrrwi rd uimm a, u)] ++
      (if rs1 = 0 then [] else [(Instr.csrrs rd rs1 a, old ||| v), (.csrrc rd rs1 a, old &&& ~~~v)]) ++
      if uimm = 0 then [] else [(Instr.csrrsi rd uimm a, old ||| u), (.csrrci rd uimm a, old &&& ~~~u)]
  (∀ (s t : State), step s = .next t → s.sample.pins.reset = false → ∀ i e, s.pmp[i]? = some e → e.cfg.getLsbD 7 = true →
    t.pmp[i]? = some e ∧
    (e.cfg.extractLsb' 3 2 = 0b01 → ∀ j, j + 1 = i → t.readPmpAddr j = s.readPmpAddr j)) ∧
  (∀ (s : State) (rd rs1 : Reg) (uimm : BitVec 5) (k : Nat), k < 4 → s.priv = .machine →
    ∀ f ∈ written (BitVec.ofNat 12 (0x3A0 + k)) (s.readCsr (.pmpcfg k)) (s.readX rs1) rd rs1 uimm,
      ∃ t, exec f.1 s = .next t ∧ t.pc = s.pc + 4 ∧ t.priv = .machine ∧
        ∀ j e, j < 4 → s.pmp[4 * k + j]? = some e →
          t.pmp[4 * k + j]? = some (if e.cfg.getLsbD 7 = true then e
            else { e with cfg := f.2.extractLsb' (8 * j) 8 &&& 0x9F })) ∧
  (∀ (s : State) (rd rs1 : Reg) (uimm : BitVec 5) (i : Nat), i < 16 → s.priv = .machine →
    ∀ f ∈ written (BitVec.ofNat 12 (0x3B0 + i)) (s.readCsr (.pmpaddr i)) (s.readX rs1) rd rs1 uimm,
      ∃ t, exec f.1 s = .next t ∧ t.pc = s.pc + 4 ∧ t.priv = .machine ∧
        ∀ e, s.pmp[i]? = some e → e.cfg.getLsbD 7 = false →
          (∀ d, s.pmp[i + 1]? = some d → d.cfg.getLsbD 7 = true → d.cfg.extractLsb' 3 2 ≠ 0b01) →
          t.pmp[i]? = some { e with addr := f.2 }) ∧
  (∀ s t : State, s.sample.pins.reset = true → step s = .next t → ∀ e ∈ t.pmp, e.cfg.getLsbD 7 = false)

/-- A load, store, AMO, LR.W or SC.W at a naturally aligned address that the PMP denies to the effective privilege of rule R161
traps with the access fault of its kind and its address in MTVAL, and changes no register and no memory (rules R160, R161,
R352, R563). -/
def Obligations.PmpDeniedAccessTraps : Prop :=
  ∀ (s : State) (aq rl : BitVec 1) (rd rs1 rs2 : Reg) (imm : BitVec 12),
    s.dataPriv = (if s.mstatus.mprv then s.mstatus.mpp else s.priv) ∧
    (let a := s.readX rs1 + imm.signExtend 32
     (s.pmpAllows .read s.dataPriv a = false →
        (∃ t, exec (.lb rd rs1 imm) s = .next t ∧ s.trapped t 5 a) ∧
        (∃ t, exec (.lbu rd rs1 imm) s = .next t ∧ s.trapped t 5 a) ∧
        (a.toNat % 2 = 0 → (∃ t, exec (.lh rd rs1 imm) s = .next t ∧ s.trapped t 5 a) ∧
          (∃ t, exec (.lhu rd rs1 imm) s = .next t ∧ s.trapped t 5 a)) ∧
        (a.toNat % 4 = 0 → ∃ t, exec (.lw rd rs1 imm) s = .next t ∧ s.trapped t 5 a)) ∧
     (s.pmpAllows .write s.dataPriv a = false →
        (∃ t, exec (.sb rs2 rs1 imm) s = .next t ∧ s.trapped t 7 a) ∧
        (a.toNat % 2 = 0 → ∃ t, exec (.sh rs2 rs1 imm) s = .next t ∧ s.trapped t 7 a) ∧
        (a.toNat % 4 = 0 → ∃ t, exec (.sw rs2 rs1 imm) s = .next t ∧ s.trapped t 7 a))) ∧
    (let a := s.readX rs1
     a.toNat % 4 = 0 →
     (s.pmpAllows .read s.dataPriv a = false → ∃ t, exec (.lrW aq rl rd rs1) s = .next t ∧ s.trapped t 5 a) ∧
     (s.pmpAllows .write s.dataPriv a = false →
        ∀ i ∈ [Instr.scW aq rl rd rs1 rs2, .amoaddW aq rl rd rs1 rs2, .amoandW aq rl rd rs1 rs2,
            .amoorW aq rl rd rs1 rs2, .amoxorW aq rl rd rs1 rs2, .amoswapW aq rl rd rs1 rs2,
            .amomaxW aq rl rd rs1 rs2, .amomaxuW aq rl rd rs1 rs2, .amominW aq rl rd rs1 rs2,
            .amominuW aq rl rd rs1 rs2],
          ∃ t, exec i s = .next t ∧ s.trapped t 7 a))

/-- No instruction but a cache invalidation changes a byte of memory that the PMP denies writing to the effective privilege,
whatever the instruction, its alignment and its outcome (rules R160, R161, R166). -/
def Obligations.PmpProtectsMemory : Prop :=
  ∀ (i : Instr) (s t : State) (a : Word), s.mem.wf = true → exec i s = .next t →
    s.pmpAllows .write s.dataPriv a = false →
    (∀ rs1, i ≠ .dcacheIall ∧ i ≠ .dcacheIsw rs1 ∧ i ≠ .dcacheIpa rs1) →
    t.mem.read a.toNat = s.mem.read a.toNat


/-! ## Control and status registers -/

/-- CSRRS and CSRRC with x0, CSRRSI and CSRRCI with 0 read: `rd` takes the register's value and nothing else changes, for
every register that the mode may read but the views MNXTI, MSCRATCHCSW and MSCRATCHCSWL (rules R299, R301, R302, R304,
R305). -/
def Obligations.CsrPureReads : Prop :=
  ∀ (s : State) (rd : Reg) (a : BitVec 12) (c : Csr), csrAt a = some c → s.csrAllowed c false = true →
    c ≠ .mnxti → c ≠ .mscratchcsw → c ≠ .mscratchcswl →
    ∀ i ∈ [Instr.csrrs rd 0 a, .csrrc rd 0 a, .csrrsi rd 0 a, .csrrci rd 0 a],
      ∃ t, exec i s = .next t ∧ s.gaveX t rd (s.readCsr c) 4

/-- The six CSR instructions in machine mode on MSCRATCH: the old value goes to `rd`, the register takes the new value of
each form, computed from the operands before `rd` is written; nothing else changes (rules R43, R300 to R305). -/
def Obligations.CsrFormsOnMscratch : Prop :=
  ∀ (s : State) (rd rs1 : Reg) (uimm : BitVec 5), s.priv = .machine →
    let gave := fun (i : Instr) (w : Word) => ∃ t, exec i s = .next t ∧
      s.wroteX t rd s.mscratch ∧ s.retiredTo t (s.pc + 4) ∧ s.sameMemory t ∧ t.mscratch = w ∧
      t = { s with x := t.x, mscratch := t.mscratch, pc := t.pc, minstret := t.minstret }
    gave (.csrrw rd rs1 0x340) (s.readX rs1) ∧
    gave (.csrrs rd rs1 0x340) (if rs1 = 0 then s.mscratch else s.mscratch ||| s.readX rs1) ∧
    gave (.csrrc rd rs1 0x340) (if rs1 = 0 then s.mscratch else s.mscratch &&& ~~~s.readX rs1) ∧
    gave (.csrrwi rd uimm 0x340) (BitVec.ofNat 32 uimm.toNat) ∧
    gave (.csrrsi rd uimm 0x340) (if uimm = 0 then s.mscratch else s.mscratch ||| BitVec.ofNat 32 uimm.toNat) ∧
    gave (.csrrci rd uimm 0x340) (if uimm = 0 then s.mscratch else s.mscratch &&& ~~~BitVec.ofNat 32 uimm.toNat)

/-- The access checks of rule R31: a CSR instruction is illegal when its address is not in the table of rule R30, when it
reaches a machine register from user mode, when it writes a read-only register, when user mode reads a counter image whose
MCOUNTEREN bit is 0, and when it reaches a floating-point register with FS = 00. CSRRW and CSRRWI always write, the others
write unless the operand field is 0 (rule R299). -/
def Obligations.CsrIllegalAccess : Prop :=
  ∀ (s : State) (rd rs1 : Reg) (uimm : BitVec 5) (a : BitVec 12),
    let n := a.toNat
    let implemented := n ∈ [0x001, 0x002, 0x003, 0x300, 0x301, 0x304, 0x305, 0x306, 0x307, 0x320, 0x340, 0x341, 0x342,
        0x343, 0x344, 0x345, 0x346, 0x348, 0x349, 0x350, 0x7C0, 0x7C1, 0x7C5, 0x7E0, 0x7E1, 0x7E2, 0x7E3, 0x800, 0xB00,
        0xB02, 0xB80, 0xB82, 0xC00, 0xC01, 0xC02, 0xC80, 0xC81, 0xC82, 0xF11, 0xF12, 0xF13, 0xF14, 0xFC0] ∨
      (0x323 ≤ n ∧ n ≤ 0x331) ∨ (0x3A0 ≤ n ∧ n ≤ 0x3A3) ∨ (0x3B0 ≤ n ∧ n ≤ 0x3BF) ∨ (0xB03 ≤ n ∧ n ≤ 0xB11) ∨
      (0xB83 ≤ n ∧ n ≤ 0xB91) ∨ (0xC03 ≤ n ∧ n ≤ 0xC11) ∨ (0xC83 ≤ n ∧ n ≤ 0xC91)
    let machineOnly := n / 0x100 % 4 = 3
    let readOnly := n ∈ [0x346, 0x350, 0x7E0] ∨ 0xC00 ≤ n
    let image := 0xC00 ≤ n ∧ n < 0xD00
    (csrAt a ≠ none ↔ implemented) ∧
    ∀ f ∈ [(Instr.csrrw rd rs1 a, true), (.csrrs rd rs1 a, rs1 != 0), (.csrrc rd rs1 a, rs1 != 0),
        (.csrrwi rd uimm a, true), (.csrrsi rd uimm a, uimm != 0), (.csrrci rd uimm a, uimm != 0)],
      (¬ implemented ∨ (machineOnly ∧ s.priv = .user) ∨ (readOnly ∧ f.2 = true) ∨
        (image ∧ s.priv = .user ∧ s.mcounteren.getLsbD (n % 0x80) = false) ∨
        (n ∈ [0x001, 0x002, 0x003, 0x800] ∧ s.mstatus.fs = 0)) →
      ∃ t, exec f.1 s = .next t ∧ s.trapped t 2 (encode f.1).value

/-- What the writable machine-mode registers, the PMP registers among them, and the floating-point control registers read
after CSRRW has written `x[rs1]`: their writable bits, every other bit as the rule of the register says (D13, D21, D22, D24,
D25, D28). The views MNXTI, MSCRATCHCSW and MSCRATCHCSWL are in the next two statements; MXSTATUS and MEXSTATUS are stated for
the default layout of log 30 only. The model's choices among this: the places of the fields (logs 29, 30), that the status
bits of MEXSTATUS are writable (log 31), that NMI_MPP of MNMICAUSE keeps its old value for 01 and 10 (log 32), and that
MINSTRET may count the instruction that writes it (U12, log 13). A change of PM (U9, log 33) and of the cache mode with dirty
lines (U5, log 25) are refused by name. -/
def Obligations.CsrReadback : Prop :=
  ∀ (s : State) (rd rs1 : Reg), s.priv = .machine → s.fsTied = true →
    let v := s.readX rs1
    let reads := fun (a : BitVec 12) (c : Csr) (w : Word) => ∃ t, exec (.csrrw rd rs1 a) s = .next t ∧
      s.wroteX t rd (s.readCsr c) ∧ t.readCsr c = w ∧ t.pc = s.pc + 4 ∧ s.sameMemory t
    let mpp := fun (old : Word) (at' : Nat) =>
      let m : Word := (3 : Word) <<< at'
      if v &&& m = 0 ∨ v &&& m = m then v &&& m else old &&& m
    reads 0x305 .mtvec (v ||| 3) ∧ reads 0x307 .mtvt (v &&& 0xFFFFFFC0) ∧ reads 0x340 .mscratch v ∧
    reads 0x341 .mepc (v &&& 0xFFFFFFFE) ∧ reads 0x343 .mtval v ∧ reads 0x7E3 .mnmipc (v &&& 0xFFFFFFFE) ∧
    reads 0x301 .misa 0x40901105 ∧ reads 0x304 .mie 0 ∧ reads 0x344 .mip 0 ∧
    reads 0x306 .mcounteren (v &&& 0x0003E31F) ∧ reads 0x320 .mcountinhibit (v &&& 0x0003E31D) ∧
    reads 0xB00 .mcycle v ∧ reads 0xB80 .mcycleh v ∧
    reads 0x300 .mstatus ((v &&& if s.params.fpu = .none then 0x00020088 else 0x00026088) |||
      mpp (s.readCsr .mstatus) 11 ||| if s.params.fpu ≠ .none ∧ v.extractLsb' 13 2 = 3 then 0x80000000 else 0) ∧
    reads 0x342 .mcause ((v &&& 0xC8FF0FFF) ||| mpp (s.readCsr .mcause) 28) ∧
    (∃ t, exec (.csrrw rd rs1 0x342) s = .next t ∧
      (t.readCsr .mstatus).extractLsb' 11 2 = (t.readCsr .mcause).extractLsb' 28 2 ∧
      (t.readCsr .mstatus).extractLsb' 7 1 = v.extractLsb' 27 1) ∧
    reads 0x7E2 .mnmicause ((v &&& 0x88000FFF) ||| mpp (s.readCsr .mnmicause) 28) ∧
    (let moves := s.mhcr.de = true ∧ v.getLsbD 1 = false ∨ v.getLsbD 2 ≠ s.mhcr.wb ∨ v.getLsbD 3 ≠ s.mhcr.wa
     (s.dirty = [] ∨ ¬ moves → reads 0x7C1 .mhcr (v &&& 0x0000103F)) ∧
     (s.dirty ≠ [] → moves → exec (.csrrw rd rs1 0x7C1) s = .refused .cacheModeWithCacheLines)) ∧
    (let counts := fun (a : BitVec 12) (c : Csr) (n : Nat) => ∃ t, exec (.csrrw rd rs1 a) s = .next t ∧
       s.wroteX t rd (s.readCsr c) ∧ t.pc = s.pc + 4 ∧ s.sameMemory t ∧
       (t.minstret = BitVec.ofNat 64 n ∨ s.counting 2 = true ∧ t.minstret = BitVec.ofNat 64 (n + 1))
     counts 0xB02 .minstret (s.minstret.toNat / 2 ^ 32 * 2 ^ 32 + v.toNat) ∧
     counts 0xB82 .minstreth (v.toNat * 2 ^ 32 + s.minstret.toNat % 2 ^ 32)) ∧
    (s.hpmShape = true → ∀ n ∈ [5, 6, 7, 10, 11, 12],
      reads (BitVec.ofNat 12 (0x320 + n)) (.mhpmevent n) 0 ∧ reads (BitVec.ofNat 12 (0xB00 + n)) (.mhpmcounter n) 0 ∧
        reads (BitVec.ofNat 12 (0xB80 + n)) (.mhpmcounterh n) 0 ∧
        ∀ a ∈ [BitVec.ofNat 12 (0x320 + n), BitVec.ofNat 12 (0xB00 + n), BitVec.ofNat 12 (0xB80 + n)],
          ∃ t, exec (.csrrw rd rs1 a) s = .next t ∧ t.hpm = s.hpm) ∧
    (s.params.mhintAee < 32 → reads 0x7C5 .mhint (v &&& ((1 : Word) <<< s.params.mhintAee))) ∧
    (s.params.mexstatus = Params.default.mexstatus → reads 0x7E1 .mexstatus (v &&& 0x000001FC)) ∧
    (s.params.mxstatus = Params.default.mxstatus →
      (v.extractLsb' 30 2 = 3 → reads 0x7C0 .mxstatus (v &&& 0xC040A400)) ∧
      (v.extractLsb' 30 2 ≠ 3 → exec (.csrrw rd rs1 0x7C0) s = .refused .mxstatusPmWrite)) ∧
    (s.params.fpu ≠ .none → s.mstatus.fs ≠ 0 →
      reads 0x001 .fflags (v &&& 0x1F) ∧ reads 0x002 .frm (v &&& 0x7) ∧ reads 0x003 .fcsr (v &&& 0xFF) ∧
        reads 0x800 .fxcr (v &&& 0x1F) ∧
        ∀ a ∈ ([0x001, 0x002, 0x003, 0x800] : List (BitVec 12)),
          ∃ t, exec (.csrrw rd rs1 a) s = .next t ∧ t.mstatus = { s.mstatus with fs := 3 }) ∧
    (∀ n, s.findHpm n ≠ none → 3 ≤ n → n ≤ 17 →
      reads (BitVec.ofNat 12 (0x320 + n)) (.mhpmevent n) (v &&& 0x1F) ∧
      reads (BitVec.ofNat 12 (0xB00 + n)) (.mhpmcounter n) v ∧
      reads (BitVec.ofNat 12 (0xB80 + n)) (.mhpmcounterh n) v) ∧
    (s.pmpShape = true →
      let entry := fun i : Nat => (s.pmp[i]?).getD { cfg := 0, addr := 0 }
      let locked := fun i : Nat => (entry i).cfg.getLsbD 7
      let torLocked := fun i : Nat => locked i && (entry i).cfg.extractLsb' 3 2 == 1
      let packed := fun (g : Nat → Byte) (k : Nat) =>
        (g (4 * k + 3) ++ g (4 * k + 2) ++ g (4 * k + 1) ++ g (4 * k) : BitVec 32)
      (∀ k, k < 4 → s.readCsr (.pmpcfg k) = packed (fun i => (entry i).cfg) k ∧
        reads (BitVec.ofNat 12 (0x3A0 + k)) (.pmpcfg k)
          (packed (fun i => if s.params.pmpEntries ≤ i then 0 else if locked i = true then (entry i).cfg
            else v.extractLsb' (8 * (i % 4)) 8 &&& 0x9F) k)) ∧
      ∀ i, i < 16 → s.readCsr (.pmpaddr i) = (entry i).addr ∧
        reads (BitVec.ofNat 12 (0x3B0 + i)) (.pmpaddr i)
          (if s.params.pmpEntries ≤ i then 0 else if (locked i || torLocked (i + 1)) = true then (entry i).addr else v))

/-- CSRRW on MSCRATCHCSW exchanges `x[rs1]` and MSCRATCH when MCAUSE.MPP is not machine mode, on MSCRATCHCSWL when exactly one
of MCAUSE.MPIL and MINTSTATUS.MIL is 0; otherwise both copy `x[rs1]` to `rd`. -/
def Obligations.MscratchcswSwaps : Prop :=
  ∀ (s : State) (rd rs1 : Reg), s.priv = .machine →
    let swapped := fun (i : Instr) (p : Prop) => ∃ t, exec i s = .next t ∧
      (p → s.wroteX t rd s.mscratch ∧ t.mscratch = s.readX rs1) ∧
      (¬ p → s.wroteX t rd (s.readX rs1) ∧ t.mscratch = s.mscratch) ∧
      s.retiredTo t (s.pc + 4) ∧ s.sameMemory t ∧
      t = { s with x := t.x, mscratch := t.mscratch, pc := t.pc, minstret := t.minstret }
    swapped (.csrrw rd rs1 0x348) ((s.readCsr .mcause).extractLsb' 28 2 ≠ 0b11) ∧
    swapped (.csrrw rd rs1 0x349)
      (((s.readCsr .mcause).extractLsb' 16 8 = 0) ≠ ((s.readCsr .mintstatus).extractLsb' 24 8 = 0))

/-- CSRRSI and CSRRCI on MNXTI in machine mode: a presented interrupt above MPIL that is not vectored is claimed, `rd` taking
its table address, MIL its level, MCAUSE its number with Interrupt 1 (D18), its pending bit cleared when edge-triggered;
without one `rd` takes 0. Either way the immediate is set or cleared in MSTATUS (rule R49). The forms that the spec does not
describe are refused by name (U7, U8; log 33). -/
def Obligations.MnxtiClaims : Prop :=
  ∀ (s : State) (rd rs1 : Reg) (uimm : BitVec 5), s.priv = .machine →
    let claims := fun (i : Instr) (mie : Bool) => ∃ t, exec i s = .next t ∧ s.retiredTo t (s.pc + 4) ∧
      t.mstatus = { s.mstatus with mie := mie } ∧
      (∀ c, s.presented = some c → s.mcause.mpil < c.level → c.shv = false →
        s.wroteX t rd (s.readCsr .mtvt + BitVec.ofNat 32 (4 * c.id)) ∧ t.mil = c.level ∧
          t.mcause = { s.mcause with code := BitVec.ofNat 12 c.id, interrupt := true } ∧
          List.Forall₂ (fun d e : ClicSource => e = { d with ip := e.ip } ∧ (d.id ≠ c.id ∨ d.edgeMode = false → e = d) ∧
            (d.id = c.id → d.edgeMode = true → d.edge = false → e.ip = false)) s.clic.sources t.clic.sources) ∧
      ((∀ c, s.presented = some c → c.level ≤ s.mcause.mpil ∨ c.shv = true) →
        s.wroteX t rd 0 ∧ t.mil = s.mil ∧ t.mcause = s.mcause ∧ t.clic = s.clic) ∧
      t = { s with
            x := t.x, pc := t.pc, minstret := t.minstret, mstatus := t.mstatus, mil := t.mil, mcause := t.mcause,
            clic := t.clic } ∧ t.clic.nlbits = s.clic.nlbits ∧ t.clic.mth = s.clic.mth
    claims (.csrrsi rd uimm 0x345) (s.mstatus.mie || uimm.getLsbD 3) ∧
    claims (.csrrci rd uimm 0x345) (s.mstatus.mie && !uimm.getLsbD 3) ∧
    (∀ i ∈ [Instr.csrrw rd rs1 0x345, .csrrs rd rs1 0x345, .csrrc rd rs1 0x345, .csrrwi rd uimm 0x345],
      exec i s = .refused .mnxtiForm) ∧
    (∀ a ∈ ([0x348, 0x349] : List (BitVec 12)), ∀ i ∈ [Instr.csrrs rd rs1 a, .csrrc rd rs1 a, .csrrwi rd uimm a,
        .csrrsi rd uimm a, .csrrci rd uimm a], exec i s = .refused .mscratchcswForm)

/-- CYCLE, INSTRET, HPMCOUNTERn and their H halves read the machine counters, TIME and TIMEH read MTIME (rule R63), in machine
mode always, in user mode exactly when the MCOUNTEREN bit is 1; any write is illegal. -/
def Obligations.UserCounterImages : Prop :=
  ∀ (s : State) (rd rs1 : Reg) (uimm : BitVec 5) (k : Nat) (high : Bool), k ≤ 17 →
    let image : BitVec 12 := BitVec.ofNat 12 (0xC00 + (if high then 0x80 else 0) + k)
    let counter : BitVec 12 := BitVec.ofNat 12 (0xB00 + (if high then 0x80 else 0) + k)
    let reads := [Instr.csrrs rd 0 image, .csrrc rd 0 image, .csrrsi rd 0 image, .csrrci rd 0 image]
    let traps := fun i : Instr => ∃ t, exec i s = .next t ∧ s.trapped t 2 (encode i).value
    (∃ w, (k = 1 → w = BitVec.ofNat 32 (if high then s.mtime.toNat / 2 ^ 32 else s.mtime.toNat % 2 ^ 32)) ∧
      (k ≠ 1 → ∃ c, csrAt counter = some c ∧ w = s.readCsr c) ∧
      (s.priv = .machine ∨ s.mcounteren.getLsbD k = true →
        ∀ i ∈ reads, ∃ t, exec i s = .next t ∧ s.gaveX t rd w 4)) ∧
    (s.priv = .user → s.mcounteren.getLsbD k = false → ∀ i ∈ reads, traps i) ∧
    (∀ i ∈ [Instr.csrrw rd rs1 image, .csrrwi rd uimm image], traps i) ∧
    (rs1 ≠ 0 → ∀ i ∈ [Instr.csrrs rd rs1 image, .csrrc rd rs1 image], traps i) ∧
    (uimm ≠ 0 → ∀ i ∈ [Instr.csrrsi rd uimm image, .csrrci rd uimm image], traps i)

/-! ## Integer arithmetic, branches, jumps -/

/-- The ten register-register instructions of RV32I: encoding, result for every operand, and nothing else changed. -/
def Obligations.IntegerRegisterResults : Prop :=
  ∀ (s : State) (rd rs1 rs2 : Reg),
    let a := s.readX rs1
    let b := s.readX rs2
    let word := fun (f7 : BitVec 7) (f3 : BitVec 3) => Code.word (f7 ++ rs2 ++ rs1 ++ f3 ++ rd ++ (0b0110011 : BitVec 7))
    let gives := fun (i : Instr) (c : Code) (v : Word) => encode i = c ∧ ∃ t, exec i s = .next t ∧ s.gaveX t rd v 4
    gives (.add rd rs1 rs2) (word 0b0000000 0b000) (BitVec.ofNat 32 (a.toNat + b.toNat)) ∧
    gives (.sub rd rs1 rs2) (word 0b0100000 0b000) (BitVec.ofInt 32 (a.toInt - b.toInt)) ∧
    gives (.and rd rs1 rs2) (word 0b0000000 0b111) (BitVec.ofNat 32 (a.toNat &&& b.toNat)) ∧
    gives (.or rd rs1 rs2) (word 0b0000000 0b110) (BitVec.ofNat 32 (a.toNat ||| b.toNat)) ∧
    gives (.xor rd rs1 rs2) (word 0b0000000 0b100) (BitVec.ofNat 32 (a.toNat ^^^ b.toNat)) ∧
    gives (.sll rd rs1 rs2) (word 0b0000000 0b001) (BitVec.ofNat 32 (a.toNat * 2 ^ (b.toNat % 32))) ∧
    gives (.srl rd rs1 rs2) (word 0b0000000 0b101) (BitVec.ofNat 32 (a.toNat / 2 ^ (b.toNat % 32))) ∧
    gives (.sra rd rs1 rs2) (word 0b0100000 0b101) (BitVec.ofInt 32 (a.toInt / 2 ^ (b.toNat % 32))) ∧
    gives (.slt rd rs1 rs2) (word 0b0000000 0b010) (if a.toInt < b.toInt then 1 else 0) ∧
    gives (.sltu rd rs1 rs2) (word 0b0000000 0b011) (if a.toNat < b.toNat then 1 else 0)

/-- The immediate instructions of RV32I: the 12-bit immediate is sign-extended, for SLTIU too (D43), shift amounts are the 5-bit
field, LUI and AUIPC place the 20-bit immediate in bits 31:12 (rules R262, R265, R267, R269, R271, R273, R275, R278 to R281). -/
def Obligations.IntegerImmediateResults : Prop :=
  ∀ (s : State) (rd rs1 : Reg) (imm : BitVec 12) (sh : BitVec 5) (up : BitVec 20),
    let a := s.readX rs1
    let b := BitVec.ofInt 32 imm.toInt
    let gives := fun (i : Instr) (v : Word) => ∃ t, exec i s = .next t ∧ s.gaveX t rd v 4
    gives (.addi rd rs1 imm) (BitVec.ofInt 32 (a.toInt + imm.toInt)) ∧
    gives (.andi rd rs1 imm) (BitVec.ofNat 32 (a.toNat &&& b.toNat)) ∧
    gives (.ori rd rs1 imm) (BitVec.ofNat 32 (a.toNat ||| b.toNat)) ∧
    gives (.xori rd rs1 imm) (BitVec.ofNat 32 (a.toNat ^^^ b.toNat)) ∧
    gives (.slti rd rs1 imm) (if a.toInt < imm.toInt then 1 else 0) ∧
    gives (.sltiu rd rs1 imm) (if a.toNat < b.toNat then 1 else 0) ∧
    gives (.slli rd rs1 sh) (BitVec.ofNat 32 (a.toNat * 2 ^ sh.toNat)) ∧
    gives (.srli rd rs1 sh) (BitVec.ofNat 32 (a.toNat / 2 ^ sh.toNat)) ∧
    gives (.srai rd rs1 sh) (BitVec.ofInt 32 (a.toInt / 2 ^ sh.toNat)) ∧
    gives (.lui rd up) (BitVec.ofNat 32 (up.toNat * 4096)) ∧
    gives (.auipc rd up) (BitVec.ofNat 32 (s.pc.toNat + up.toNat * 4096))

/-- The four multiplications: encoding, low or high word of the exact product with the signedness of each form, and nothing else
changed. -/
def Obligations.MultiplyResults : Prop :=
  ∀ (s : State) (rd rs1 rs2 : Reg),
    let a := s.readX rs1
    let b := s.readX rs2
    let word := fun (f3 : BitVec 3) => Code.word ((0b0000001 : BitVec 7) ++ rs2 ++ rs1 ++ f3 ++ rd ++ (0b0110011 : BitVec 7))
    let gives := fun (i : Instr) (c : Code) (v : Word) => encode i = c ∧ ∃ t, exec i s = .next t ∧ s.gaveX t rd v 4
    gives (.mul rd rs1 rs2) (word 0b000) (BitVec.ofInt 32 (a.toInt * b.toInt)) ∧
    gives (.mulh rd rs1 rs2) (word 0b001) (BitVec.ofInt 32 (a.toInt * b.toInt / 2 ^ 32)) ∧
    gives (.mulhsu rd rs1 rs2) (word 0b010) (BitVec.ofInt 32 (a.toInt * b.toNat / 2 ^ 32)) ∧
    gives (.mulhu rd rs1 rs2) (word 0b011) (BitVec.ofNat 32 (a.toNat * b.toNat / 2 ^ 32))

/-- The divisions complete on every operand: by zero the quotient is all ones and the remainder the dividend; the signed
overflow gives the dividend and 0; otherwise quotient and remainder are the ones of division toward zero, the remainder with the
sign of the dividend (rules R334 to R337). -/
def Obligations.DivideResults : Prop :=
  ∀ (s : State) (rd rs1 rs2 : Reg),
    let a := s.readX rs1
    let b := s.readX rs2
    let gives := fun (i : Instr) (v : Word) => ∃ t, exec i s = .next t ∧ s.gaveX t rd v 4
    ∃ q r uq ur : Word,
      gives (.div rd rs1 rs2) q ∧ gives (.rem rd rs1 rs2) r ∧ gives (.divu rd rs1 rs2) uq ∧ gives (.remu rd rs1 rs2) ur ∧
      (b = 0 → q = 0xFFFFFFFF ∧ r = a ∧ uq = 0xFFFFFFFF ∧ ur = a) ∧
      (b ≠ 0 → uq.toNat * b.toNat + ur.toNat = a.toNat ∧ ur.toNat < b.toNat) ∧
      (a = 0x80000000 → b = 0xFFFFFFFF → q = 0x80000000 ∧ r = 0) ∧
      (b ≠ 0 → ¬ (a = 0x80000000 ∧ b = 0xFFFFFFFF) →
        q.toInt * b.toInt + r.toInt = a.toInt ∧ r.toInt.natAbs < b.toInt.natAbs ∧ 0 ≤ r.toInt * a.toInt)

/-- The six conditional branches: encoding, condition, target; no register changes, and MHPMCOUNTER9 may count. -/
def Obligations.BranchResults : Prop :=
  ∀ (s : State) (rs1 rs2 : Reg) (imm : BitVec 12),
    let a := s.readX rs1
    let b := s.readX rs2
    let word := fun (f3 : BitVec 3) =>
      Code.word (imm.extractLsb' 11 1 ++ imm.extractLsb' 4 6 ++ rs2 ++ rs1 ++ f3 ++ imm.extractLsb' 0 4 ++
        imm.extractLsb' 10 1 ++ (0b1100011 : BitVec 7))
    let goes := fun (i : Instr) (c : Code) (taken : Prop) => encode i = c ∧ ∃ t, exec i s = .next t ∧
      (taken → s.retiredTo t (s.pc + BitVec.ofInt 32 (imm.toInt * 2))) ∧ (¬ taken → s.retiredTo t (s.pc + 4)) ∧
      (∀ r, t.readX r = s.readX r) ∧ s.sameMemory t ∧ t.hpm = (s.countEvent 9 1).hpm ∧
      t = { s with pc := t.pc, minstret := t.minstret, hpm := t.hpm }
    goes (.beq rs1 rs2 imm) (word 0b000) (a = b) ∧
    goes (.bne rs1 rs2 imm) (word 0b001) (a ≠ b) ∧
    goes (.blt rs1 rs2 imm) (word 0b100) (a.toInt < b.toInt) ∧
    goes (.bge rs1 rs2 imm) (word 0b101) (b.toInt ≤ a.toInt) ∧
    goes (.bltu rs1 rs2 imm) (word 0b110) (a.toNat < b.toNat) ∧
    goes (.bgeu rs1 rs2 imm) (word 0b111) (b.toNat ≤ a.toNat)

/-- The jumps: the link is the address behind the jump, the target is taken from the registers as they were and has bit 0
cleared; nothing else changes (rules R288, R289, R494 to R497). -/
def Obligations.JumpResults : Prop :=
  ∀ (s : State) (rd rs1 : Reg) (imm : BitVec 12) (far : BitVec 20) (near : BitVec 11),
    let jumps := fun (i : Instr) (link : Reg) (len target : Word) => ∃ t, exec i s = .next t ∧
      s.wroteX t link (s.pc + len) ∧ s.retiredTo t target ∧ s.sameMemory t ∧
      t = { s with x := t.x, pc := t.pc, minstret := t.minstret }
    jumps (.jal rd far) rd 4 (s.pc + BitVec.ofInt 32 (far.toInt * 2)) ∧
    jumps (.jalr rd rs1 imm) rd 4 (BitVec.ofNat 32 ((s.readX rs1 + BitVec.ofInt 32 imm.toInt).toNat / 2 * 2)) ∧
    jumps (.cJ near) 0 2 (s.pc + BitVec.ofInt 32 (near.toInt * 2)) ∧
    jumps (.cJal near) 1 2 (s.pc + BitVec.ofInt 32 (near.toInt * 2)) ∧
    jumps (.cJr rs1) 0 2 (BitVec.ofNat 32 ((s.readX rs1).toNat / 2 * 2)) ∧
    jumps (.cJalr rs1) 1 2 (BitVec.ofNat 32 ((s.readX rs1).toNat / 2 * 2))

/-! ## Compressed instructions -/

/-- The compressed integer instructions and branches, with the registers x8 to x15 of the 3-bit fields, the scaled immediates of
rule R221 and length 2 (rules R222, R485 to R492, R498, R499, R502 to R507, R510, R511). -/
def Obligations.CompressedResults : Prop :=
  ∀ (s : State) (rd rs2 : Reg) (d d2 : CReg) (imm : BitVec 6) (sh : BitVec 5) (wide : BitVec 8),
    let D : Reg := BitVec.ofNat 5 (8 + d.toNat)
    let a := s.readX D
    let b := s.readX (BitVec.ofNat 5 (8 + d2.toNat))
    let gives := fun (i : Instr) (r : Reg) (v : Word) => ∃ t, exec i s = .next t ∧ s.gaveX t r v 2
    let goes := fun (i : Instr) (taken : Prop) => ∃ t, exec i s = .next t ∧
      (taken → s.retiredTo t (s.pc + BitVec.ofInt 32 (wide.toInt * 2))) ∧ (¬ taken → s.retiredTo t (s.pc + 2)) ∧
      (∀ r, t.readX r = s.readX r) ∧ s.sameMemory t ∧ t.hpm = (s.countEvent 9 1).hpm ∧
      t = { s with pc := t.pc, minstret := t.minstret, hpm := t.hpm }
    gives (.cAdd rd rs2) rd (BitVec.ofNat 32 ((s.readX rd).toNat + (s.readX rs2).toNat)) ∧
    gives (.cAddi rd imm) rd (BitVec.ofInt 32 ((s.readX rd).toInt + imm.toInt)) ∧
    gives (.cAddi4spn d wide) D (BitVec.ofNat 32 ((s.readX 2).toNat + 4 * wide.toNat)) ∧
    gives (.cAddi16sp imm) 2 (BitVec.ofInt 32 ((s.readX 2).toInt + 16 * imm.toInt)) ∧
    gives (.cAnd d d2) D (BitVec.ofNat 32 (a.toNat &&& b.toNat)) ∧
    gives (.cAndi d imm) D (a &&& BitVec.ofInt 32 imm.toInt) ∧
    gives (.cOr d d2) D (BitVec.ofNat 32 (a.toNat ||| b.toNat)) ∧
    gives (.cXor d d2) D (BitVec.ofNat 32 (a.toNat ^^^ b.toNat)) ∧
    gives (.cSub d d2) D (BitVec.ofInt 32 (a.toInt - b.toInt)) ∧
    gives (.cLi rd imm) rd (BitVec.ofInt 32 imm.toInt) ∧
    gives (.cLui rd imm) rd (BitVec.ofInt 32 (imm.toInt * 4096)) ∧
    gives (.cMv rd rs2) rd (s.readX rs2) ∧
    gives (.cSlli rd sh) rd (BitVec.ofNat 32 ((s.readX rd).toNat * 2 ^ sh.toNat)) ∧
    gives (.cSrli d sh) D (BitVec.ofNat 32 (a.toNat / 2 ^ sh.toNat)) ∧
    gives (.cSrai d sh) D (BitVec.ofInt 32 (a.toInt / 2 ^ sh.toNat)) ∧
    gives .cNop 0 0 ∧
    goes (.cBeqz d wide) (a = 0) ∧ goes (.cBnez d wide) (a ≠ 0)

/-- Every compressed instruction does what its 32-bit expansion does, but for its length (rules R224, R480). The arithmetic
forms, the branches that are not taken, and the loads and stores that retire give the state of the expansion with pc 2 instead
of 4 behind. A branch that is taken, a jump, an EBREAK, and a load or store that traps give the same state; an access that is
refused is refused alike. The link of C.JAL and C.JALR is 2 behind. -/
def Obligations.CompressedEqualsExpansion : Prop :=
  ∀ (s : State) (rd rs1 rs2 : Reg) (d d2 : CReg) (imm : BitVec 6) (sh : BitVec 5) (wide : BitVec 8) (near : BitVec 11),
    let D : Reg := BitVec.ofNat 5 (8 + d.toNat)
    let D2 : Reg := BitVec.ofNat 5 (8 + d2.toNat)
    let imm12 : BitVec 12 := imm.signExtend 12
    let both := fun (rel : State → State → Prop) (c e : Instr) =>
      ∃ t u, exec c s = .next t ∧ exec e s = .next u ∧ rel t u
    let sequential := both fun t u => u.pc = s.pc + 4 ∧ t = { u with pc := s.pc + 2 }
    let same := both fun t u => t = u
    let linked := both fun t u => u.readX 1 = s.pc + 4 ∧ t = u.setX 1 (s.pc + 2)
    let access := fun (c e : Instr) (k : Access) (a : Word) =>
      let wrong := s.trapsMisaligned k a 4 = true
      let traps := wrong ∨ (∃ b, s.checkAccess k a 4 = .denied b) ∨
        ∃ b, s.checkAccess k a 4 = .busError b ∧ s.reportsNow = true ∧ (k = .store → s.losesError b = false)
      (traps → same c e) ∧
      (∀ r, ¬ wrong → s.checkAccess k a 4 = .refused r → exec c s = .refused r ∧ exec e s = .refused r) ∧
      (¬ traps → (∀ r, s.checkAccess k a 4 ≠ .refused r) → sequential c e)
    let branch := fun (c e : Instr) (taken : Prop) => (taken → same c e) ∧ (¬ taken → sequential c e)
    sequential (.cAdd rd rs2) (.add rd rd rs2) ∧ sequential (.cMv rd rs2) (.add rd 0 rs2) ∧
    sequential .cNop (.addi 0 0 0) ∧ sequential (.cAddi rd imm) (.addi rd rd imm12) ∧
    sequential (.cLi rd imm) (.addi rd 0 imm12) ∧
    sequential (.cAddi4spn d wide) (.addi D 2 (BitVec.ofNat 12 (4 * wide.toNat))) ∧
    sequential (.cAddi16sp imm) (.addi 2 2 (BitVec.ofInt 12 (16 * imm.toInt))) ∧
    sequential (.cLui rd imm) (.lui rd (imm.signExtend 20)) ∧ sequential (.cAndi d imm) (.andi D D imm12) ∧
    sequential (.cSlli rd sh) (.slli rd rd sh) ∧ sequential (.cSrli d sh) (.srli D D sh) ∧
    sequential (.cSrai d sh) (.srai D D sh) ∧ sequential (.cAnd d d2) (.and D D D2) ∧
    sequential (.cOr d d2) (.or D D D2) ∧ sequential (.cXor d d2) (.xor D D D2) ∧
    sequential (.cSub d d2) (.sub D D D2) ∧
    access (.cLw d d2 sh) (.lw D D2 (BitVec.ofNat 12 (4 * sh.toNat))) .load
      (s.readX D2 + BitVec.ofNat 32 (4 * sh.toNat)) ∧
    access (.cSw d d2 sh) (.sw D D2 (BitVec.ofNat 12 (4 * sh.toNat))) .store
      (s.readX D2 + BitVec.ofNat 32 (4 * sh.toNat)) ∧
    access (.cLwsp rd imm) (.lw rd 2 (BitVec.ofNat 12 (4 * imm.toNat))) .load
      (s.readX 2 + BitVec.ofNat 32 (4 * imm.toNat)) ∧
    access (.cSwsp rs2 imm) (.sw rs2 2 (BitVec.ofNat 12 (4 * imm.toNat))) .store
      (s.readX 2 + BitVec.ofNat 32 (4 * imm.toNat)) ∧
    branch (.cBeqz d wide) (.beq D 0 (wide.signExtend 12)) (s.readX D = 0) ∧
    branch (.cBnez d wide) (.bne D 0 (wide.signExtend 12)) (s.readX D ≠ 0) ∧
    same (.cJ near) (.jal 0 (near.signExtend 20)) ∧ same (.cJr rs1) (.jalr 0 rs1 0) ∧ same .cEbreak .ebreak ∧
    linked (.cJal near) (.jal 1 (near.signExtend 20)) ∧ linked (.cJalr rs1) (.jalr 1 rs1 0)


/-! ## Loads, stores, atomics, devices -/

/-- Loads from memory at a naturally aligned address that the PMP allows and the platform answers: the bytes, little-endian,
sign- or zero-extended, reach `rd`; nothing else changes (rules R141, R290 to R295, R500, R501). The bytes are memory's, unless
the data cache is on again and still holds the line as it was when it was switched off (`State.mayFind`; rules R180, R184;
log 24). -/
def Obligations.LoadResults : Prop :=
  ∀ (s : State) (rd rs1 : Reg) (imm : BitVec 12) (d d2 : CReg) (u5 : BitVec 5) (u6 : BitVec 6), s.mem.wf = true →
    let gives := fun (i : Instr) (a : Word) (n : Nat) (r : Reg) (v : (Word → Byte) → Word) (len : Word) =>
      s.plainAccess .load a n →
        ∃ t g, s.mayFind (touches a n) g ∧ exec i s = .next t ∧ s.gaveX t r (v g) len
    let half := fun a g => BitVec.ofNat 16 (bytesOf g a 2)
    let word := fun a g => BitVec.ofNat 32 (bytesOf g a 4)
    let a := s.readX rs1 + BitVec.ofInt 32 imm.toInt
    let ca := s.readX (BitVec.ofNat 5 (8 + d2.toNat)) + BitVec.ofNat 32 (4 * u5.toNat)
    let sa := s.readX 2 + BitVec.ofNat 32 (4 * u6.toNat)
    gives (.lb rd rs1 imm) a 1 rd (fun g => BitVec.ofInt 32 (g a).toInt) 4 ∧
    gives (.lbu rd rs1 imm) a 1 rd (fun g => BitVec.ofNat 32 (g a).toNat) 4 ∧
    gives (.lh rd rs1 imm) a 2 rd (fun g => BitVec.ofInt 32 (half a g).toInt) 4 ∧
    gives (.lhu rd rs1 imm) a 2 rd (fun g => BitVec.ofNat 32 (half a g).toNat) 4 ∧
    gives (.lw rd rs1 imm) a 4 rd (word a) 4 ∧
    gives (.cLw d d2 u5) ca 4 (BitVec.ofNat 5 (8 + d.toNat)) (word ca) 2 ∧
    gives (.cLwsp rd u6) sa 4 rd (word sa) 2

/-- Stores to memory at a naturally aligned address that the PMP allows and the platform answers: the low bytes of the source,
little-endian, at the computed address; every other byte, every register and everything else that `State.stored` names stays,
but that a line which the data cache kept while it was off may become dirty as it is (`State.wroteBytes`; rules R141, R180,
R181, R290, R296 to R298, R508, R509; log 24). -/
def Obligations.StoreResults : Prop :=
  ∀ (s : State) (rs2 rs1 : Reg) (imm : BitVec 12) (d d2 : CReg) (u5 : BitVec 5) (u6 : BitVec 6), s.mem.wf = true →
    let gives := fun (i : Instr) (a : Word) (n : Nat) (v len : Word) =>
      s.plainAccess .store a n → ∃ t, exec i s = .next t ∧ s.stored t a n (v.setWidth 64) len
    let a := s.readX rs1 + BitVec.ofInt 32 imm.toInt
    gives (.sb rs2 rs1 imm) a 1 (s.readX rs2) 4 ∧
    gives (.sh rs2 rs1 imm) a 2 (s.readX rs2) 4 ∧
    gives (.sw rs2 rs1 imm) a 4 (s.readX rs2) 4 ∧
    gives (.cSw d d2 u5) (s.readX (BitVec.ofNat 5 (8 + d2.toNat)) + BitVec.ofNat 32 (4 * u5.toNat)) 4
      (s.readX (BitVec.ofNat 5 (8 + d.toNat))) 2 ∧
    gives (.cSwsp rs2 u6) (s.readX 2 + BitVec.ofNat 32 (4 * u6.toNat)) 4 (s.readX rs2) 2

/-- A misaligned load or store traps with its address when MM = 0; with MM = 1 the hardware splits it into bytes and it does
what an aligned one does, when every byte is allowed, answered and outside strong-order regions, each byte of a load being
found for itself (log 24); when the first byte is allowed but lies in a strong-order region of the platform, the access is
refused by name (rules R146, R147, U3; log 19). Where bytes fail: a byte that the PMP denies ends the access with its access
fault, and so does a bus error that is reported at the instruction; behind an error that is lost, or that waits, the bytes are
still checked, and the first one that waits is reported later, also when the access has then trapped (rules R147, R160, R172,
R290, R566; the order of the bytes and that one error is reported are the model's choice, logs 16, 18, 19). -/
def Obligations.MisalignedAccess : Prop :=
  ∀ (s : State) (rd rs1 rs2 : Reg) (imm : BitVec 12), s.mem.wf = true →
    let a := s.readX rs1 + BitVec.ofInt 32 imm.toInt
    let loads : List (Instr × Nat × ((Word → Byte) → Word)) :=
      [(.lh rd rs1 imm, 2, fun g => BitVec.ofInt 32 (BitVec.ofNat 16 (bytesOf g a 2)).toInt),
       (.lhu rd rs1 imm, 2, fun g => BitVec.ofNat 32 (bytesOf g a 2)),
       (.lw rd rs1 imm, 4, fun g => BitVec.ofNat 32 (bytesOf g a 4))]
    let stores : List (Instr × Nat) := [(.sh rs2 rs1 imm, 2), (.sw rs2 rs1 imm, 4)]
    let splits := fun (k : Access) (n : Nat) => ∀ i, i < n →
      let b := a + BitVec.ofNat 32 i
      s.pmpAllows k.perm s.dataPriv b = true ∧ inTcip b = false ∧ dataError s.params k b = false ∧
        (attrOf s.params.sysmap b).strongOrder = false
    let at' := fun i : Nat => a + BitVec.ofNat 32 i
    let reaches := fun (k : Access) (i : Nat) => s.pmpAllows k.perm s.dataPriv (at' i) = true ∧ inTcip (at' i) = false ∧
      (attrOf s.params.sysmap (at' i)).strongOrder = false
    let late := !s.aee && s.pins.deferBusError
    let lost := fun (k : Access) (i : Nat) =>
      k == .store && !s.aee && s.pins.loseBusError && (attrOf s.params.sysmap (at' i)).bufferable
    let fails := fun (k : Access) (i : Nat) => dataError s.params k (at' i)
    let passes := fun (k : Access) (i : Nat) => reaches k i ∧ (fails k i = true → late = true ∨ lost k i = true)
    let ends := fun (k : Access) (j : Nat) (bus : Bool) => (∀ i, i < j → passes k i) ∧
      (bus = false ∧ s.pmpAllows k.perm s.dataPriv (at' j) = false ∨
       bus = true ∧ reaches k j ∧ fails k j = true ∧ late = false ∧ lost k j = false)
    let left := fun (k : Access) (j : Nat) => ((List.range j).find? fun i => fails k i && !lost k i).toList.map fun i =>
      ({ store := k == .store, addr := at' i } : BusError)
    let unstated := fun u : State => (∃ v, s.wroteX u rd v) ∧ (s.aee = true → u = s) ∧ u = { s with x := u.x }
    let partly := fun (u : State) (n j : Nat) =>
      u = { s with mem := u.mem, stale := u.stale, dirty := u.dirty, kept := u.kept } ∧
      ∃ g, s.mayFind (touches a n) g ∧ ∀ c : Word, j ≤ (c - a).toNat ∨ dataError s.params .store c = true →
        u.mem.read c.toNat = if s.mhcr.wb = true then g c else s.mem.read c.toNat
    let trapped := fun (u : State) (i : Instr) (code : BitVec 12) (j : Nat) (bus : Bool) => ∃ t, exec i s = .next t ∧
      u.trapped t code (at' j) ∧ (s.mexstatus.exptVld = false → s.mexstatus.nmi = false → t.mexstatus.buserr = bus)
    (∀ l ∈ loads, a.toNat % l.2.1 ≠ 0 → s.mxstatus.mm = true →
      (∀ j bus, j < l.2.1 → ends .load j bus → ∃ u, unstated u ∧ (bus = false → left .load j = [] → u = s) ∧
        trapped { u with busErrors := s.busErrors ++ left .load j } l.1 5 j bus) ∧
      ((∀ i, i < l.2.1 → passes .load i) → left .load l.2.1 ≠ [] → ∃ t u, unstated u ∧ exec l.1 s = .next t ∧
        s.retiredTo t (s.pc + 4) ∧
        t = { u with pc := t.pc, minstret := t.minstret, busErrors := s.busErrors ++ left .load l.2.1 })) ∧
    (∀ l ∈ stores, a.toNat % l.2 ≠ 0 → s.mxstatus.mm = true →
      (∀ j bus, j < l.2 → ends .store j bus → ∃ u, partly u l.2 j ∧
        trapped { u with busErrors := s.busErrors ++ left .store j } l.1 7 j bus) ∧
      ((∀ i, i < l.2 → passes .store i) → (∃ i, i < l.2 ∧ fails .store i = true) → ∃ t u, partly u l.2 l.2 ∧
        exec l.1 s = .next t ∧ s.retiredTo t (s.pc + 4) ∧
        t = { u with
              pc := t.pc, minstret := t.minstret, hpm := (s.countEvent 13 1).hpm,
              busErrors := s.busErrors ++ left .store l.2 })) ∧
    (∀ l ∈ loads, a.toNat % l.2.1 ≠ 0 →
      (s.mxstatus.mm = false → ∃ t, exec l.1 s = .next t ∧ s.trapped t 4 a) ∧
      (s.mxstatus.mm = true → splits .load l.2.1 → ∃ t g, (∀ c, ∃ h, s.mayFind (touches c 1) h ∧ g c = h c) ∧
        exec l.1 s = .next t ∧ s.gaveX t rd (l.2.2 g) 4) ∧
      (s.mxstatus.mm = true → s.pmpAllows .read s.dataPriv a = true → inTcip a = false →
        (attrOf s.params.sysmap a).strongOrder = true → exec l.1 s = .refused (.misalignedDevice a))) ∧
    (∀ l ∈ stores, a.toNat % l.2 ≠ 0 →
      (s.mxstatus.mm = false → ∃ t, exec l.1 s = .next t ∧ s.trapped t 6 a) ∧
      (s.mxstatus.mm = true → splits .store l.2 →
        ∃ t, exec l.1 s = .next t ∧ s.stored t a l.2 ((s.readX rs2).setWidth 64) 4) ∧
      (s.mxstatus.mm = true → s.pmpAllows .write s.dataPriv a = true → inTcip a = false →
        (attrOf s.params.sysmap a).strongOrder = true → exec l.1 s = .refused (.misalignedDevice a)))

/-- A naturally aligned integer load or store that the platform answers with a bus error (rules R66, R144, R172, R566, R567): in
precise mode (AEE = 1) it raises the access fault with BUSERR 1 and its address, and changes no register and no memory; in
imprecise mode a load's destination is free (U15, log 17), the error of a store to a bufferable address that is not strong-order
may be lost (log 18), and any other error is reported at once or waits, as the input says (log 16). The oldest waiting error
raises its access fault at a later boundary, with MEPC the pc of that boundary; inside a handler it locks the core up with that
pc held (rule R590; that pc is the model's choice, log 16). A fetch that gets a bus error raises
InstrAccessFault at once with the address of the halfword, and leaves BUSERR. -/
def Obligations.BusErrorAccess : Prop :=
  (∀ (s : State) (rd rs1 rs2 : Reg) (imm : BitVec 12),
    let a := s.readX rs1 + BitVec.ofInt 32 imm.toInt
    let fails := fun (k : Access) (n : Nat) => a.toNat % n = 0 ∧ inTcip a = false ∧
      s.pmpAllows k.perm s.dataPriv a = true ∧ dataError s.params k a = true
    let loads : List (Instr × Nat) :=
      [(.lb rd rs1 imm, 1), (.lbu rd rs1 imm, 1), (.lh rd rs1 imm, 2), (.lhu rd rs1 imm, 2), (.lw rd rs1 imm, 4)]
    let stores : List (Instr × Nat) := [(.sb rs2 rs1 imm, 1), (.sh rs2 rs1 imm, 2), (.sw rs2 rs1 imm, 4)]
    let lost := s.aee = false ∧ s.pins.loseBusError = true ∧ (attrOf s.params.sysmap a).bufferable = true ∧
      (attrOf s.params.sysmap a).strongOrder = false
    let reported := fun (u : State) (i : Instr) (code : BitVec 12) => ∃ t, exec i s = .next t ∧ u.trapped t code a ∧
      (s.mexstatus.exptVld = false → s.mexstatus.nmi = false → t.mexstatus.buserr = true)
    (∀ l ∈ loads, fails .load l.2 →
      (s.aee = true → reported s l.1 5) ∧
      (s.aee = false → s.pins.deferBusError = false →
        ∃ u v, s.wroteX u rd v ∧ u = { s with x := u.x } ∧ reported u l.1 5) ∧
      (s.aee = false → s.pins.deferBusError = true → ∃ t v, exec l.1 s = .next t ∧
        s.wroteX t rd v ∧ s.retiredTo t (s.pc + 4) ∧ s.sameMemory t ∧
        t = { s with
              x := t.x, pc := t.pc, minstret := t.minstret,
              busErrors := s.busErrors ++ [{ store := false, addr := a }] })) ∧
    (∀ l ∈ stores, fails .store l.2 →
      (lost → ∃ t, exec l.1 s = .next t ∧ s.retiredTo t (s.pc + 4) ∧ s.sameMemory t ∧
        t = { s with pc := t.pc, minstret := t.minstret, hpm := (s.countEvent 13 1).hpm }) ∧
      (¬ lost → s.aee = true ∨ s.pins.deferBusError = false → reported s l.1 7) ∧
      (¬ lost → s.aee = false → s.pins.deferBusError = true → ∃ t, exec l.1 s = .next t ∧
        s.retiredTo t (s.pc + 4) ∧ s.sameMemory t ∧
        t = { s with
              pc := t.pc, minstret := t.minstret, hpm := (s.countEvent 13 1).hpm,
              busErrors := s.busErrors ++ [{ store := true, addr := a }] }))) ∧
  (∀ (s u : State) (e : BusError) (rest : List BusError), s.params.wf = true → u = s.sample → u.pins.reset = false →
    u.lockedUp = false → (u.asleep = true → u.wakes = true) → u.takesNmi = false → u.takenInterrupt = none →
    u.pins.deferBusError = false → u.busErrors = e :: rest →
    (u.mexstatus.exptVld = false → u.mexstatus.nmi = false →
      ∃ t, step s = .next t ∧ t.mcause = { u.mcause with interrupt := false, code := if e.store = true then 7 else 5 } ∧
        t.mepc = u.pc ∧ t.mtval = e.addr ∧ t.mexstatus = { u.mexstatus with exptVld := true, buserr := true } ∧
        t.priv = .machine ∧ t.pc = u.readCsr .mtvec &&& 0xFFFFFFC0 ∧ t.busErrors = rest ∧ t.x = u.x ∧ t.mem = u.mem) ∧
    (u.mexstatus.exptVld = true ∨ u.mexstatus.nmi = true →
      ∃ t, step s = .next t ∧ { u with asleep := false, busErrors := rest }.heldAt t u.pc)) ∧
  (∀ s u : State, s.params.wf = true → u = { s.sample with asleep := false } →
    u.pins.reset = false → u.lockedUp = false → (s.sample.asleep = true → s.sample.wakes = true) →
    u.takesNmi = false → u.takenInterrupt = none → u.reportedBusError = none →
    let fails := fun b : Word => u.pmpAllows .execute u.priv b = true ∧ inTcip b = false ∧ fetchError u.params b = true
    let raises := fun b : Word => ∃ t, step s = .next t ∧ u.trapped t 1 b ∧ t.mexstatus.buserr = u.mexstatus.buserr
    (fails u.pc → raises u.pc) ∧
    (∀ h, u.fetchHalf u.priv u.pc = .ok h → isLong h = true → fails (u.pc + 2) → raises (u.pc + 2)))

/-- The nine AMOs at an aligned address that the PMP allows and the platform answers: `rd` takes the old word, memory the
combination of the old word with `x[rs2]`, both taken before anything is written; aq and rl change nothing; whether
MHPMCOUNTER13 counts the store is free (log 12). The old word and the rest of the line are those that a load may find
(log 24). At a misaligned address they trap whatever MM is (rules R351 to R359, R362 to R364). -/
def Obligations.AmoResults : Prop :=
  ∀ (s : State) (aq rl : BitVec 1) (rd rs1 rs2 : Reg), s.mem.wf = true →
    let a := s.readX rs1
    let b := s.readX rs2
    let gives := fun (i : Instr) (w : Word → Word) =>
      (s.plainAccess .amo a 4 → ∃ t g, s.mayFind (touches a 4) g ∧ exec i s = .next t ∧
        (let old := BitVec.ofNat 32 (bytesOf g a 4)
         s.wroteX t rd old ∧ s.wroteBytes t g a 4 ((w old).setWidth 64)) ∧
        s.retiredTo t (s.pc + 4) ∧ (t.hpm = s.hpm ∨ t.hpm = (s.countEvent 13 1).hpm) ∧
        t = { s with
              x := t.x, mem := t.mem, stale := t.stale, dirty := t.dirty, kept := t.kept, hpm := t.hpm, pc := t.pc,
              minstret := t.minstret }) ∧
      (a.toNat % 4 ≠ 0 → ∃ t, exec i s = .next t ∧ s.trapped t 6 a)
    gives (.amoaddW aq rl rd rs1 rs2) (fun old => BitVec.ofNat 32 (old.toNat + b.toNat)) ∧
    gives (.amoandW aq rl rd rs1 rs2) (fun old => BitVec.ofNat 32 (old.toNat &&& b.toNat)) ∧
    gives (.amoorW aq rl rd rs1 rs2) (fun old => BitVec.ofNat 32 (old.toNat ||| b.toNat)) ∧
    gives (.amoxorW aq rl rd rs1 rs2) (fun old => BitVec.ofNat 32 (old.toNat ^^^ b.toNat)) ∧
    gives (.amoswapW aq rl rd rs1 rs2) (fun _ => b) ∧
    gives (.amomaxW aq rl rd rs1 rs2) (fun old => BitVec.ofInt 32 (max old.toInt b.toInt)) ∧
    gives (.amominW aq rl rd rs1 rs2) (fun old => BitVec.ofInt 32 (min old.toInt b.toInt)) ∧
    gives (.amomaxuW aq rl rd rs1 rs2) (fun old => BitVec.ofNat 32 (max old.toNat b.toNat)) ∧
    gives (.amominuW aq rl rd rs1 rs2) (fun old => BitVec.ofNat 32 (min old.toNat b.toNat))

/-- LR.W loads the word and reserves its address; SC.W ends every reservation and stores only when the reservation was for its
address, giving 0 then and 1 otherwise; with the reservation it may still fail (D41, log 14). Whether MHPMCOUNTER13 counts it
is free, also when it fails (log 12). The word, and the rest of the line stored to, are those that a load may find (log 24).
At a misaligned address both trap (rules R179, R352, R360, R361). -/
def Obligations.LoadReservedStoreConditional : Prop :=
  ∀ (s : State) (aq rl : BitVec 1) (rd rs1 rs2 : Reg), s.mem.wf = true →
    let a := s.readX rs1
    let fails := fun t : State => s.wroteX t rd 1 ∧ s.sameMemory t ∧ s.retiredTo t (s.pc + 4) ∧
      (t.hpm = s.hpm ∨ t.hpm = (s.countEvent 13 1).hpm) ∧
      t = { s with x := t.x, hpm := t.hpm, reservation := none, pc := t.pc, minstret := t.minstret }
    let stores := fun t : State => s.wroteX t rd 0 ∧
      (∃ g, s.mayFind (touches a 4) g ∧ s.wroteBytes t g a 4 ((s.readX rs2).setWidth 64)) ∧
      s.retiredTo t (s.pc + 4) ∧ (t.hpm = s.hpm ∨ t.hpm = (s.countEvent 13 1).hpm) ∧
      t = { s with
            x := t.x, mem := t.mem, stale := t.stale, dirty := t.dirty, kept := t.kept, hpm := t.hpm,
            reservation := none, pc := t.pc, minstret := t.minstret }
    (s.plainAccess .loadReserved a 4 → ∃ t g, s.mayFind (touches a 4) g ∧ exec (.lrW aq rl rd rs1) s = .next t ∧
      s.wroteX t rd (BitVec.ofNat 32 (bytesOf g a 4)) ∧ s.sameMemory t ∧ s.retiredTo t (s.pc + 4) ∧
      t = { s with x := t.x, reservation := some a, pc := t.pc, minstret := t.minstret }) ∧
    (s.plainAccess .storeConditional a 4 → ∃ t, exec (.scW aq rl rd rs1 rs2) s = .next t ∧
      (s.reservation ≠ some a → fails t) ∧ (s.reservation = some a → fails t ∨ stores t)) ∧
    (a.toNat % 4 ≠ 0 → (∃ t, exec (.lrW aq rl rd rs1) s = .next t ∧ s.trapped t 4 a) ∧
      ∃ t, exec (.scW aq rl rd rs1 rs2) s = .next t ∧ s.trapped t 6 a)

/-- Word accesses to the CLINT's and the CLIC's word registers and byte accesses to the four bytes of each interrupt, with
machine mode as the effective privilege: what stores change and what loads give (rules R661 to R664, R671 to R677, R679). A
store that clears IP leaves it free when the selected edge arrives in the same step (U17, log 35), and a trigger that becomes
edge leaves it free (log 34). With user mode every aligned load, store and atomic to the window is denied (rules R665, R679;
D66); a halfword access to the CLINT is refused by name (U16). -/
def Obligations.DeviceRegisters : Prop :=
  ∀ (s : State) (aq rl : BitVec 1) (rd rs1 rs2 fd : Reg) (imm : BitVec 12),
    let a := s.readX rs1 + BitVec.ofInt 32 imm.toInt
    let v := s.readX rs2
    let wrote := fun (i : Instr) (u : State) => ∃ t, exec i s = .next t ∧
      s.retiredTo t (s.pc + 4) ∧ t = { u with hpm := (s.countEvent 13 1).hpm, pc := t.pc, minstret := t.minstret }
    let sources := fun (i : Nat) (g : ClicSource → ClicSource) =>
      { s with clic := { s.clic with sources := s.clic.sources.map fun c => if c.id = i then g c else c } }
    let gives := fun (i : Instr) (w : Word) => ∃ t, exec i s = .next t ∧ s.gaveX t rd w 4
    (s.dataPriv = .machine → s.pmpAllows .write .machine a = true →
      (a = 0xE0000000 → wrote (.sw rs2 rs1 imm) { s with clint := { s.clint with msip := v.getLsbD 0 } }) ∧
      (a = 0xE0004000 → wrote (.sw rs2 rs1 imm)
        { s with clint := { s.clint with
                            mtimecmp := BitVec.ofNat 64 (s.clint.mtimecmp.toNat / 2 ^ 32 * 2 ^ 32 + v.toNat) } }) ∧
      (a = 0xE0004004 → wrote (.sw rs2 rs1 imm)
        { s with clint := { s.clint with
                            mtimecmp := BitVec.ofNat 64 (v.toNat * 2 ^ 32 + s.clint.mtimecmp.toNat % 2 ^ 32) } }) ∧
      (a = 0xE000BFF8 ∨ a = 0xE000BFFC ∨ a = 0xE0800004 → wrote (.sw rs2 rs1 imm) s) ∧
      (a = 0xE0800000 → wrote (.sw rs2 rs1 imm) { s with clic := { s.clic with nlbits := v.extractLsb' 1 4 } }) ∧
      (a = 0xE0800008 → wrote (.sw rs2 rs1 imm) { s with clic := { s.clic with mth := v.extractLsb' 24 8 } }) ∧
      (∀ i, i < 4096 →
        (a = 0xE0801000 + BitVec.ofNat 32 (4 * i) → v.getLsbD 0 = true → wrote (.sb rs2 rs1 imm)
          (sources i fun c => if c.edgeMode = true then { c with ip := true } else c)) ∧
        (a = 0xE0801000 + BitVec.ofNat 32 (4 * i) → v.getLsbD 0 = false → ∃ late : Bool, wrote (.sb rs2 rs1 imm)
          (sources i fun c => if c.edgeMode = true then { c with ip := c.edge && late } else c)) ∧
        (a = 0xE0801001 + BitVec.ofNat 32 (4 * i) → wrote (.sb rs2 rs1 imm)
          (sources i fun c => { c with ie := v.getLsbD 0 })) ∧
        (a = 0xE0801002 + BitVec.ofNat 32 (4 * i) → ∃ pending : Bool, wrote (.sb rs2 rs1 imm)
          (sources i fun c =>
            { c with
              trig := v.extractLsb' 1 2, shv := v.getLsbD 0,
              ip := if c.edgeMode = false ∧ v.getLsbD 1 = true then pending else c.ip })) ∧
        (a = 0xE0801003 + BitVec.ofNat 32 (4 * i) → wrote (.sb rs2 rs1 imm)
          (sources i fun c => { c with ctl := v.extractLsb' 0 8 ||| ctlTied s.params })))) ∧
    (s.dataPriv = .machine → s.pmpAllows .read .machine a = true →
      (a = 0xE0000000 → gives (.lw rd rs1 imm) (if s.clint.msip then 1 else 0)) ∧
      (a = 0xE0004000 → gives (.lw rd rs1 imm) (BitVec.ofNat 32 (s.clint.mtimecmp.toNat % 2 ^ 32))) ∧
      (a = 0xE0004004 → gives (.lw rd rs1 imm) (BitVec.ofNat 32 (s.clint.mtimecmp.toNat / 2 ^ 32))) ∧
      (a = 0xE000BFF8 → gives (.lw rd rs1 imm) (BitVec.ofNat 32 (s.mtime.toNat % 2 ^ 32))) ∧
      (a = 0xE000BFFC → gives (.lw rd rs1 imm) (BitVec.ofNat 32 (s.mtime.toNat / 2 ^ 32))) ∧
      (a = 0xE0800000 → gives (.lw rd rs1 imm) (BitVec.ofNat 32 (s.clic.nlbits.toNat * 2 + 1))) ∧
      (a = 0xE0800004 → s.params.wf = true → gives (.lw rd rs1 imm)
        (BitVec.ofNat 32 (s.params.clicIntCtlBits * 2 ^ 21 + s.params.clicVersion.toNat * 2 ^ 13 + (16 + s.params.clicNumInt)))) ∧
      (a = 0xE0800008 → gives (.lw rd rs1 imm) (BitVec.ofNat 32 (s.clic.mth.toNat * 2 ^ 24))) ∧
      (∀ i, i < 4096 →
        let c := s.clic.sources.find? fun c => c.id == i
        (a = 0xE0801000 + BitVec.ofNat 32 (4 * i) →
          gives (.lbu rd rs1 imm) (match c with | some c => if c.ip then 1 else 0 | none => 0)) ∧
        (a = 0xE0801001 + BitVec.ofNat 32 (4 * i) →
          gives (.lbu rd rs1 imm) (match c with | some c => if c.ie then 1 else 0 | none => 0)) ∧
        (a = 0xE0801002 + BitVec.ofNat 32 (4 * i) →
          gives (.lbu rd rs1 imm)
            (match c with
             | some c => BitVec.ofNat 32 (0xC0 + c.trig.toNat * 2 + if c.shv then 1 else 0)
             | none => 0)) ∧
        (a = 0xE0801003 + BitVec.ofNat 32 (4 * i) →
          gives (.lbu rd rs1 imm) (match c with | some c => BitVec.ofNat 32 c.ctl.toNat | none => 0)))) ∧
    (s.dataPriv = .user →
      let loads : List (Instr × Nat) :=
        [(.lb rd rs1 imm, 1), (.lbu rd rs1 imm, 1), (.lh rd rs1 imm, 2), (.lhu rd rs1 imm, 2), (.lw rd rs1 imm, 4)] ++
          (if s.fpEnabled = true then [(.flw fd rs1 imm, 4)] else []) ++
          if s.fpEnabledD = true then [(.fld fd rs1 imm, 8)] else []
      let stores : List (Instr × Nat) :=
        [(.sb rs2 rs1 imm, 1), (.sh rs2 rs1 imm, 2), (.sw rs2 rs1 imm, 4)] ++
          (if s.fpEnabled = true then [(.fsw fd rs1 imm, 4)] else []) ++
          if s.fpEnabledD = true then [(.fsd fd rs1 imm, 8)] else []
      (inTcip a = true →
        (∀ l ∈ loads, a.toNat % l.2 = 0 → ∃ t, exec l.1 s = .next t ∧ s.trapped t 5 a) ∧
        ∀ l ∈ stores, a.toNat % l.2 = 0 → ∃ t, exec l.1 s = .next t ∧ s.trapped t 7 a) ∧
      (inTcip (s.readX rs1) = true → (s.readX rs1).toNat % 4 = 0 →
        (∃ t, exec (.lrW aq rl rd rs1) s = .next t ∧ s.trapped t 5 (s.readX rs1)) ∧
        ∀ i ∈ [Instr.scW aq rl rd rs1 rs2, .amoaddW aq rl rd rs1 rs2, .amoandW aq rl rd rs1 rs2, .amoorW aq rl rd rs1 rs2,
            .amoxorW aq rl rd rs1 rs2, .amoswapW aq rl rd rs1 rs2, .amomaxW aq rl rd rs1 rs2,
            .amomaxuW aq rl rd rs1 rs2, .amominW aq rl rd rs1 rs2, .amominuW aq rl rd rs1 rs2],
          ∃ t, exec i s = .next t ∧ s.trapped t 7 (s.readX rs1))) ∧
    (s.dataPriv = .machine → s.pmpAllows .read .machine a = true → a = 0xE0000000 →
      exec (.lhu rd rs1 imm) s = .refused (.deviceAccess a))


/-! ## Floating point -/

/-- The single-precision instructions but loads and stores, enabled: the operands are the boxed values (rule R381), the result
of the named operation reaches its register, its flags are accrued, FS turns dirty when a floating-point register or a flag is
written, and nothing else changes. What the operations give is said by the statements below (rules R380 to R384, R390 to R399,
R401 to R414; D14, D48, D49). -/
def Obligations.SingleResults : Prop :=
  ∀ (s : State) (rm : BitVec 3) (m : Rounding) (r fs1 fs2 fs3 rs1 : Reg),
    s.params.fpu ≠ .none → s.mstatus.fs ≠ 0 → s.rounding rm = some m →
    let val := fun q : Reg =>
      if s.params.fpu = .double ∧ (s.readF q).extractLsb' 32 32 ≠ BitVec.allOnes 32 then 0x7FC00000
      else (s.readF q).toNat % 2 ^ 32
    let a := val fs1
    let b := val fs2
    let c := val fs3
    let box := fun v : Word => if s.params.fpu = .double then (BitVec.allOnes 32 ++ v : BitVec 64) else v.setWidth 64
    let float := fun (i : Instr) (v : FpResult) => ∃ t, exec i s = .next t ∧ s.gaveF t r (box (BitVec.ofNat 32 v.bits)) v.flags
    let int := fun (i : Instr) (v : Word) (fl : BitVec 5) => ∃ t, exec i s = .next t ∧ s.gaveXF t r v fl
    let sign := fun n : Nat => decide (2 ^ 31 ≤ n)
    let injected := fun n : Bool => { bits := a % 2 ^ 31 + if n then 2 ^ 31 else 0, flags := 0 : FpResult }
    let bool := fun (i : Instr) (v : Bool × BitVec 5) => int i (if v.1 then 1 else 0) v.2
    float (.faddS rm r fs1 fs2) (b32.add m a b) ∧ float (.fsubS rm r fs1 fs2) (b32.sub m a b) ∧
    float (.fmulS rm r fs1 fs2) (b32.mul m a b) ∧ float (.fdivS rm r fs1 fs2) (b32.div m a b) ∧
    float (.fsqrtS rm r fs1) (b32.sqrt m a) ∧
    float (.fmaddS rm r fs1 fs2 fs3) (b32.fused false false m a b c) ∧
    float (.fmsubS rm r fs1 fs2 fs3) (b32.fused false true m a b c) ∧
    float (.fnmsubS rm r fs1 fs2 fs3) (b32.fused true false m a b c) ∧
    float (.fnmaddS rm r fs1 fs2 fs3) (b32.fused true true m a b c) ∧
    float (.fcvtSW rm r rs1) (b32.ofInt m (s.readX rs1).toInt) ∧
    float (.fcvtSWu rm r rs1) (b32.ofInt m (s.readX rs1).toNat) ∧
    float (.fsgnjS r fs1 fs2) (injected (sign b)) ∧ float (.fsgnjnS r fs1 fs2) (injected !(sign b)) ∧
    float (.fsgnjxS r fs1 fs2) (injected (sign a != sign b)) ∧
    float (.fminS r fs1 fs2) (b32.min a b) ∧ float (.fmaxS r fs1 fs2) (b32.max a b) ∧
    float (.fmvWX r rs1) { bits := (s.readX rs1).toNat, flags := 0 } ∧
    bool (.feqS r fs1 fs2) (b32.eq a b) ∧ bool (.fltS r fs1 fs2) (b32.lt a b) ∧ bool (.fleS r fs1 fs2) (b32.le a b) ∧
    int (.fclassS r fs1) (b32.classify a) 0 ∧
    int (.fcvtWS rm r fs1) (BitVec.ofInt 32 (b32.toInt (-2 ^ 31) (2 ^ 31 - 1) m a).1)
      (b32.toInt (-2 ^ 31) (2 ^ 31 - 1) m a).2 ∧
    int (.fcvtWuS rm r fs1) (BitVec.ofInt 32 (b32.toInt 0 (2 ^ 32 - 1) m a).1) (b32.toInt 0 (2 ^ 32 - 1) m a).2 ∧
    int (.fmvXW r fs1) (BitVec.ofNat 32 ((s.readF fs1).toNat % 2 ^ 32)) 0

/-- The double-precision instructions but loads and stores, enabled, in the same way: operands and results are whole registers;
FCVT.D.S reads and FCVT.S.D writes a boxed single (rules R430, R440 to R449, R451 to R459, R461 to R465; D51). -/
def Obligations.DoubleResults : Prop :=
  ∀ (s : State) (rm : BitVec 3) (m : Rounding) (r fs1 fs2 fs3 rs1 : Reg),
    s.params.fpu = .double → s.mstatus.fs ≠ 0 → s.rounding rm = some m →
    let a := (s.readF fs1).toNat
    let b := (s.readF fs2).toNat
    let c := (s.readF fs3).toNat
    let single := if a / 2 ^ 32 = 2 ^ 32 - 1 then a % 2 ^ 32 else 0x7FC00000
    let float := fun (i : Instr) (v : FpResult) => ∃ t, exec i s = .next t ∧ s.gaveF t r (BitVec.ofNat 64 v.bits) v.flags
    let int := fun (i : Instr) (v : Word) (fl : BitVec 5) => ∃ t, exec i s = .next t ∧ s.gaveXF t r v fl
    let sign := fun n : Nat => decide (2 ^ 63 ≤ n)
    let injected := fun n : Bool => { bits := a % 2 ^ 63 + if n then 2 ^ 63 else 0, flags := 0 : FpResult }
    let bool := fun (i : Instr) (v : Bool × BitVec 5) => int i (if v.1 then 1 else 0) v.2
    float (.faddD rm r fs1 fs2) (b64.add m a b) ∧ float (.fsubD rm r fs1 fs2) (b64.sub m a b) ∧
    float (.fmulD rm r fs1 fs2) (b64.mul m a b) ∧ float (.fdivD rm r fs1 fs2) (b64.div m a b) ∧
    float (.fsqrtD rm r fs1) (b64.sqrt m a) ∧
    float (.fmaddD rm r fs1 fs2 fs3) (b64.fused false false m a b c) ∧
    float (.fmsubD rm r fs1 fs2 fs3) (b64.fused false true m a b c) ∧
    float (.fnmsubD rm r fs1 fs2 fs3) (b64.fused true false m a b c) ∧
    float (.fnmaddD rm r fs1 fs2 fs3) (b64.fused true true m a b c) ∧
    float (.fcvtDW rm r rs1) (b64.ofInt m (s.readX rs1).toInt) ∧
    float (.fcvtDWu rm r rs1) (b64.ofInt m (s.readX rs1).toNat) ∧
    float (.fcvtDS rm r fs1) (b64.convert b32 m single) ∧
    (∃ t, exec (.fcvtSD rm r fs1) s = .next t ∧
      s.gaveF t r (BitVec.allOnes 32 ++ BitVec.ofNat 32 (b32.convert b64 m a).bits) (b32.convert b64 m a).flags) ∧
    float (.fsgnjD r fs1 fs2) (injected (sign b)) ∧ float (.fsgnjnD r fs1 fs2) (injected !(sign b)) ∧
    float (.fsgnjxD r fs1 fs2) (injected (sign a != sign b)) ∧
    float (.fminD r fs1 fs2) (b64.min a b) ∧ float (.fmaxD r fs1 fs2) (b64.max a b) ∧
    bool (.feqD r fs1 fs2) (b64.eq a b) ∧ bool (.fltD r fs1 fs2) (b64.lt a b) ∧ bool (.fleD r fs1 fs2) (b64.le a b) ∧
    int (.fclassD r fs1) (b64.classify a) 0 ∧
    int (.fcvtWD rm r fs1) (BitVec.ofInt 32 (b64.toInt (-2 ^ 31) (2 ^ 31 - 1) m a).1)
      (b64.toInt (-2 ^ 31) (2 ^ 31 - 1) m a).2 ∧
    int (.fcvtWuD rm r fs1) (BitVec.ofInt 32 (b64.toInt 0 (2 ^ 32 - 1) m a).1) (b64.toInt 0 (2 ^ 32 - 1) m a).2

/-- The floating-point loads and stores, enabled: raw bits at an aligned address that the PMP allows and the platform answers,
the two words of FLD and FSD being allowed alike (R166); with MM = 0 a misaligned address traps, and a denied aligned one traps
with nothing stored (rules R386, R400, R415, R431, R450, R460). The bytes loaded, each word of FLD for itself, and those around
the bytes stored are those that a load or store may find (log 24). -/
def Obligations.FloatLoadsAndStores : Prop :=
  ∀ (s : State) (r rs1 : Reg) (imm : BitVec 12), s.mem.wf = true → s.params.fpu ≠ .none → s.mstatus.fs ≠ 0 →
    let a := s.readX rs1 + BitVec.ofInt 32 imm.toInt
    let word := fun (g : Word → Byte) (b : Word) => BitVec.ofNat 32 (bytesOf g b 4)
    let traps := fun (i : Instr) (code : BitVec 12) => ∃ t, exec i s = .next t ∧ s.trapped t code a
    (s.plainAccess .load a 4 → ∃ t g, s.mayFind (touches a 4) g ∧ exec (.flw r rs1 imm) s = .next t ∧
      s.gaveF t r
        (if s.params.fpu = .double then (BitVec.allOnes 32 ++ word g a : BitVec 64) else (word g a).setWidth 64) 0) ∧
    (s.plainAccess .store a 4 → ∃ t, exec (.fsw r rs1 imm) s = .next t ∧ s.stored t a 4 (s.readF r) 4) ∧
    (a.toNat % 4 ≠ 0 → s.mxstatus.mm = false → traps (.flw r rs1 imm) 4 ∧ traps (.fsw r rs1 imm) 6) ∧
    (a.toNat % 4 = 0 → s.pmpAllows .read s.dataPriv a = false → traps (.flw r rs1 imm) 5) ∧
    (a.toNat % 4 = 0 → s.pmpAllows .write s.dataPriv a = false → traps (.fsw r rs1 imm) 7) ∧
    (s.params.fpu = .double →
      (s.plainAccess .load a 8 → dataError s.params .load (a + 4) = false →
        ∃ t g h, s.mayFind (touches a 4) g ∧ s.mayFind (touches (a + 4) 4) h ∧ exec (.fld r rs1 imm) s = .next t ∧
          s.gaveF t r (word h (a + 4) ++ word g a) 0) ∧
      (s.plainAccess .store a 8 → dataError s.params .store (a + 4) = false → ∃ t, exec (.fsd r rs1 imm) s = .next t ∧
        s.stored t a 8 (s.readF r) 4) ∧
      (a.toNat % 8 ≠ 0 → s.mxstatus.mm = false → traps (.fld r rs1 imm) 4 ∧ traps (.fsd r rs1 imm) 6) ∧
      (a.toNat % 8 = 0 → s.pmpAllows .read s.dataPriv a = false → traps (.fld r rs1 imm) 5) ∧
      (a.toNat % 8 = 0 → s.pmpAllows .write s.dataPriv a = false → traps (.fsd r rs1 imm) 7))

/-- A floating-point instruction is illegal without its unit or with FS = 00, and one with a rounding mode also when its field
is 101 or 110, or 111 while FCSR.RM is 5 to 7; MTVAL takes the instruction word. The fields 000 to 100 select their mode, 111
the one of FCSR (rules R380, R382, R383, R430; D47). -/
def Obligations.FloatIllegal : Prop :=
  ∀ (s : State) (rm : BitVec 3) (r q fs1 fs2 fs3 : Reg) (imm : BitVec 12),
    let traps := fun i : Instr => ∃ t, exec i s = .next t ∧ s.trapped t 2 (encode i).value
    let reserved := rm.toNat = 5 ∨ rm.toNat = 6 ∨ rm.toNat = 7 ∧ 5 ≤ s.fcsr.frm.toNat
    let roundedS : List Instr :=
      [.faddS rm r fs1 fs2, .fsubS rm r fs1 fs2, .fmulS rm r fs1 fs2, .fdivS rm r fs1 fs2, .fsqrtS rm r fs1,
       .fmaddS rm r fs1 fs2 fs3, .fmsubS rm r fs1 fs2 fs3, .fnmsubS rm r fs1 fs2 fs3, .fnmaddS rm r fs1 fs2 fs3,
       .fcvtSW rm r q, .fcvtSWu rm r q, .fcvtWS rm r fs1, .fcvtWuS rm r fs1]
    let plainS : List Instr :=
      [.fsgnjS r fs1 fs2, .fsgnjnS r fs1 fs2, .fsgnjxS r fs1 fs2, .fminS r fs1 fs2, .fmaxS r fs1 fs2, .feqS r fs1 fs2,
       .fltS r fs1 fs2, .fleS r fs1 fs2, .fclassS r fs1, .fmvWX r q, .fmvXW r fs1, .flw r q imm, .fsw r q imm]
    let roundedD : List Instr :=
      [.faddD rm r fs1 fs2, .fsubD rm r fs1 fs2, .fmulD rm r fs1 fs2, .fdivD rm r fs1 fs2, .fsqrtD rm r fs1,
       .fmaddD rm r fs1 fs2 fs3, .fmsubD rm r fs1 fs2 fs3, .fnmsubD rm r fs1 fs2 fs3, .fnmaddD rm r fs1 fs2 fs3,
       .fcvtDW rm r q, .fcvtDWu rm r q, .fcvtWD rm r fs1, .fcvtWuD rm r fs1, .fcvtDS rm r fs1, .fcvtSD rm r fs1]
    let plainD : List Instr :=
      [.fsgnjD r fs1 fs2, .fsgnjnD r fs1 fs2, .fsgnjxD r fs1 fs2, .fminD r fs1 fs2, .fmaxD r fs1 fs2, .feqD r fs1 fs2,
       .fltD r fs1 fs2, .fleD r fs1 fs2, .fclassD r fs1, .fld r q imm, .fsd r q imm]
    (s.params.fpu = .none ∨ s.mstatus.fs = 0 → ∀ i ∈ roundedS ++ plainS, traps i) ∧
    (s.params.fpu ≠ .double ∨ s.mstatus.fs = 0 → ∀ i ∈ roundedD ++ plainD, traps i) ∧
    (reserved → ∀ i ∈ roundedS ++ roundedD, traps i) ∧
    (¬ reserved → s.rounding rm = [some Rounding.rne, some .rtz, some .rdn, some .rup, some .rmm].getD
      (if rm.toNat = 7 then s.fcsr.frm.toNat else rm.toNat) none ∧ s.rounding rm ≠ none)

/-- NaNs, infinities, zeros and division by zero in the arithmetic operations of both formats, with their flags (rule R384): a
NaN result is the canonical one, NV is raised by signalling operands and invalid operations, DZ by a finite nonzero dividend
over zero; an infinite operand gives an infinity or, against the other infinity or a zero, an invalid operation, in the fused
forms too; an exact zero sum of unlike signs is +0, or -0 toward minus infinity, in the fused forms too (rules R390, R401, R404,
R408, R409, R414). -/
def Obligations.FloatSpecialValues : Prop :=
  ∀ F ∈ [b32, b64], ∀ (m : Rounding) (a b c : Nat) (np na : Bool), F.isPattern a → F.isPattern b → F.isPattern c →
    let neg := fun n : Nat => decide (F.signBit ≤ n)
    let signed := fun (n : Bool) (mag : Nat) => mag + if n then F.signBit else 0
    let product := signed (neg a != neg b)
    let zero := fun n : Nat => n % F.signBit = 0
    let nv : BitVec 5 := 0b10000
    let invalid : FpResult := { bits := F.nan, flags := nv }
    let clean := fun bits : Nat => ({ bits := bits, flags := 0 } : FpResult)
    F.nan = (2 ^ (F.expBits + 1) - 1) * 2 ^ (F.fracBits - 1) ∧
    (F.nanPattern a ∨ F.nanPattern b → ∀ v ∈ [F.add m a b, F.sub m a b, F.mul m a b, F.div m a b],
      v.bits = F.nan ∧ (F.signalling a ∨ F.signalling b → v.flags = nv) ∧
        (¬ F.signalling a → ¬ F.signalling b → v.flags = 0)) ∧
    (F.nanPattern a → (F.sqrt m a).bits = F.nan ∧ (F.signalling a → (F.sqrt m a).flags = nv) ∧
      (¬ F.signalling a → (F.sqrt m a).flags = 0)) ∧
    (F.isInf a ∧ zero b ∨ zero a ∧ F.isInf b → F.mul m a b = invalid ∧ F.fused np na m a b c = invalid) ∧
    (F.nanPattern a ∨ F.nanPattern b ∨ F.nanPattern c → ¬ (F.isInf a ∧ zero b) → ¬ (zero a ∧ F.isInf b) →
      (F.fused np na m a b c).bits = F.nan ∧
        (F.signalling a ∨ F.signalling b ∨ F.signalling c → (F.fused np na m a b c).flags = nv) ∧
        (¬ F.signalling a → ¬ F.signalling b → ¬ F.signalling c → (F.fused np na m a b c).flags = 0)) ∧
    (let ps := (neg a != neg b) != np
     let cs := neg c != na
     (F.isInf a ∧ ¬ F.nanPattern b ∧ ¬ zero b ∨ F.isInf b ∧ ¬ F.nanPattern a ∧ ¬ zero a →
       (F.isFinite c → F.fused np na m a b c = clean (signed ps F.infBits)) ∧
       (F.isInf c → F.fused np na m a b c = if ps = cs then clean (signed ps F.infBits) else invalid)) ∧
     (F.isFinite a → F.isFinite b → F.isInf c → F.fused np na m a b c = clean (signed cs F.infBits)) ∧
     (F.isFinite a → F.isFinite b → F.isFinite c →
       (if np then -1 else 1) * (F.value a * F.value b) + (if na then -1 else 1) * F.value c = 0 →
       F.fused np na m a b c = clean (signed (if ps = cs then ps else m == .rdn) 0))) ∧
    (F.isInf a → F.isInf b →
      F.add m a b = (if neg a = neg b then clean a else invalid) ∧
      F.sub m a b = (if neg a = neg b then invalid else clean a) ∧
      F.mul m a b = clean (product F.infBits) ∧ F.div m a b = invalid) ∧
    (F.isInf a → F.isFinite b → F.add m a b = clean a ∧ F.sub m a b = clean a ∧ F.add m b a = clean a ∧
      F.sub m b a = clean (signed (!neg a) F.infBits) ∧ F.div m a b = clean (product F.infBits) ∧
      F.div m b a = clean (product 0) ∧
      (¬ zero b → F.mul m a b = clean (product F.infBits) ∧ F.mul m b a = clean (product F.infBits))) ∧
    (F.isFinite a → zero b → F.div m a b =
      if a % F.signBit = 0 then invalid else { bits := product F.infBits, flags := 0b01000 }) ∧
    (F.isFinite a → neg a = true → ¬ zero a → F.sqrt m a = invalid) ∧ (zero a → F.sqrt m a = clean a) ∧
    (F.isInf a → F.sqrt m a = if neg a = true then invalid else clean a) ∧
    (F.isFinite a → F.isFinite b → F.value a + F.value b = 0 →
      F.add m a b = clean (signed (if neg a = neg b then neg a else m == .rdn) 0)) ∧
    (F.isFinite a → F.isFinite b → F.value a = F.value b →
      F.sub m a b = clean (signed (if neg a = !neg b then neg a else m == .rdn) 0)) ∧
    (F.isFinite a → F.isFinite b → zero a ∨ zero b → F.mul m a b = clean (product 0)) ∧
    (zero a → F.isFinite b → ¬ zero b → F.div m a b = clean (product 0))

/-- Sums, differences, products, quotients and fused forms of finite numbers are the exact rational result rounded once, in
every mode, with exactly the flags that the rounding raises (rules R382, R384); a square root is the nearest number on the
side that the mode asks for. The value of a pattern is read from its fields (`Fmt.value`). -/
def Obligations.FloatRoundsExactResult : Prop :=
  ∀ F ∈ [b32, b64], ∀ (m : Rounding) (a b c : Nat), F.isFinite a → F.isFinite b → F.isFinite c →
    let x := F.value a
    let y := F.value b
    let z := F.value c
    F.roundsTo m (x + y) (F.add m a b) ∧ F.roundsTo m (x - y) (F.sub m a b) ∧ F.roundsTo m (x * y) (F.mul m a b) ∧
    (y ≠ 0 → F.roundsTo m (x / y) (F.div m a b)) ∧
    F.roundsTo m (x * y + z) (F.fused false false m a b c) ∧ F.roundsTo m (x * y - z) (F.fused false true m a b c) ∧
    F.roundsTo m (-(x * y) + z) (F.fused true false m a b c) ∧
    F.roundsTo m (-(x * y) - z) (F.fused true true m a b c) ∧
    (0 ≤ x →
      let r := F.sqrt m a
      let v := F.value r.bits
      let far := fun q : ℚ => |(q : ℝ) - Real.sqrt (x : ℝ)|
      F.isFinite r.bits ∧ 0 ≤ v ∧ r.flags = (if v ^ 2 = x then 0 else 0b00001) ∧
        (m = .rdn ∨ m = .rtz → v ^ 2 ≤ x ∧ ∀ w, F.isFinite w → F.value w ^ 2 ≤ x → F.value w ≤ v) ∧
        (m = .rup → x ≤ v ^ 2 ∧ ∀ w, F.isFinite w → 0 ≤ F.value w → x ≤ F.value w ^ 2 → v ≤ F.value w) ∧
        (m = .rne ∨ m = .rmm → ∀ w, F.isFinite w → far v ≤ far (F.value w)))

/-- Comparisons, minimum, maximum and classification of both formats: numbers compare by value, an infinity beyond all of them,
-0 equal to +0; a NaN makes every comparison false, with NV for FLT and FLE and for a signalling one in FEQ; the minimum and
the maximum are one of the operands, -0 below +0, the number when the other is a NaN, and the canonical NaN when both are; the
class is the one of the table (rules R391, R397 to R399, R402, R403; D49). -/
def Obligations.FloatComparesByValue : Prop :=
  ∀ F ∈ [b32, b64], ∀ a b : Nat, F.isPattern a → F.isPattern b →
    let quiet : BitVec 5 := 0
    let nv : BitVec 5 := 0b10000
    let neg := F.signBit ≤ a
    let mag := a % F.signBit
    (¬ F.nanPattern a → ¬ F.nanPattern b →
      F.eq a b = (decide (F.value a = F.value b), quiet) ∧ F.lt a b = (decide (F.value a < F.value b), quiet) ∧
      F.le a b = (decide (F.value a ≤ F.value b), quiet) ∧
      F.max a b = ⟨if F.value a < F.value b then b else if F.value b < F.value a then a else min a b, 0⟩ ∧
      F.min a b = ⟨if F.value a < F.value b then a else if F.value b < F.value a then b else max a b, 0⟩) ∧
    (F.nanPattern a ∨ F.nanPattern b →
      F.lt a b = (false, nv) ∧ F.le a b = (false, nv) ∧ (F.eq a b).1 = false ∧
      (∀ fl ∈ [(F.eq a b).2, (F.max a b).flags, (F.min a b).flags],
        (F.signalling a ∨ F.signalling b → fl = nv) ∧ (¬ F.signalling a → ¬ F.signalling b → fl = 0)) ∧
      ∀ v ∈ [F.max a b, F.min a b],
        (¬ F.nanPattern a → v.bits = a) ∧ (¬ F.nanPattern b → v.bits = b) ∧
        (F.nanPattern a → F.nanPattern b → v.bits = F.nan)) ∧
    (F.isInf a → F.classify a = if neg then 0x1 else 0x80) ∧
    (F.isFinite a → 2 ^ F.fracBits ≤ mag → F.classify a = if neg then 0x2 else 0x40) ∧
    (mag < 2 ^ F.fracBits → mag ≠ 0 → F.classify a = if neg then 0x4 else 0x20) ∧
    (mag = 0 → F.classify a = if neg then 0x8 else 0x10) ∧
    (F.signalling a → F.classify a = 0x100) ∧ (F.nanPattern a → ¬ F.signalling a → F.classify a = 0x200)

/-- Conversions: to an integer, the number rounded in the mode, saturated with NV outside the range, NX when inexact, a NaN as
the largest integer; from an integer and from double to single, the exact value rounded once; a 32-bit integer and a single are
exact as doubles; NaNs become canonical with NV for a signalling one, infinities and signed zeros stay (rules R392 to R395,
R442 to R447). -/
def Obligations.FloatConversions : Prop :=
  (∀ F ∈ [b32, b64], ∀ (m : Rounding) (lo hi : ℤ) (a : Nat), lo ≤ 0 → 0 < hi → F.isPattern a →
    let r := roundedInteger m (F.value a)
    (F.isFinite a → F.toInt lo hi m a =
      if hi < r then (hi, 0b10000) else if r < lo then (lo, 0b10000)
      else (r, if (r : ℚ) = F.value a then 0 else 0b00001)) ∧
    (F.nanPattern a → F.toInt lo hi m a = (hi, 0b10000)) ∧
    (F.isInf a → F.toInt lo hi m a = (if F.signBit ≤ a then lo else hi, 0b10000))) ∧
  (∀ F ∈ [b32, b64], ∀ (m : Rounding) (z : ℤ), F.roundsTo m z (F.ofInt m z) ∧
    (z = 0 → (F.ofInt m z).bits = 0) ∧
    (F = b64 → |z| ≤ 2 ^ 32 → F.value (F.ofInt m z).bits = z ∧ (F.ofInt m z).flags = 0)) ∧
  (∀ (m : Rounding) (a : Nat),
    (b32.isFinite a → b64.isFinite (b64.convert b32 m a).bits ∧
      b64.value (b64.convert b32 m a).bits = b32.value a ∧ (b64.convert b32 m a).flags = 0 ∧
      (b64.signBit ≤ (b64.convert b32 m a).bits ↔ b32.signBit ≤ a)) ∧
    (b64.isFinite a → b32.roundsTo m (b64.value a) (b32.convert b64 m a) ∧
      (b32.signBit ≤ (b32.convert b64 m a).bits ↔ b64.signBit ≤ a)) ∧
    (b32.isInf a → b64.convert b32 m a = ⟨if b32.signBit ≤ a then b64.signBit + b64.infBits else b64.infBits, 0⟩) ∧
    (b64.isInf a → b32.convert b64 m a = ⟨if b64.signBit ≤ a then b32.signBit + b32.infBits else b32.infBits, 0⟩) ∧
    (b32.nanPattern a → (b64.convert b32 m a).bits = 0x7FF8000000000000 ∧
      (b32.signalling a → (b64.convert b32 m a).flags = 0b10000) ∧
      (¬ b32.signalling a → (b64.convert b32 m a).flags = 0)) ∧
    (b64.nanPattern a → (b32.convert b64 m a).bits = 0x7FC00000 ∧
      (b64.signalling a → (b32.convert b64 m a).flags = 0b10000) ∧
      (¬ b64.signalling a → (b32.convert b64 m a).flags = 0)))

/-! ## Caches, fences, sleep, interrupt arbitration -/

/-- The eleven cache instructions, enabled in machine mode: no register, CSR or flag changes, pc advances by 4; cleaning
leaves memory and makes it hold every store of the lines it names; invalidating drops the lines it names, each of which as a
whole keeps its bytes or goes back to those that the next level held, and touches no other byte; clean lines kept from a time
when the data cache was off are dropped by invalidating, also after cleaning, and by nothing else here; the instruction-cache
forms leave memory (rules R532 to R540, R543 to R545). Switching the data cache off leaves such lines: clean ones, each with
memory's contents, or kept before; every other write of MHCR leaves them as they are (rules R180, R184). The set/way forms
name the line at way x[rs1][31] and at the set that the operand bits of `DCACHE_SW_INDEX` say, and every line has an operand
that names it. How memory and caches are held, and where the set index stands, is the model's (logs 21 to 23). -/
def Obligations.CacheInstructions : Prop :=
  ∀ (s : State) (rs1 : Reg), s.params.wf = true → s.mem.wf = true → s.dirtyShape = true → s.mxstatus.thead = true →
    s.priv = .machine →
    let v := s.readX rs1
    let inLine := fun d : CacheLine => decide (d.line.toNat = v.toNat / 32)
    let at' := fun (w : Word) (d : CacheLine) => decide (d.way = w.getLsbD 31 ∧
      ∀ k, k < s.params.dcacheSwIndex.length → d.line.getLsbD k = w.getLsbD (s.params.dcacheSwIndex.getD k 0))
    let ran := fun (i : Instr) (t : State) => exec i s = .next t ∧ s.retiredTo t (s.pc + 4) ∧
      t = { s with
            mem := t.mem, dirty := t.dirty, kept := t.kept, stale := t.stale, pc := t.pc, minstret := t.minstret }
    let cleans := fun (i : Instr) (named : CacheLine → Bool) (drops : Bool) => ∃ t, ran i t ∧ t.mem = s.mem ∧
      t.stale = s.stale ∧ t.dirty = (s.dirty.filter fun d => !named d) ∧
      t.kept = if drops = true then s.kept.filter fun d => !named d else s.kept
    let loses := fun (i : Instr) (named : CacheLine → Bool) => ∃ t, ran i t ∧ s.lostLines t (s.dirty.filter named) ∧
      t.dirty = (s.dirty.filter fun d => !named d) ∧ t.kept = s.kept.filter fun d => !named d
    cleans .dcacheCall (fun _ => true) false ∧ cleans .dcacheCiall (fun _ => true) true ∧
    cleans (.dcacheCpa rs1) inLine false ∧ cleans (.dcacheCipa rs1) inLine true ∧
    cleans (.dcacheCsw rs1) (at' v) false ∧ cleans (.dcacheCisw rs1) (at' v) true ∧
    loses .dcacheIall (fun _ => true) ∧ loses (.dcacheIpa rs1) inLine ∧ loses (.dcacheIsw rs1) (at' v) ∧
    (∀ w, (s.dirty.filter (at' w)).length ≤ 1) ∧ (∀ d : CacheLine, ∃ w, at' w d = true) ∧
    (∀ i ∈ [Instr.icacheIall, .icacheIpa rs1], ∃ t, ran i t ∧ t.mem = s.mem ∧ t.dirty = s.dirty ∧ t.kept = s.kept) ∧
    (s.dirty = [] → ∀ rd, ∃ t, exec (.csrrw rd rs1 0x7C1) s = .next t ∧ t.mem = s.mem ∧ t.dirty = [] ∧ t.stale = s.stale ∧
      (s.mhcr.de = false ∨ v.getLsbD 1 = true → t.kept = s.kept) ∧
      ∀ d ∈ t.kept, d ∈ s.kept ∨
        s.cachesLine d.line ∧ ∀ c : Word, c.toNat / 32 = d.line.toNat → d.older.getD (c.toNat % 32) 0 = s.mem.read c.toNat)

/-- FENCE and SYNC change nothing but pc and MINSTRET; after FENCE.I, and after ICACHE.IALL followed by SYNC.I when no store is
still in the data cache, a fetch that succeeds outside the device window sees memory; WFI in machine mode retires, and sleeps
unless a wake-up condition holds as it executes: an NMI request, an external event with WFE = 1, or a presented interrupt, with
WFE = 0 only one above MIL (rules R174, R175, R185, R306, R308, R309, R541, R542, R544, R720, R721). -/
def Obligations.FencesAndSleep : Prop :=
  ∀ (s : State) (rd rs1 : Reg) (fm pred succ : BitVec 4) (imm : BitVec 12),
    let next := { s with pc := s.pc + 4, minstret := if s.counting 2 then s.minstret + 1 else s.minstret }
    let seesMemory := fun t : State => ∀ p a h, inTcip a = false → t.fetchHalf p a = .ok h → h = t.mem.readHalf a
    exec (.fence rd rs1 fm pred succ) s = .next next ∧
    (s.mxstatus.thead = true → exec .sync s = .next next) ∧
    (∃ t, exec (.fenceI rd rs1 imm) s = .next t ∧ t = { next with stale := t.stale } ∧ seesMemory t) ∧
    (s.mxstatus.thead = true → ∃ t, exec .syncI s = .next t ∧ t = { next with stale := t.stale } ∧
      (∀ e ∈ t.stale, e ∈ s.stale) ∧
      (s.priv = .machine → s.dirty = [] → ∃ u v, exec .icacheIall s = .next u ∧ exec .syncI u = .next v ∧
        seesMemory v)) ∧
    (s.priv = .machine → ∃ b : Bool, exec .wfi s = .next { next with asleep := b } ∧
      (b = false ↔ s.pins.nmi = true ∨ s.mexstatus.wfe = true ∧ s.pins.extEvent = true ∨
        ∃ c, s.presented = some c ∧ (s.mexstatus.wfe = true ∨ s.mil.toNat < c.level.toNat)))

/-- At the start of each step the pending bit of a level source takes its line, that of an edge source is set by the selected
edge since the last step and else stays: the line is MSIP, MTIMECMP <= MTIME after the system counter's advance, or the input
of this step (rules R661, R663, R664, R674, R676, R685; that inputs are taken and edges seen once a step is logs 9 and 34).
The level of an interrupt is its control byte with all but the top `min nlbits B` bits set; the CLIC presents the source that
is pending, enabled, above the threshold and not of priority 0, with the largest control byte and then the largest number; the
core takes it when interrupts are enabled or the mode is user, its level is above MIL, and no NMI is handled (rules R677,
R690, R695; D55). -/
def Obligations.LevelsAndArbitration : Prop :=
  (∀ (p : Params) (nlbits : BitVec 4) (ctl : Byte),
    let k := 2 ^ (8 - min nlbits.toNat p.clicIntCtlBits)
    (levelOf p nlbits ctl).toNat = ctl.toNat / k * k + (k - 1)) ∧
  (∀ s : State, s.clicShape = true →
    let competes := fun c : ClicSource => c ∈ s.clic.sources ∧ c.ip = true ∧ c.ie = true ∧
      s.clic.mth.toNat < (levelOf s.params s.clic.nlbits c.ctl).toNat ∧ c.ctl ≠ 0
    (∀ p : Presented, s.presented = some p ↔
      ∃ c, competes c ∧ p = { id := c.id, level := levelOf s.params s.clic.nlbits c.ctl, shv := c.shv } ∧
        ∀ d, competes d → d = c ∨ d.ctl.toNat < c.ctl.toNat ∨ d.ctl = c.ctl ∧ d.id < c.id) ∧
    (s.presented = none ↔ ∀ c, ¬ competes c)) ∧
  (∀ (s : State) (p : Presented), s.takenInterrupt = some p ↔
    s.presented = some p ∧ s.pins.deferInterrupt = false ∧ (s.mstatus.mie = true ∨ s.priv = .user) ∧
      s.mil.toNat < p.level.toNat ∧ s.mexstatus.nmi = false ∧ s.lockedUp = false) ∧
  (∀ s : State,
    let t := s.sample
    let line := fun i : Nat =>
      if i = 3 then s.clint.msip
      else if i = 7 then decide (s.clint.mtimecmp.toNat ≤ t.mtime.toNat)
      else if i = 11 then t.pins.extInt
      else t.pins.intVld.getLsbD (i - 16)
    let selected := fun c : ClicSource =>
      if c.trig.getLsbD 1 = true then c.line = true ∧ line c.id = false else c.line = false ∧ line c.id = true
    t.pins = s.env.headD s.pins ∧ t.mtime = s.mtime + t.pins.sysCntAdvance ∧ t.clint = s.clint ∧
    t.clic.nlbits = s.clic.nlbits ∧ t.clic.mth = s.clic.mth ∧
    List.Forall₂ (fun c d : ClicSource =>
      d = { c with ip := d.ip, line := line c.id, edge := d.edge } ∧
      (c.trig.getLsbD 0 = false → d.ip = line c.id) ∧
      (c.trig.getLsbD 0 = true → (d.ip = true ↔ c.ip = true ∨ selected c)) ∧
      (d.edge = true ↔ c.trig.getLsbD 0 = true ∧ selected c)) s.clic.sources t.clic.sources)

/-! ## Bus errors of atomics and of floating-point accesses -/

/-- Atomics and floating-point loads and stores that the platform answers with a bus error. An AMO, and an SC.W that does not
fail first, raise StoreAccessFault with their address, at once or later (log 16), and change no register, no memory and no
reservation; LR.W raises LoadAccessFault and makes no reservation (rules R352, R566; log 17). SC.W without its reservation
fails with 1 and no access. FLW, FSW, FLD and FSD do as the integer forms, the address being that of the access also when only
its upper word fails; of a failing FSD some bytes may have been written (rules R145, R563; U2, logs 18, 20), in write-back
mode into a line as `State.mayFind` says (log 24). That the bus error of an AMO or SC.W is never lost is the model's choice
(log 18). -/
def Obligations.BusErrorAtomicsAndFloats : Prop :=
  ∀ (s : State) (aq rl : BitVec 1) (rd rs1 rs2 fd : Reg) (imm : BitVec 12), s.mem.wf = true →
    let reported := fun (u : State) (i : Instr) (code : BitVec 12) (a : Word) => ∃ t, exec i s = .next t ∧
      u.trapped t code a ∧ (s.mexstatus.exptVld = false → s.mexstatus.nmi = false → t.mexstatus.buserr = true)
    let now := s.aee = true ∨ s.pins.deferBusError = false
    let a := s.readX rs1
    let fails := fun k : Access => a.toNat % 4 = 0 ∧ inTcip a = false ∧ s.pmpAllows k.perm s.dataPriv a = true ∧
      dataError s.params k a = true
    let waits := fun i : Instr => ∃ t, exec i s = .next t ∧ s.retiredTo t (s.pc + 4) ∧ s.sameMemory t ∧
      (t.hpm = s.hpm ∨ t.hpm = (s.countEvent 13 1).hpm) ∧
      t = { s with
            pc := t.pc, minstret := t.minstret, hpm := t.hpm,
            busErrors := s.busErrors ++ [{ store := true, addr := a }] }
    let missed := ∃ t, exec (.scW aq rl rd rs1 rs2) s = .next t ∧ s.wroteX t rd 1 ∧ s.sameMemory t ∧
      s.retiredTo t (s.pc + 4) ∧ (t.hpm = s.hpm ∨ t.hpm = (s.countEvent 13 1).hpm) ∧
      t = { s with x := t.x, reservation := none, hpm := t.hpm, pc := t.pc, minstret := t.minstret }
    (fails .amo → ∀ i ∈ [Instr.amoaddW aq rl rd rs1 rs2, .amoandW aq rl rd rs1 rs2, .amoorW aq rl rd rs1 rs2,
        .amoxorW aq rl rd rs1 rs2, .amoswapW aq rl rd rs1 rs2, .amomaxW aq rl rd rs1 rs2, .amomaxuW aq rl rd rs1 rs2,
        .amominW aq rl rd rs1 rs2, .amominuW aq rl rd rs1 rs2],
      (now → reported s i 7 a) ∧ (¬ now → waits i)) ∧
    (fails .storeConditional →
      (s.reservation ≠ some a → missed) ∧
      (s.reservation = some a → now → missed ∨ reported s (.scW aq rl rd rs1 rs2) 7 a) ∧
      (s.reservation = some a → ¬ now → missed ∨ waits (.scW aq rl rd rs1 rs2))) ∧
    (fails .loadReserved →
      (s.aee = true → reported s (.lrW aq rl rd rs1) 5 a) ∧
      (s.aee = false → now → ∃ u v, s.wroteX u rd v ∧ u = { s with x := u.x } ∧
        reported u (.lrW aq rl rd rs1) 5 a) ∧
      (¬ now → ∃ t v, exec (.lrW aq rl rd rs1) s = .next t ∧
        s.wroteX t rd v ∧ s.retiredTo t (s.pc + 4) ∧ s.sameMemory t ∧
        t = { s with
              x := t.x, pc := t.pc, minstret := t.minstret,
              busErrors := s.busErrors ++ [{ store := false, addr := a }] })) ∧
    (s.params.fpu ≠ .none → s.mstatus.fs ≠ 0 →
      let b := s.readX rs1 + BitVec.ofInt 32 imm.toInt
      let failsF := fun (k : Access) (n : Nat) => b.toNat % n = 0 ∧ inTcip b = false ∧
        s.pmpAllows k.perm s.dataPriv b = true ∧ (n = 8 → s.pmpAllows k.perm s.dataPriv (b + 4) = true) ∧
        (dataError s.params k b = true ∨ n = 8 ∧ dataError s.params k (b + 4) = true)
      let unstated := fun u : State => (∀ r, r ≠ fd → u.readF r = s.readF r) ∧
        u = { s with f := u.f, mstatus := { s.mstatus with fs := u.mstatus.fs } }
      let partly := fun (u : State) (n : Nat) =>
        (n = 4 → u = s) ∧ u = { s with mem := u.mem, stale := u.stale, dirty := u.dirty, kept := u.kept } ∧
        ∃ g, s.mayFind (touches b 8) g ∧ ∀ c : Word, 8 ≤ (c - b).toNat →
          u.mem.read c.toNat = if s.mhcr.wb = true then g c else s.mem.read c.toNat
      let lost := s.aee = false ∧ s.pins.loseBusError = true ∧ (attrOf s.params.sysmap b).bufferable = true ∧
        (attrOf s.params.sysmap b).strongOrder = false
      (∀ l ∈ [(Instr.flw fd rs1 imm, 4)] ++ (if s.params.fpu = .double then [(.fld fd rs1 imm, 8)] else []),
        failsF .load l.2 →
        (s.aee = true → reported s l.1 5 b) ∧
        (s.aee = false → now → ∃ u, unstated u ∧ reported u l.1 5 b) ∧
        (¬ now → ∃ t u, unstated u ∧ exec l.1 s = .next t ∧ s.retiredTo t (s.pc + 4) ∧
          t = { u with
                pc := t.pc, minstret := t.minstret,
                busErrors := s.busErrors ++ [{ store := false, addr := b }] })) ∧
      (∀ l ∈ [(Instr.fsw fd rs1 imm, 4)] ++ (if s.params.fpu = .double then [(.fsd fd rs1 imm, 8)] else []),
        failsF .store l.2 →
        (lost → ∃ t u, partly u l.2 ∧ exec l.1 s = .next t ∧ s.retiredTo t (s.pc + 4) ∧
          t = { u with pc := t.pc, minstret := t.minstret, hpm := (s.countEvent 13 1).hpm }) ∧
        (¬ lost → now → ∃ u, partly u l.2 ∧ reported u l.1 7 b) ∧
        (¬ lost → ¬ now → ∃ t u, partly u l.2 ∧ exec l.1 s = .next t ∧ s.retiredTo t (s.pc + 4) ∧
          t = { u with
                pc := t.pc, minstret := t.minstret, hpm := (s.countEvent 13 1).hpm,
                busErrors := s.busErrors ++ [{ store := true, addr := b }] })))

end
end

