-- ==== Sys2Proof/Laws/Memory.lean ====
section
/-! SUPPORT. The laws of memory: reading after writing, and every operation keeps the canonical form (rules R140, R141). -/

namespace Sys2Proof.Machine

@[simp] theorem Memory.read_nil (a : Nat) : Memory.read [] a = Memory.blank := rfl

theorem Memory.read_cons (b : Nat) (w : Byte) (m : Memory) (a : Nat) :
    Memory.read ((b, w) :: m) a = if a = b then w else Memory.read m a := rfl

/-- The parts of the canonical form of a nonempty memory. -/
theorem Memory.wfFrom_cons {lo b : Nat} {w : Byte} {m : Memory} :
    Memory.wfFrom lo ((b, w) :: m) = true ↔
      lo ≤ b ∧ b < 2 ^ 32 ∧ w ≠ Memory.blank ∧ Memory.wfFrom (b + 1) m = true := by
  simp [Memory.wfFrom, and_assoc]

/-- A canonical form from a higher bound on is one from a lower bound on. -/
theorem Memory.wfFrom_mono {lo lo' : Nat} {m : Memory} (h : lo' ≤ lo) (hm : Memory.wfFrom lo m = true) :
    Memory.wfFrom lo' m = true := by
  cases m with
  | nil => rfl
  | cons c m =>
    obtain ⟨b, w⟩ := c
    rw [Memory.wfFrom_cons] at hm ⊢
    exact ⟨h.trans hm.1, hm.2⟩

/-- Below its bound a canonical memory lists nothing. -/
theorem Memory.read_below {lo a : Nat} {m : Memory} (hm : Memory.wfFrom lo m = true) (h : a < lo) :
    m.read a = Memory.blank := by
  induction m generalizing lo with
  | nil => rfl
  | cons c m ih =>
    obtain ⟨b, w⟩ := c
    rw [Memory.wfFrom_cons] at hm
    rw [Memory.read_cons, if_neg (by omega)]
    exact ih hm.2.2.2 (by omega)

/-- Reading after a write: the written byte, and every other byte as before. -/
theorem Memory.read_write {lo : Nat} {m : Memory} (hm : Memory.wfFrom lo m = true) (a c : Nat) (v : Byte) :
    (m.write a v).read c = if c = a then v else m.read c := by
  induction m generalizing lo with
  | nil =>
    simp only [Memory.write]
    split
    · simp [*]
    · simp [Memory.read_cons]
  | cons e m ih =>
    obtain ⟨b, w⟩ := e
    rw [Memory.wfFrom_cons] at hm
    have below : a ≤ b → Memory.read m a = Memory.blank := fun h => Memory.read_below hm.2.2.2 (by omega)
    have step := ih hm.2.2.2
    simp only [Memory.write]
    split_ifs <;> (try simp only [Memory.read_cons, step]) <;> (try split_ifs) <;>
      first | rfl | omega | (subst_vars; simp_all <;> exact below (by omega))

/-- A write keeps the canonical form. -/
theorem Memory.wfFrom_write {lo : Nat} {m : Memory} (hm : Memory.wfFrom lo m = true) (a : Nat) (v : Byte)
    (hlo : lo ≤ a) (ha : a < 2 ^ 32) : Memory.wfFrom lo (m.write a v) = true := by
  induction m generalizing lo with
  | nil =>
    simp only [Memory.write]
    split
    · rfl
    · rw [Memory.wfFrom_cons]; exact ⟨hlo, ha, by assumption, rfl⟩
  | cons e m ih =>
    obtain ⟨b, w⟩ := e
    have h := Memory.wfFrom_cons.mp hm
    simp only [Memory.write]
    split_ifs with h1 h2 h3 h4
    · exact hm
    · exact Memory.wfFrom_cons.mpr ⟨hlo, ha, h2, Memory.wfFrom_cons.mpr ⟨h1, h.2⟩⟩
    · exact Memory.wfFrom_mono (by omega) h.2.2.2
    · exact Memory.wfFrom_cons.mpr ⟨hlo, ha, h4, h3 ▸ h.2.2.2⟩
    · exact Memory.wfFrom_cons.mpr ⟨h.1, h.2.1, h.2.2.1, ih h.2.2.2 (by omega)⟩

/-- A write at a 32-bit address keeps memory well-formed. -/
theorem Memory.wf_write {m : Memory} (hm : m.wf = true) (a : Word) (v : Byte) : (m.write a.toNat v).wf = true :=
  Memory.wfFrom_write hm _ v (Nat.zero_le _) a.isLt

/-- Reading a byte after a write at a 32-bit address. -/
theorem Memory.read_write_word {m : Memory} (hm : m.wf = true) (a c : Word) (v : Byte) :
    (m.write a.toNat v).read c.toNat = if c = a then v else m.read c.toNat := by
  rw [Memory.read_write hm]; simp only [BitVec.toNat_inj]

/-- Equal memories read alike, and in canonical form those that read alike are equal. -/
theorem Memory.ext_read {lo : Nat} {m n : Memory} (hm : Memory.wfFrom lo m = true) (hn : Memory.wfFrom lo n = true)
    (h : ∀ a, m.read a = n.read a) : m = n := by
  induction m generalizing lo n with
  | nil =>
    cases n with
    | nil => rfl
    | cons e n =>
      obtain ⟨b, w⟩ := e
      have hw := (Memory.wfFrom_cons.mp hn).2.2.1
      have := h b
      simp [Memory.read_cons] at this
      exact absurd this.symm hw
  | cons e m ih =>
    obtain ⟨b, w⟩ := e
    have hm' := Memory.wfFrom_cons.mp hm
    cases n with
    | nil =>
      have := h b
      simp [Memory.read_cons] at this
      exact absurd this hm'.2.2.1
    | cons e n =>
      obtain ⟨c, u⟩ := e
      have hn' := Memory.wfFrom_cons.mp hn
      rcases Nat.lt_trichotomy b c with hbc | rfl | hbc
      · have := h b
        rw [Memory.read_cons, if_pos rfl, Memory.read_cons, if_neg (by omega),
          Memory.read_below hn'.2.2.2 (by omega)] at this
        exact absurd this hm'.2.2.1
      · have hu : w = u := by simpa [Memory.read_cons] using h b
        rw [hu, ih hm'.2.2.2 hn'.2.2.2 fun a => ?_]
        rcases Nat.lt_or_ge b a with hba | hba
        · simpa [Memory.read_cons, show a ≠ b by omega] using h a
        · rw [Memory.read_below hm'.2.2.2 (by omega), Memory.read_below hn'.2.2.2 (by omega)]
      · have := h c
        rw [Memory.read_cons, if_neg (by omega), Memory.read_below hm'.2.2.2 (by omega), Memory.read_cons,
          if_pos rfl] at this
        exact absurd this.symm hn'.2.2.1

/-- Several bytes written keep memory well-formed. -/
theorem Memory.wf_writeLE {m : Memory} (hm : m.wf = true) (a : Word) (n : Nat) (v : Dword) :
    (m.writeLE a n v).wf = true := by
  induction n generalizing m a v with
  | zero => exact hm
  | succ n ih => exact ih (Memory.wf_write hm a _) _ _

/-- The distance from `a` is one more than the distance from `a + 1`, but for `a` itself. -/
theorem Memory.sub_succ {a c : Word} (h : c ≠ a) : (c - a).toNat = (c - (a + 1)).toNat + 1 := by
  have : (c - a).toNat ≠ 0 := fun h0 => h (by
    have : c - a = 0 := BitVec.eq_of_toNat_eq (by simpa using h0)
    simpa [BitVec.sub_eq_iff_eq_add] using this)
  bv_omega

/-- Reading a byte after `n ≤ 8` bytes have been written from `a` on: byte `i` of the value at `a + i`, every other byte as
before. -/
theorem Memory.read_writeLE {m : Memory} (hm : m.wf = true) (a c : Word) (n : Nat) (hn : n ≤ 8) (v : Dword) :
    (m.writeLE a n v).read c.toNat =
      if (c - a).toNat < n then (v >>> (8 * (c - a).toNat)).setWidth 8 else m.read c.toNat := by
  induction n generalizing m a v with
  | zero => simp [Memory.writeLE]
  | succ n ih =>
    have hd : c ≠ a → (c - a).toNat = (c - (a + 1)).toNat + 1 := Memory.sub_succ
    rw [Memory.writeLE, ih (Memory.wf_write hm a _) (a + 1) (by omega) (v >>> 8), Memory.read_write_word hm]
    by_cases h : c = a
    · subst h
      have h0 : (c - c).toNat = 0 := by simp
      have h1 : ¬ (c - (c + 1)).toNat < n := by bv_omega
      rw [if_neg h1, h0, if_pos rfl, if_pos (by omega)]
      simp
    · rw [hd h, if_neg h]
      by_cases h1 : (c - (a + 1)).toNat < n
      · rw [if_pos h1, if_pos (by omega), ← BitVec.shiftRight_add]
        congr 2; omega
      · rw [if_neg h1, if_neg (by omega)]

/-- A list of bytes written keeps memory well-formed. -/
theorem Memory.wf_writeBytes {m : Memory} (hm : m.wf = true) (a : Word) (vs : List Byte) :
    (m.writeBytes a vs).wf = true := by
  induction vs generalizing m a with
  | nil => exact hm
  | cons v vs ih => exact ih (Memory.wf_write hm a v) _

/-- Reading a byte after a list of bytes has been written from `a` on. -/
theorem Memory.read_writeBytes {m : Memory} (hm : m.wf = true) (a c : Word) (vs : List Byte) (hn : vs.length < 2 ^ 32) :
    (m.writeBytes a vs).read c.toNat = vs.getD (c - a).toNat (m.read c.toNat) := by
  induction vs generalizing m a with
  | nil => rfl
  | cons v vs ih =>
    rw [Memory.writeBytes, ih (Memory.wf_write hm a v) (a + 1) (by simp at hn; omega), Memory.read_write_word hm]
    by_cases h : c = a
    · subst h
      have h1 : vs.length ≤ (c - (c + 1)).toNat := by simp at hn; bv_omega
      rw [List.getD_eq_default _ _ h1, if_pos rfl, show (c - c).toNat = 0 by simp]; rfl
    · rw [Memory.sub_succ h, if_neg h, List.getD_cons_succ]

/-- Byte `i` of a little-endian value of `n ≤ 8` bytes. -/
theorem Memory.readLE_byte (m : Memory) (a : Word) (n i : Nat) (hi : i < n) (hn : n ≤ 8) :
    (m.readLE a n >>> (8 * i)).setWidth 8 = m.read (a + BitVec.ofNat 32 i).toNat := by
  induction n generalizing a i with
  | zero => omega
  | succ n ih =>
    cases i with
    | zero =>
      simp only [Memory.readLE, Nat.mul_zero, BitVec.add_zero, BitVec.ofNat_eq_ofNat]
      ext k hk
      simp
    | succ i =>
      have hs : a + BitVec.ofNat 32 (i + 1) = a + 1 + BitVec.ofNat 32 i := by
        apply BitVec.eq_of_toNat_eq
        simp [BitVec.toNat_add]; omega
      rw [hs, ← ih (a + 1) i (by omega) (by omega)]
      simp only [Memory.readLE]
      ext k hk
      simp only [BitVec.getElem_setWidth, BitVec.getLsbD_ushiftRight, BitVec.getLsbD_or, BitVec.getLsbD_shiftLeft,
        BitVec.getLsbD_setWidth]
      have e1 : 8 * (i + 1) + k - 8 = 8 * i + k := by omega
      have e2 : (m.read a.toNat).getLsbD (8 * (i + 1) + k) = false := BitVec.getLsbD_of_ge _ _ (by omega)
      rw [e1, e2]
      have e3 : decide (8 * (i + 1) + k < 64) = true := by simp; omega
      have e4 : decide (8 * (i + 1) + k < 8) = false := by simp; omega
      simp [e3, e4]

/-- A little-endian value of `n ≤ 8` bytes is below 256^n. -/
theorem Memory.readLE_lt (m : Memory) (a : Word) (n : Nat) (hn : n ≤ 8) : (m.readLE a n).toNat < 2 ^ (8 * n) := by
  induction n generalizing a with
  | zero => simp [Memory.readLE]
  | succ n ih =>
    have h1 := ih (a + 1) (by omega)
    have h2 := (m.read a.toNat).isLt
    have hp : 2 ^ (8 * (n + 1)) = 2 ^ (8 * n) * 256 := by rw [Nat.mul_add, pow_add]; norm_num
    have hle : 2 ^ (8 * (n + 1)) ≤ 2 ^ 64 := Nat.pow_le_pow_right (by norm_num) (by omega)
    simp only [Memory.readLE, BitVec.toNat_or, BitVec.toNat_shiftLeft, BitVec.toNat_setWidth]
    rw [Nat.mod_eq_of_lt (by rw [Nat.shiftLeft_eq]; omega), Nat.mod_eq_of_lt (by omega)]
    apply Nat.or_lt_two_pow
    · rw [Nat.shiftLeft_eq]; omega
    · omega

end Sys2Proof.Machine
end

