-- ==== Sys2Proof/Laws/State.lean ====
section
/-! SUPPORT. One lemma per field per update of the state, so that no later proof unfolds an update: a field that an update
does not name keeps its value. -/

namespace Sys2Proof.Machine

/-! ## `setX` changes x -/

section

variable (s : State) (r : Reg) (v : Word)

@[simp] theorem setX_params : (s.setX r v).params = s.params := by
  unfold State.setX; split <;> rfl
@[simp] theorem setX_f : (s.setX r v).f = s.f := by
  unfold State.setX; split <;> rfl
@[simp] theorem setX_pc : (s.setX r v).pc = s.pc := by
  unfold State.setX; split <;> rfl
@[simp] theorem setX_priv : (s.setX r v).priv = s.priv := by
  unfold State.setX; split <;> rfl
@[simp] theorem setX_mstatus : (s.setX r v).mstatus = s.mstatus := by
  unfold State.setX; split <;> rfl
@[simp] theorem setX_mtvecBase : (s.setX r v).mtvecBase = s.mtvecBase := by
  unfold State.setX; split <;> rfl
@[simp] theorem setX_mtvtBase : (s.setX r v).mtvtBase = s.mtvtBase := by
  unfold State.setX; split <;> rfl
@[simp] theorem setX_mscratch : (s.setX r v).mscratch = s.mscratch := by
  unfold State.setX; split <;> rfl
@[simp] theorem setX_mepc : (s.setX r v).mepc = s.mepc := by
  unfold State.setX; split <;> rfl
@[simp] theorem setX_mcause : (s.setX r v).mcause = s.mcause := by
  unfold State.setX; split <;> rfl
@[simp] theorem setX_mtval : (s.setX r v).mtval = s.mtval := by
  unfold State.setX; split <;> rfl
@[simp] theorem setX_mil : (s.setX r v).mil = s.mil := by
  unfold State.setX; split <;> rfl
@[simp] theorem setX_mnmicause : (s.setX r v).mnmicause = s.mnmicause := by
  unfold State.setX; split <;> rfl
@[simp] theorem setX_mnmipc : (s.setX r v).mnmipc = s.mnmipc := by
  unfold State.setX; split <;> rfl
@[simp] theorem setX_pmp : (s.setX r v).pmp = s.pmp := by
  unfold State.setX; split <;> rfl
@[simp] theorem setX_mcounteren : (s.setX r v).mcounteren = s.mcounteren := by
  unfold State.setX; split <;> rfl
@[simp] theorem setX_mcountinhibit : (s.setX r v).mcountinhibit = s.mcountinhibit := by
  unfold State.setX; split <;> rfl
@[simp] theorem setX_mcycle : (s.setX r v).mcycle = s.mcycle := by
  unfold State.setX; split <;> rfl
@[simp] theorem setX_minstret : (s.setX r v).minstret = s.minstret := by
  unfold State.setX; split <;> rfl
@[simp] theorem setX_hpm : (s.setX r v).hpm = s.hpm := by
  unfold State.setX; split <;> rfl
@[simp] theorem setX_mxstatus : (s.setX r v).mxstatus = s.mxstatus := by
  unfold State.setX; split <;> rfl
@[simp] theorem setX_mhcr : (s.setX r v).mhcr = s.mhcr := by
  unfold State.setX; split <;> rfl
@[simp] theorem setX_aee : (s.setX r v).aee = s.aee := by
  unfold State.setX; split <;> rfl
@[simp] theorem setX_mexstatus : (s.setX r v).mexstatus = s.mexstatus := by
  unfold State.setX; split <;> rfl
@[simp] theorem setX_fcsr : (s.setX r v).fcsr = s.fcsr := by
  unfold State.setX; split <;> rfl
@[simp] theorem setX_mem : (s.setX r v).mem = s.mem := by
  unfold State.setX; split <;> rfl
@[simp] theorem setX_reservation : (s.setX r v).reservation = s.reservation := by
  unfold State.setX; split <;> rfl
@[simp] theorem setX_asleep : (s.setX r v).asleep = s.asleep := by
  unfold State.setX; split <;> rfl
@[simp] theorem setX_lockedUp : (s.setX r v).lockedUp = s.lockedUp := by
  unfold State.setX; split <;> rfl
@[simp] theorem setX_clint : (s.setX r v).clint = s.clint := by
  unfold State.setX; split <;> rfl
@[simp] theorem setX_mtime : (s.setX r v).mtime = s.mtime := by
  unfold State.setX; split <;> rfl
@[simp] theorem setX_clic : (s.setX r v).clic = s.clic := by
  unfold State.setX; split <;> rfl
@[simp] theorem setX_dirty : (s.setX r v).dirty = s.dirty := by
  unfold State.setX; split <;> rfl
@[simp] theorem setX_kept : (s.setX r v).kept = s.kept := by
  unfold State.setX; split <;> rfl
@[simp] theorem setX_stale : (s.setX r v).stale = s.stale := by
  unfold State.setX; split <;> rfl
@[simp] theorem setX_busErrors : (s.setX r v).busErrors = s.busErrors := by
  unfold State.setX; split <;> rfl
@[simp] theorem setX_pins : (s.setX r v).pins = s.pins := by
  unfold State.setX; split <;> rfl
@[simp] theorem setX_env : (s.setX r v).env = s.env := by
  unfold State.setX; split <;> rfl
@[simp] theorem setX_freeCtr : (s.setX r v).freeCtr = s.freeCtr := by
  unfold State.setX; split <;> rfl

end

/-! ## `setF` changes f, mstatus -/

section

variable (s : State) (r : Reg) (v : Dword)

@[simp] theorem setF_params : (s.setF r v).params = s.params := rfl
@[simp] theorem setF_x : (s.setF r v).x = s.x := rfl
@[simp] theorem setF_pc : (s.setF r v).pc = s.pc := rfl
@[simp] theorem setF_priv : (s.setF r v).priv = s.priv := rfl
@[simp] theorem setF_mtvecBase : (s.setF r v).mtvecBase = s.mtvecBase := rfl
@[simp] theorem setF_mtvtBase : (s.setF r v).mtvtBase = s.mtvtBase := rfl
@[simp] theorem setF_mscratch : (s.setF r v).mscratch = s.mscratch := rfl
@[simp] theorem setF_mepc : (s.setF r v).mepc = s.mepc := rfl
@[simp] theorem setF_mcause : (s.setF r v).mcause = s.mcause := rfl
@[simp] theorem setF_mtval : (s.setF r v).mtval = s.mtval := rfl
@[simp] theorem setF_mil : (s.setF r v).mil = s.mil := rfl
@[simp] theorem setF_mnmicause : (s.setF r v).mnmicause = s.mnmicause := rfl
@[simp] theorem setF_mnmipc : (s.setF r v).mnmipc = s.mnmipc := rfl
@[simp] theorem setF_pmp : (s.setF r v).pmp = s.pmp := rfl
@[simp] theorem setF_mcounteren : (s.setF r v).mcounteren = s.mcounteren := rfl
@[simp] theorem setF_mcountinhibit : (s.setF r v).mcountinhibit = s.mcountinhibit := rfl
@[simp] theorem setF_mcycle : (s.setF r v).mcycle = s.mcycle := rfl
@[simp] theorem setF_minstret : (s.setF r v).minstret = s.minstret := rfl
@[simp] theorem setF_hpm : (s.setF r v).hpm = s.hpm := rfl
@[simp] theorem setF_mxstatus : (s.setF r v).mxstatus = s.mxstatus := rfl
@[simp] theorem setF_mhcr : (s.setF r v).mhcr = s.mhcr := rfl
@[simp] theorem setF_aee : (s.setF r v).aee = s.aee := rfl
@[simp] theorem setF_mexstatus : (s.setF r v).mexstatus = s.mexstatus := rfl
@[simp] theorem setF_fcsr : (s.setF r v).fcsr = s.fcsr := rfl
@[simp] theorem setF_mem : (s.setF r v).mem = s.mem := rfl
@[simp] theorem setF_reservation : (s.setF r v).reservation = s.reservation := rfl
@[simp] theorem setF_asleep : (s.setF r v).asleep = s.asleep := rfl
@[simp] theorem setF_lockedUp : (s.setF r v).lockedUp = s.lockedUp := rfl
@[simp] theorem setF_clint : (s.setF r v).clint = s.clint := rfl
@[simp] theorem setF_mtime : (s.setF r v).mtime = s.mtime := rfl
@[simp] theorem setF_clic : (s.setF r v).clic = s.clic := rfl
@[simp] theorem setF_dirty : (s.setF r v).dirty = s.dirty := rfl
@[simp] theorem setF_kept : (s.setF r v).kept = s.kept := rfl
@[simp] theorem setF_stale : (s.setF r v).stale = s.stale := rfl
@[simp] theorem setF_busErrors : (s.setF r v).busErrors = s.busErrors := rfl
@[simp] theorem setF_pins : (s.setF r v).pins = s.pins := rfl
@[simp] theorem setF_env : (s.setF r v).env = s.env := rfl
@[simp] theorem setF_freeCtr : (s.setF r v).freeCtr = s.freeCtr := rfl

end

/-! ## `fsDirty` changes mstatus -/

section

variable (s : State)

@[simp] theorem fsDirty_params : (s.fsDirty).params = s.params := rfl
@[simp] theorem fsDirty_x : (s.fsDirty).x = s.x := rfl
@[simp] theorem fsDirty_f : (s.fsDirty).f = s.f := rfl
@[simp] theorem fsDirty_pc : (s.fsDirty).pc = s.pc := rfl
@[simp] theorem fsDirty_priv : (s.fsDirty).priv = s.priv := rfl
@[simp] theorem fsDirty_mtvecBase : (s.fsDirty).mtvecBase = s.mtvecBase := rfl
@[simp] theorem fsDirty_mtvtBase : (s.fsDirty).mtvtBase = s.mtvtBase := rfl
@[simp] theorem fsDirty_mscratch : (s.fsDirty).mscratch = s.mscratch := rfl
@[simp] theorem fsDirty_mepc : (s.fsDirty).mepc = s.mepc := rfl
@[simp] theorem fsDirty_mcause : (s.fsDirty).mcause = s.mcause := rfl
@[simp] theorem fsDirty_mtval : (s.fsDirty).mtval = s.mtval := rfl
@[simp] theorem fsDirty_mil : (s.fsDirty).mil = s.mil := rfl
@[simp] theorem fsDirty_mnmicause : (s.fsDirty).mnmicause = s.mnmicause := rfl
@[simp] theorem fsDirty_mnmipc : (s.fsDirty).mnmipc = s.mnmipc := rfl
@[simp] theorem fsDirty_pmp : (s.fsDirty).pmp = s.pmp := rfl
@[simp] theorem fsDirty_mcounteren : (s.fsDirty).mcounteren = s.mcounteren := rfl
@[simp] theorem fsDirty_mcountinhibit : (s.fsDirty).mcountinhibit = s.mcountinhibit := rfl
@[simp] theorem fsDirty_mcycle : (s.fsDirty).mcycle = s.mcycle := rfl
@[simp] theorem fsDirty_minstret : (s.fsDirty).minstret = s.minstret := rfl
@[simp] theorem fsDirty_hpm : (s.fsDirty).hpm = s.hpm := rfl
@[simp] theorem fsDirty_mxstatus : (s.fsDirty).mxstatus = s.mxstatus := rfl
@[simp] theorem fsDirty_mhcr : (s.fsDirty).mhcr = s.mhcr := rfl
@[simp] theorem fsDirty_aee : (s.fsDirty).aee = s.aee := rfl
@[simp] theorem fsDirty_mexstatus : (s.fsDirty).mexstatus = s.mexstatus := rfl
@[simp] theorem fsDirty_fcsr : (s.fsDirty).fcsr = s.fcsr := rfl
@[simp] theorem fsDirty_mem : (s.fsDirty).mem = s.mem := rfl
@[simp] theorem fsDirty_reservation : (s.fsDirty).reservation = s.reservation := rfl
@[simp] theorem fsDirty_asleep : (s.fsDirty).asleep = s.asleep := rfl
@[simp] theorem fsDirty_lockedUp : (s.fsDirty).lockedUp = s.lockedUp := rfl
@[simp] theorem fsDirty_clint : (s.fsDirty).clint = s.clint := rfl
@[simp] theorem fsDirty_mtime : (s.fsDirty).mtime = s.mtime := rfl
@[simp] theorem fsDirty_clic : (s.fsDirty).clic = s.clic := rfl
@[simp] theorem fsDirty_dirty : (s.fsDirty).dirty = s.dirty := rfl
@[simp] theorem fsDirty_kept : (s.fsDirty).kept = s.kept := rfl
@[simp] theorem fsDirty_stale : (s.fsDirty).stale = s.stale := rfl
@[simp] theorem fsDirty_busErrors : (s.fsDirty).busErrors = s.busErrors := rfl
@[simp] theorem fsDirty_pins : (s.fsDirty).pins = s.pins := rfl
@[simp] theorem fsDirty_env : (s.fsDirty).env = s.env := rfl
@[simp] theorem fsDirty_freeCtr : (s.fsDirty).freeCtr = s.freeCtr := rfl

end

/-! ## `raiseFlags` changes fcsr, mstatus -/

section

variable (s : State) (fl : BitVec 5)

@[simp] theorem raiseFlags_params : (s.raiseFlags fl).params = s.params := by
  unfold State.raiseFlags; split <;> rfl
@[simp] theorem raiseFlags_x : (s.raiseFlags fl).x = s.x := by
  unfold State.raiseFlags; split <;> rfl
@[simp] theorem raiseFlags_f : (s.raiseFlags fl).f = s.f := by
  unfold State.raiseFlags; split <;> rfl
@[simp] theorem raiseFlags_pc : (s.raiseFlags fl).pc = s.pc := by
  unfold State.raiseFlags; split <;> rfl
@[simp] theorem raiseFlags_priv : (s.raiseFlags fl).priv = s.priv := by
  unfold State.raiseFlags; split <;> rfl
@[simp] theorem raiseFlags_mtvecBase : (s.raiseFlags fl).mtvecBase = s.mtvecBase := by
  unfold State.raiseFlags; split <;> rfl
@[simp] theorem raiseFlags_mtvtBase : (s.raiseFlags fl).mtvtBase = s.mtvtBase := by
  unfold State.raiseFlags; split <;> rfl
@[simp] theorem raiseFlags_mscratch : (s.raiseFlags fl).mscratch = s.mscratch := by
  unfold State.raiseFlags; split <;> rfl
@[simp] theorem raiseFlags_mepc : (s.raiseFlags fl).mepc = s.mepc := by
  unfold State.raiseFlags; split <;> rfl
@[simp] theorem raiseFlags_mcause : (s.raiseFlags fl).mcause = s.mcause := by
  unfold State.raiseFlags; split <;> rfl
@[simp] theorem raiseFlags_mtval : (s.raiseFlags fl).mtval = s.mtval := by
  unfold State.raiseFlags; split <;> rfl
@[simp] theorem raiseFlags_mil : (s.raiseFlags fl).mil = s.mil := by
  unfold State.raiseFlags; split <;> rfl
@[simp] theorem raiseFlags_mnmicause : (s.raiseFlags fl).mnmicause = s.mnmicause := by
  unfold State.raiseFlags; split <;> rfl
@[simp] theorem raiseFlags_mnmipc : (s.raiseFlags fl).mnmipc = s.mnmipc := by
  unfold State.raiseFlags; split <;> rfl
@[simp] theorem raiseFlags_pmp : (s.raiseFlags fl).pmp = s.pmp := by
  unfold State.raiseFlags; split <;> rfl
@[simp] theorem raiseFlags_mcounteren : (s.raiseFlags fl).mcounteren = s.mcounteren := by
  unfold State.raiseFlags; split <;> rfl
@[simp] theorem raiseFlags_mcountinhibit : (s.raiseFlags fl).mcountinhibit = s.mcountinhibit := by
  unfold State.raiseFlags; split <;> rfl
@[simp] theorem raiseFlags_mcycle : (s.raiseFlags fl).mcycle = s.mcycle := by
  unfold State.raiseFlags; split <;> rfl
@[simp] theorem raiseFlags_minstret : (s.raiseFlags fl).minstret = s.minstret := by
  unfold State.raiseFlags; split <;> rfl
@[simp] theorem raiseFlags_hpm : (s.raiseFlags fl).hpm = s.hpm := by
  unfold State.raiseFlags; split <;> rfl
@[simp] theorem raiseFlags_mxstatus : (s.raiseFlags fl).mxstatus = s.mxstatus := by
  unfold State.raiseFlags; split <;> rfl
@[simp] theorem raiseFlags_mhcr : (s.raiseFlags fl).mhcr = s.mhcr := by
  unfold State.raiseFlags; split <;> rfl
@[simp] theorem raiseFlags_aee : (s.raiseFlags fl).aee = s.aee := by
  unfold State.raiseFlags; split <;> rfl
@[simp] theorem raiseFlags_mexstatus : (s.raiseFlags fl).mexstatus = s.mexstatus := by
  unfold State.raiseFlags; split <;> rfl
@[simp] theorem raiseFlags_mem : (s.raiseFlags fl).mem = s.mem := by
  unfold State.raiseFlags; split <;> rfl
@[simp] theorem raiseFlags_reservation : (s.raiseFlags fl).reservation = s.reservation := by
  unfold State.raiseFlags; split <;> rfl
@[simp] theorem raiseFlags_asleep : (s.raiseFlags fl).asleep = s.asleep := by
  unfold State.raiseFlags; split <;> rfl
@[simp] theorem raiseFlags_lockedUp : (s.raiseFlags fl).lockedUp = s.lockedUp := by
  unfold State.raiseFlags; split <;> rfl
@[simp] theorem raiseFlags_clint : (s.raiseFlags fl).clint = s.clint := by
  unfold State.raiseFlags; split <;> rfl
@[simp] theorem raiseFlags_mtime : (s.raiseFlags fl).mtime = s.mtime := by
  unfold State.raiseFlags; split <;> rfl
@[simp] theorem raiseFlags_clic : (s.raiseFlags fl).clic = s.clic := by
  unfold State.raiseFlags; split <;> rfl
@[simp] theorem raiseFlags_dirty : (s.raiseFlags fl).dirty = s.dirty := by
  unfold State.raiseFlags; split <;> rfl
@[simp] theorem raiseFlags_kept : (s.raiseFlags fl).kept = s.kept := by
  unfold State.raiseFlags; split <;> rfl
@[simp] theorem raiseFlags_stale : (s.raiseFlags fl).stale = s.stale := by
  unfold State.raiseFlags; split <;> rfl
@[simp] theorem raiseFlags_busErrors : (s.raiseFlags fl).busErrors = s.busErrors := by
  unfold State.raiseFlags; split <;> rfl
@[simp] theorem raiseFlags_pins : (s.raiseFlags fl).pins = s.pins := by
  unfold State.raiseFlags; split <;> rfl
@[simp] theorem raiseFlags_env : (s.raiseFlags fl).env = s.env := by
  unfold State.raiseFlags; split <;> rfl
@[simp] theorem raiseFlags_freeCtr : (s.raiseFlags fl).freeCtr = s.freeCtr := by
  unfold State.raiseFlags; split <;> rfl

end

/-! ## `goto` changes pc, minstret -/

section

variable (s : State) (t : Word)

@[simp] theorem goto_params : (s.goto t).params = s.params := rfl
@[simp] theorem goto_x : (s.goto t).x = s.x := rfl
@[simp] theorem goto_f : (s.goto t).f = s.f := rfl
@[simp] theorem goto_priv : (s.goto t).priv = s.priv := rfl
@[simp] theorem goto_mstatus : (s.goto t).mstatus = s.mstatus := rfl
@[simp] theorem goto_mtvecBase : (s.goto t).mtvecBase = s.mtvecBase := rfl
@[simp] theorem goto_mtvtBase : (s.goto t).mtvtBase = s.mtvtBase := rfl
@[simp] theorem goto_mscratch : (s.goto t).mscratch = s.mscratch := rfl
@[simp] theorem goto_mepc : (s.goto t).mepc = s.mepc := rfl
@[simp] theorem goto_mcause : (s.goto t).mcause = s.mcause := rfl
@[simp] theorem goto_mtval : (s.goto t).mtval = s.mtval := rfl
@[simp] theorem goto_mil : (s.goto t).mil = s.mil := rfl
@[simp] theorem goto_mnmicause : (s.goto t).mnmicause = s.mnmicause := rfl
@[simp] theorem goto_mnmipc : (s.goto t).mnmipc = s.mnmipc := rfl
@[simp] theorem goto_pmp : (s.goto t).pmp = s.pmp := rfl
@[simp] theorem goto_mcounteren : (s.goto t).mcounteren = s.mcounteren := rfl
@[simp] theorem goto_mcountinhibit : (s.goto t).mcountinhibit = s.mcountinhibit := rfl
@[simp] theorem goto_mcycle : (s.goto t).mcycle = s.mcycle := rfl
@[simp] theorem goto_hpm : (s.goto t).hpm = s.hpm := rfl
@[simp] theorem goto_mxstatus : (s.goto t).mxstatus = s.mxstatus := rfl
@[simp] theorem goto_mhcr : (s.goto t).mhcr = s.mhcr := rfl
@[simp] theorem goto_aee : (s.goto t).aee = s.aee := rfl
@[simp] theorem goto_mexstatus : (s.goto t).mexstatus = s.mexstatus := rfl
@[simp] theorem goto_fcsr : (s.goto t).fcsr = s.fcsr := rfl
@[simp] theorem goto_mem : (s.goto t).mem = s.mem := rfl
@[simp] theorem goto_reservation : (s.goto t).reservation = s.reservation := rfl
@[simp] theorem goto_asleep : (s.goto t).asleep = s.asleep := rfl
@[simp] theorem goto_lockedUp : (s.goto t).lockedUp = s.lockedUp := rfl
@[simp] theorem goto_clint : (s.goto t).clint = s.clint := rfl
@[simp] theorem goto_mtime : (s.goto t).mtime = s.mtime := rfl
@[simp] theorem goto_clic : (s.goto t).clic = s.clic := rfl
@[simp] theorem goto_dirty : (s.goto t).dirty = s.dirty := rfl
@[simp] theorem goto_kept : (s.goto t).kept = s.kept := rfl
@[simp] theorem goto_stale : (s.goto t).stale = s.stale := rfl
@[simp] theorem goto_busErrors : (s.goto t).busErrors = s.busErrors := rfl
@[simp] theorem goto_pins : (s.goto t).pins = s.pins := rfl
@[simp] theorem goto_env : (s.goto t).env = s.env := rfl
@[simp] theorem goto_freeCtr : (s.goto t).freeCtr = s.freeCtr := rfl

end

/-! ## `advance` changes pc, minstret -/

section

variable (s : State) (n : Word)

@[simp] theorem advance_params : (s.advance n).params = s.params := rfl
@[simp] theorem advance_x : (s.advance n).x = s.x := rfl
@[simp] theorem advance_f : (s.advance n).f = s.f := rfl
@[simp] theorem advance_priv : (s.advance n).priv = s.priv := rfl
@[simp] theorem advance_mstatus : (s.advance n).mstatus = s.mstatus := rfl
@[simp] theorem advance_mtvecBase : (s.advance n).mtvecBase = s.mtvecBase := rfl
@[simp] theorem advance_mtvtBase : (s.advance n).mtvtBase = s.mtvtBase := rfl
@[simp] theorem advance_mscratch : (s.advance n).mscratch = s.mscratch := rfl
@[simp] theorem advance_mepc : (s.advance n).mepc = s.mepc := rfl
@[simp] theorem advance_mcause : (s.advance n).mcause = s.mcause := rfl
@[simp] theorem advance_mtval : (s.advance n).mtval = s.mtval := rfl
@[simp] theorem advance_mil : (s.advance n).mil = s.mil := rfl
@[simp] theorem advance_mnmicause : (s.advance n).mnmicause = s.mnmicause := rfl
@[simp] theorem advance_mnmipc : (s.advance n).mnmipc = s.mnmipc := rfl
@[simp] theorem advance_pmp : (s.advance n).pmp = s.pmp := rfl
@[simp] theorem advance_mcounteren : (s.advance n).mcounteren = s.mcounteren := rfl
@[simp] theorem advance_mcountinhibit : (s.advance n).mcountinhibit = s.mcountinhibit := rfl
@[simp] theorem advance_mcycle : (s.advance n).mcycle = s.mcycle := rfl
@[simp] theorem advance_hpm : (s.advance n).hpm = s.hpm := rfl
@[simp] theorem advance_mxstatus : (s.advance n).mxstatus = s.mxstatus := rfl
@[simp] theorem advance_mhcr : (s.advance n).mhcr = s.mhcr := rfl
@[simp] theorem advance_aee : (s.advance n).aee = s.aee := rfl
@[simp] theorem advance_mexstatus : (s.advance n).mexstatus = s.mexstatus := rfl
@[simp] theorem advance_fcsr : (s.advance n).fcsr = s.fcsr := rfl
@[simp] theorem advance_mem : (s.advance n).mem = s.mem := rfl
@[simp] theorem advance_reservation : (s.advance n).reservation = s.reservation := rfl
@[simp] theorem advance_asleep : (s.advance n).asleep = s.asleep := rfl
@[simp] theorem advance_lockedUp : (s.advance n).lockedUp = s.lockedUp := rfl
@[simp] theorem advance_clint : (s.advance n).clint = s.clint := rfl
@[simp] theorem advance_mtime : (s.advance n).mtime = s.mtime := rfl
@[simp] theorem advance_clic : (s.advance n).clic = s.clic := rfl
@[simp] theorem advance_dirty : (s.advance n).dirty = s.dirty := rfl
@[simp] theorem advance_kept : (s.advance n).kept = s.kept := rfl
@[simp] theorem advance_stale : (s.advance n).stale = s.stale := rfl
@[simp] theorem advance_busErrors : (s.advance n).busErrors = s.busErrors := rfl
@[simp] theorem advance_pins : (s.advance n).pins = s.pins := rfl
@[simp] theorem advance_env : (s.advance n).env = s.env := rfl
@[simp] theorem advance_freeCtr : (s.advance n).freeCtr = s.freeCtr := rfl

end

/-! ## `countEvent` changes hpm -/

section

variable (s : State) (n k : Nat)

@[simp] theorem countEvent_params : (s.countEvent n k).params = s.params := rfl
@[simp] theorem countEvent_x : (s.countEvent n k).x = s.x := rfl
@[simp] theorem countEvent_f : (s.countEvent n k).f = s.f := rfl
@[simp] theorem countEvent_pc : (s.countEvent n k).pc = s.pc := rfl
@[simp] theorem countEvent_priv : (s.countEvent n k).priv = s.priv := rfl
@[simp] theorem countEvent_mstatus : (s.countEvent n k).mstatus = s.mstatus := rfl
@[simp] theorem countEvent_mtvecBase : (s.countEvent n k).mtvecBase = s.mtvecBase := rfl
@[simp] theorem countEvent_mtvtBase : (s.countEvent n k).mtvtBase = s.mtvtBase := rfl
@[simp] theorem countEvent_mscratch : (s.countEvent n k).mscratch = s.mscratch := rfl
@[simp] theorem countEvent_mepc : (s.countEvent n k).mepc = s.mepc := rfl
@[simp] theorem countEvent_mcause : (s.countEvent n k).mcause = s.mcause := rfl
@[simp] theorem countEvent_mtval : (s.countEvent n k).mtval = s.mtval := rfl
@[simp] theorem countEvent_mil : (s.countEvent n k).mil = s.mil := rfl
@[simp] theorem countEvent_mnmicause : (s.countEvent n k).mnmicause = s.mnmicause := rfl
@[simp] theorem countEvent_mnmipc : (s.countEvent n k).mnmipc = s.mnmipc := rfl
@[simp] theorem countEvent_pmp : (s.countEvent n k).pmp = s.pmp := rfl
@[simp] theorem countEvent_mcounteren : (s.countEvent n k).mcounteren = s.mcounteren := rfl
@[simp] theorem countEvent_mcountinhibit : (s.countEvent n k).mcountinhibit = s.mcountinhibit := rfl
@[simp] theorem countEvent_mcycle : (s.countEvent n k).mcycle = s.mcycle := rfl
@[simp] theorem countEvent_minstret : (s.countEvent n k).minstret = s.minstret := rfl
@[simp] theorem countEvent_mxstatus : (s.countEvent n k).mxstatus = s.mxstatus := rfl
@[simp] theorem countEvent_mhcr : (s.countEvent n k).mhcr = s.mhcr := rfl
@[simp] theorem countEvent_aee : (s.countEvent n k).aee = s.aee := rfl
@[simp] theorem countEvent_mexstatus : (s.countEvent n k).mexstatus = s.mexstatus := rfl
@[simp] theorem countEvent_fcsr : (s.countEvent n k).fcsr = s.fcsr := rfl
@[simp] theorem countEvent_mem : (s.countEvent n k).mem = s.mem := rfl
@[simp] theorem countEvent_reservation : (s.countEvent n k).reservation = s.reservation := rfl
@[simp] theorem countEvent_asleep : (s.countEvent n k).asleep = s.asleep := rfl
@[simp] theorem countEvent_lockedUp : (s.countEvent n k).lockedUp = s.lockedUp := rfl
@[simp] theorem countEvent_clint : (s.countEvent n k).clint = s.clint := rfl
@[simp] theorem countEvent_mtime : (s.countEvent n k).mtime = s.mtime := rfl
@[simp] theorem countEvent_clic : (s.countEvent n k).clic = s.clic := rfl
@[simp] theorem countEvent_dirty : (s.countEvent n k).dirty = s.dirty := rfl
@[simp] theorem countEvent_kept : (s.countEvent n k).kept = s.kept := rfl
@[simp] theorem countEvent_stale : (s.countEvent n k).stale = s.stale := rfl
@[simp] theorem countEvent_busErrors : (s.countEvent n k).busErrors = s.busErrors := rfl
@[simp] theorem countEvent_pins : (s.countEvent n k).pins = s.pins := rfl
@[simp] theorem countEvent_env : (s.countEvent n k).env = s.env := rfl
@[simp] theorem countEvent_freeCtr : (s.countEvent n k).freeCtr = s.freeCtr := rfl

end

/-! ## `countTrap` changes minstret -/

section

variable (s : State)

@[simp] theorem countTrap_params : (s.countTrap).params = s.params := rfl
@[simp] theorem countTrap_x : (s.countTrap).x = s.x := rfl
@[simp] theorem countTrap_f : (s.countTrap).f = s.f := rfl
@[simp] theorem countTrap_pc : (s.countTrap).pc = s.pc := rfl
@[simp] theorem countTrap_priv : (s.countTrap).priv = s.priv := rfl
@[simp] theorem countTrap_mstatus : (s.countTrap).mstatus = s.mstatus := rfl
@[simp] theorem countTrap_mtvecBase : (s.countTrap).mtvecBase = s.mtvecBase := rfl
@[simp] theorem countTrap_mtvtBase : (s.countTrap).mtvtBase = s.mtvtBase := rfl
@[simp] theorem countTrap_mscratch : (s.countTrap).mscratch = s.mscratch := rfl
@[simp] theorem countTrap_mepc : (s.countTrap).mepc = s.mepc := rfl
@[simp] theorem countTrap_mcause : (s.countTrap).mcause = s.mcause := rfl
@[simp] theorem countTrap_mtval : (s.countTrap).mtval = s.mtval := rfl
@[simp] theorem countTrap_mil : (s.countTrap).mil = s.mil := rfl
@[simp] theorem countTrap_mnmicause : (s.countTrap).mnmicause = s.mnmicause := rfl
@[simp] theorem countTrap_mnmipc : (s.countTrap).mnmipc = s.mnmipc := rfl
@[simp] theorem countTrap_pmp : (s.countTrap).pmp = s.pmp := rfl
@[simp] theorem countTrap_mcounteren : (s.countTrap).mcounteren = s.mcounteren := rfl
@[simp] theorem countTrap_mcountinhibit : (s.countTrap).mcountinhibit = s.mcountinhibit := rfl
@[simp] theorem countTrap_mcycle : (s.countTrap).mcycle = s.mcycle := rfl
@[simp] theorem countTrap_hpm : (s.countTrap).hpm = s.hpm := rfl
@[simp] theorem countTrap_mxstatus : (s.countTrap).mxstatus = s.mxstatus := rfl
@[simp] theorem countTrap_mhcr : (s.countTrap).mhcr = s.mhcr := rfl
@[simp] theorem countTrap_aee : (s.countTrap).aee = s.aee := rfl
@[simp] theorem countTrap_mexstatus : (s.countTrap).mexstatus = s.mexstatus := rfl
@[simp] theorem countTrap_fcsr : (s.countTrap).fcsr = s.fcsr := rfl
@[simp] theorem countTrap_mem : (s.countTrap).mem = s.mem := rfl
@[simp] theorem countTrap_reservation : (s.countTrap).reservation = s.reservation := rfl
@[simp] theorem countTrap_asleep : (s.countTrap).asleep = s.asleep := rfl
@[simp] theorem countTrap_lockedUp : (s.countTrap).lockedUp = s.lockedUp := rfl
@[simp] theorem countTrap_clint : (s.countTrap).clint = s.clint := rfl
@[simp] theorem countTrap_mtime : (s.countTrap).mtime = s.mtime := rfl
@[simp] theorem countTrap_clic : (s.countTrap).clic = s.clic := rfl
@[simp] theorem countTrap_dirty : (s.countTrap).dirty = s.dirty := rfl
@[simp] theorem countTrap_kept : (s.countTrap).kept = s.kept := rfl
@[simp] theorem countTrap_stale : (s.countTrap).stale = s.stale := rfl
@[simp] theorem countTrap_busErrors : (s.countTrap).busErrors = s.busErrors := rfl
@[simp] theorem countTrap_pins : (s.countTrap).pins = s.pins := rfl
@[simp] theorem countTrap_env : (s.countTrap).env = s.env := rfl
@[simp] theorem countTrap_freeCtr : (s.countTrap).freeCtr = s.freeCtr := rfl

end

/-! ## `queueError` changes busErrors -/

section

variable (s : State) (k : Access) (a : Word)

@[simp] theorem queueError_params : (s.queueError k a).params = s.params := rfl
@[simp] theorem queueError_x : (s.queueError k a).x = s.x := rfl
@[simp] theorem queueError_f : (s.queueError k a).f = s.f := rfl
@[simp] theorem queueError_pc : (s.queueError k a).pc = s.pc := rfl
@[simp] theorem queueError_priv : (s.queueError k a).priv = s.priv := rfl
@[simp] theorem queueError_mstatus : (s.queueError k a).mstatus = s.mstatus := rfl
@[simp] theorem queueError_mtvecBase : (s.queueError k a).mtvecBase = s.mtvecBase := rfl
@[simp] theorem queueError_mtvtBase : (s.queueError k a).mtvtBase = s.mtvtBase := rfl
@[simp] theorem queueError_mscratch : (s.queueError k a).mscratch = s.mscratch := rfl
@[simp] theorem queueError_mepc : (s.queueError k a).mepc = s.mepc := rfl
@[simp] theorem queueError_mcause : (s.queueError k a).mcause = s.mcause := rfl
@[simp] theorem queueError_mtval : (s.queueError k a).mtval = s.mtval := rfl
@[simp] theorem queueError_mil : (s.queueError k a).mil = s.mil := rfl
@[simp] theorem queueError_mnmicause : (s.queueError k a).mnmicause = s.mnmicause := rfl
@[simp] theorem queueError_mnmipc : (s.queueError k a).mnmipc = s.mnmipc := rfl
@[simp] theorem queueError_pmp : (s.queueError k a).pmp = s.pmp := rfl
@[simp] theorem queueError_mcounteren : (s.queueError k a).mcounteren = s.mcounteren := rfl
@[simp] theorem queueError_mcountinhibit : (s.queueError k a).mcountinhibit = s.mcountinhibit := rfl
@[simp] theorem queueError_mcycle : (s.queueError k a).mcycle = s.mcycle := rfl
@[simp] theorem queueError_minstret : (s.queueError k a).minstret = s.minstret := rfl
@[simp] theorem queueError_hpm : (s.queueError k a).hpm = s.hpm := rfl
@[simp] theorem queueError_mxstatus : (s.queueError k a).mxstatus = s.mxstatus := rfl
@[simp] theorem queueError_mhcr : (s.queueError k a).mhcr = s.mhcr := rfl
@[simp] theorem queueError_aee : (s.queueError k a).aee = s.aee := rfl
@[simp] theorem queueError_mexstatus : (s.queueError k a).mexstatus = s.mexstatus := rfl
@[simp] theorem queueError_fcsr : (s.queueError k a).fcsr = s.fcsr := rfl
@[simp] theorem queueError_mem : (s.queueError k a).mem = s.mem := rfl
@[simp] theorem queueError_reservation : (s.queueError k a).reservation = s.reservation := rfl
@[simp] theorem queueError_asleep : (s.queueError k a).asleep = s.asleep := rfl
@[simp] theorem queueError_lockedUp : (s.queueError k a).lockedUp = s.lockedUp := rfl
@[simp] theorem queueError_clint : (s.queueError k a).clint = s.clint := rfl
@[simp] theorem queueError_mtime : (s.queueError k a).mtime = s.mtime := rfl
@[simp] theorem queueError_clic : (s.queueError k a).clic = s.clic := rfl
@[simp] theorem queueError_dirty : (s.queueError k a).dirty = s.dirty := rfl
@[simp] theorem queueError_kept : (s.queueError k a).kept = s.kept := rfl
@[simp] theorem queueError_stale : (s.queueError k a).stale = s.stale := rfl
@[simp] theorem queueError_pins : (s.queueError k a).pins = s.pins := rfl
@[simp] theorem queueError_env : (s.queueError k a).env = s.env := rfl
@[simp] theorem queueError_freeCtr : (s.queueError k a).freeCtr = s.freeCtr := rfl

end

/-! ## `storeBytes` changes mem, stale, dirty, kept -/

section

variable (s : State) (a : Word) (n : Nat) (v : Dword)

@[simp] theorem storeBytes_params : (s.storeBytes a n v).params = s.params := by
  unfold State.storeBytes State.reviveKept; dsimp only; split <;> rfl
@[simp] theorem storeBytes_x : (s.storeBytes a n v).x = s.x := by
  unfold State.storeBytes State.reviveKept; dsimp only; split <;> rfl
@[simp] theorem storeBytes_f : (s.storeBytes a n v).f = s.f := by
  unfold State.storeBytes State.reviveKept; dsimp only; split <;> rfl
@[simp] theorem storeBytes_pc : (s.storeBytes a n v).pc = s.pc := by
  unfold State.storeBytes State.reviveKept; dsimp only; split <;> rfl
@[simp] theorem storeBytes_priv : (s.storeBytes a n v).priv = s.priv := by
  unfold State.storeBytes State.reviveKept; dsimp only; split <;> rfl
@[simp] theorem storeBytes_mstatus : (s.storeBytes a n v).mstatus = s.mstatus := by
  unfold State.storeBytes State.reviveKept; dsimp only; split <;> rfl
@[simp] theorem storeBytes_mtvecBase : (s.storeBytes a n v).mtvecBase = s.mtvecBase := by
  unfold State.storeBytes State.reviveKept; dsimp only; split <;> rfl
@[simp] theorem storeBytes_mtvtBase : (s.storeBytes a n v).mtvtBase = s.mtvtBase := by
  unfold State.storeBytes State.reviveKept; dsimp only; split <;> rfl
@[simp] theorem storeBytes_mscratch : (s.storeBytes a n v).mscratch = s.mscratch := by
  unfold State.storeBytes State.reviveKept; dsimp only; split <;> rfl
@[simp] theorem storeBytes_mepc : (s.storeBytes a n v).mepc = s.mepc := by
  unfold State.storeBytes State.reviveKept; dsimp only; split <;> rfl
@[simp] theorem storeBytes_mcause : (s.storeBytes a n v).mcause = s.mcause := by
  unfold State.storeBytes State.reviveKept; dsimp only; split <;> rfl
@[simp] theorem storeBytes_mtval : (s.storeBytes a n v).mtval = s.mtval := by
  unfold State.storeBytes State.reviveKept; dsimp only; split <;> rfl
@[simp] theorem storeBytes_mil : (s.storeBytes a n v).mil = s.mil := by
  unfold State.storeBytes State.reviveKept; dsimp only; split <;> rfl
@[simp] theorem storeBytes_mnmicause : (s.storeBytes a n v).mnmicause = s.mnmicause := by
  unfold State.storeBytes State.reviveKept; dsimp only; split <;> rfl
@[simp] theorem storeBytes_mnmipc : (s.storeBytes a n v).mnmipc = s.mnmipc := by
  unfold State.storeBytes State.reviveKept; dsimp only; split <;> rfl
@[simp] theorem storeBytes_pmp : (s.storeBytes a n v).pmp = s.pmp := by
  unfold State.storeBytes State.reviveKept; dsimp only; split <;> rfl
@[simp] theorem storeBytes_mcounteren : (s.storeBytes a n v).mcounteren = s.mcounteren := by
  unfold State.storeBytes State.reviveKept; dsimp only; split <;> rfl
@[simp] theorem storeBytes_mcountinhibit : (s.storeBytes a n v).mcountinhibit = s.mcountinhibit := by
  unfold State.storeBytes State.reviveKept; dsimp only; split <;> rfl
@[simp] theorem storeBytes_mcycle : (s.storeBytes a n v).mcycle = s.mcycle := by
  unfold State.storeBytes State.reviveKept; dsimp only; split <;> rfl
@[simp] theorem storeBytes_minstret : (s.storeBytes a n v).minstret = s.minstret := by
  unfold State.storeBytes State.reviveKept; dsimp only; split <;> rfl
@[simp] theorem storeBytes_hpm : (s.storeBytes a n v).hpm = s.hpm := by
  unfold State.storeBytes State.reviveKept; dsimp only; split <;> rfl
@[simp] theorem storeBytes_mxstatus : (s.storeBytes a n v).mxstatus = s.mxstatus := by
  unfold State.storeBytes State.reviveKept; dsimp only; split <;> rfl
@[simp] theorem storeBytes_mhcr : (s.storeBytes a n v).mhcr = s.mhcr := by
  unfold State.storeBytes State.reviveKept; dsimp only; split <;> rfl
@[simp] theorem storeBytes_aee : (s.storeBytes a n v).aee = s.aee := by
  unfold State.storeBytes State.reviveKept; dsimp only; split <;> rfl
@[simp] theorem storeBytes_mexstatus : (s.storeBytes a n v).mexstatus = s.mexstatus := by
  unfold State.storeBytes State.reviveKept; dsimp only; split <;> rfl
@[simp] theorem storeBytes_fcsr : (s.storeBytes a n v).fcsr = s.fcsr := by
  unfold State.storeBytes State.reviveKept; dsimp only; split <;> rfl
@[simp] theorem storeBytes_reservation : (s.storeBytes a n v).reservation = s.reservation := by
  unfold State.storeBytes State.reviveKept; dsimp only; split <;> rfl
@[simp] theorem storeBytes_asleep : (s.storeBytes a n v).asleep = s.asleep := by
  unfold State.storeBytes State.reviveKept; dsimp only; split <;> rfl
@[simp] theorem storeBytes_lockedUp : (s.storeBytes a n v).lockedUp = s.lockedUp := by
  unfold State.storeBytes State.reviveKept; dsimp only; split <;> rfl
@[simp] theorem storeBytes_clint : (s.storeBytes a n v).clint = s.clint := by
  unfold State.storeBytes State.reviveKept; dsimp only; split <;> rfl
@[simp] theorem storeBytes_mtime : (s.storeBytes a n v).mtime = s.mtime := by
  unfold State.storeBytes State.reviveKept; dsimp only; split <;> rfl
@[simp] theorem storeBytes_clic : (s.storeBytes a n v).clic = s.clic := by
  unfold State.storeBytes State.reviveKept; dsimp only; split <;> rfl
@[simp] theorem storeBytes_busErrors : (s.storeBytes a n v).busErrors = s.busErrors := by
  unfold State.storeBytes State.reviveKept; dsimp only; split <;> rfl
@[simp] theorem storeBytes_pins : (s.storeBytes a n v).pins = s.pins := by
  unfold State.storeBytes State.reviveKept; dsimp only; split <;> rfl
@[simp] theorem storeBytes_env : (s.storeBytes a n v).env = s.env := by
  unfold State.storeBytes State.reviveKept; dsimp only; split <;> rfl
@[simp] theorem storeBytes_freeCtr : (s.storeBytes a n v).freeCtr = s.freeCtr := by
  unfold State.storeBytes State.reviveKept; dsimp only; split <;> rfl

end

/-! ## `mapSources` changes clic -/

section

variable (s : State) (g : ClicSource → ClicSource)

@[simp] theorem mapSources_params : (s.mapSources g).params = s.params := rfl
@[simp] theorem mapSources_x : (s.mapSources g).x = s.x := rfl
@[simp] theorem mapSources_f : (s.mapSources g).f = s.f := rfl
@[simp] theorem mapSources_pc : (s.mapSources g).pc = s.pc := rfl
@[simp] theorem mapSources_priv : (s.mapSources g).priv = s.priv := rfl
@[simp] theorem mapSources_mstatus : (s.mapSources g).mstatus = s.mstatus := rfl
@[simp] theorem mapSources_mtvecBase : (s.mapSources g).mtvecBase = s.mtvecBase := rfl
@[simp] theorem mapSources_mtvtBase : (s.mapSources g).mtvtBase = s.mtvtBase := rfl
@[simp] theorem mapSources_mscratch : (s.mapSources g).mscratch = s.mscratch := rfl
@[simp] theorem mapSources_mepc : (s.mapSources g).mepc = s.mepc := rfl
@[simp] theorem mapSources_mcause : (s.mapSources g).mcause = s.mcause := rfl
@[simp] theorem mapSources_mtval : (s.mapSources g).mtval = s.mtval := rfl
@[simp] theorem mapSources_mil : (s.mapSources g).mil = s.mil := rfl
@[simp] theorem mapSources_mnmicause : (s.mapSources g).mnmicause = s.mnmicause := rfl
@[simp] theorem mapSources_mnmipc : (s.mapSources g).mnmipc = s.mnmipc := rfl
@[simp] theorem mapSources_pmp : (s.mapSources g).pmp = s.pmp := rfl
@[simp] theorem mapSources_mcounteren : (s.mapSources g).mcounteren = s.mcounteren := rfl
@[simp] theorem mapSources_mcountinhibit : (s.mapSources g).mcountinhibit = s.mcountinhibit := rfl
@[simp] theorem mapSources_mcycle : (s.mapSources g).mcycle = s.mcycle := rfl
@[simp] theorem mapSources_minstret : (s.mapSources g).minstret = s.minstret := rfl
@[simp] theorem mapSources_hpm : (s.mapSources g).hpm = s.hpm := rfl
@[simp] theorem mapSources_mxstatus : (s.mapSources g).mxstatus = s.mxstatus := rfl
@[simp] theorem mapSources_mhcr : (s.mapSources g).mhcr = s.mhcr := rfl
@[simp] theorem mapSources_aee : (s.mapSources g).aee = s.aee := rfl
@[simp] theorem mapSources_mexstatus : (s.mapSources g).mexstatus = s.mexstatus := rfl
@[simp] theorem mapSources_fcsr : (s.mapSources g).fcsr = s.fcsr := rfl
@[simp] theorem mapSources_mem : (s.mapSources g).mem = s.mem := rfl
@[simp] theorem mapSources_reservation : (s.mapSources g).reservation = s.reservation := rfl
@[simp] theorem mapSources_asleep : (s.mapSources g).asleep = s.asleep := rfl
@[simp] theorem mapSources_lockedUp : (s.mapSources g).lockedUp = s.lockedUp := rfl
@[simp] theorem mapSources_clint : (s.mapSources g).clint = s.clint := rfl
@[simp] theorem mapSources_mtime : (s.mapSources g).mtime = s.mtime := rfl
@[simp] theorem mapSources_dirty : (s.mapSources g).dirty = s.dirty := rfl
@[simp] theorem mapSources_kept : (s.mapSources g).kept = s.kept := rfl
@[simp] theorem mapSources_stale : (s.mapSources g).stale = s.stale := rfl
@[simp] theorem mapSources_busErrors : (s.mapSources g).busErrors = s.busErrors := rfl
@[simp] theorem mapSources_pins : (s.mapSources g).pins = s.pins := rfl
@[simp] theorem mapSources_env : (s.mapSources g).env = s.env := rfl
@[simp] theorem mapSources_freeCtr : (s.mapSources g).freeCtr = s.freeCtr := rfl

end

/-! ## `cleanLines` changes dirty -/

section

variable (s : State) (sel : CacheLine → Bool)

@[simp] theorem cleanLines_params : (s.cleanLines sel).params = s.params := rfl
@[simp] theorem cleanLines_x : (s.cleanLines sel).x = s.x := rfl
@[simp] theorem cleanLines_f : (s.cleanLines sel).f = s.f := rfl
@[simp] theorem cleanLines_pc : (s.cleanLines sel).pc = s.pc := rfl
@[simp] theorem cleanLines_priv : (s.cleanLines sel).priv = s.priv := rfl
@[simp] theorem cleanLines_mstatus : (s.cleanLines sel).mstatus = s.mstatus := rfl
@[simp] theorem cleanLines_mtvecBase : (s.cleanLines sel).mtvecBase = s.mtvecBase := rfl
@[simp] theorem cleanLines_mtvtBase : (s.cleanLines sel).mtvtBase = s.mtvtBase := rfl
@[simp] theorem cleanLines_mscratch : (s.cleanLines sel).mscratch = s.mscratch := rfl
@[simp] theorem cleanLines_mepc : (s.cleanLines sel).mepc = s.mepc := rfl
@[simp] theorem cleanLines_mcause : (s.cleanLines sel).mcause = s.mcause := rfl
@[simp] theorem cleanLines_mtval : (s.cleanLines sel).mtval = s.mtval := rfl
@[simp] theorem cleanLines_mil : (s.cleanLines sel).mil = s.mil := rfl
@[simp] theorem cleanLines_mnmicause : (s.cleanLines sel).mnmicause = s.mnmicause := rfl
@[simp] theorem cleanLines_mnmipc : (s.cleanLines sel).mnmipc = s.mnmipc := rfl
@[simp] theorem cleanLines_pmp : (s.cleanLines sel).pmp = s.pmp := rfl
@[simp] theorem cleanLines_mcounteren : (s.cleanLines sel).mcounteren = s.mcounteren := rfl
@[simp] theorem cleanLines_mcountinhibit : (s.cleanLines sel).mcountinhibit = s.mcountinhibit := rfl
@[simp] theorem cleanLines_mcycle : (s.cleanLines sel).mcycle = s.mcycle := rfl
@[simp] theorem cleanLines_minstret : (s.cleanLines sel).minstret = s.minstret := rfl
@[simp] theorem cleanLines_hpm : (s.cleanLines sel).hpm = s.hpm := rfl
@[simp] theorem cleanLines_mxstatus : (s.cleanLines sel).mxstatus = s.mxstatus := rfl
@[simp] theorem cleanLines_mhcr : (s.cleanLines sel).mhcr = s.mhcr := rfl
@[simp] theorem cleanLines_aee : (s.cleanLines sel).aee = s.aee := rfl
@[simp] theorem cleanLines_mexstatus : (s.cleanLines sel).mexstatus = s.mexstatus := rfl
@[simp] theorem cleanLines_fcsr : (s.cleanLines sel).fcsr = s.fcsr := rfl
@[simp] theorem cleanLines_mem : (s.cleanLines sel).mem = s.mem := rfl
@[simp] theorem cleanLines_reservation : (s.cleanLines sel).reservation = s.reservation := rfl
@[simp] theorem cleanLines_asleep : (s.cleanLines sel).asleep = s.asleep := rfl
@[simp] theorem cleanLines_lockedUp : (s.cleanLines sel).lockedUp = s.lockedUp := rfl
@[simp] theorem cleanLines_clint : (s.cleanLines sel).clint = s.clint := rfl
@[simp] theorem cleanLines_mtime : (s.cleanLines sel).mtime = s.mtime := rfl
@[simp] theorem cleanLines_clic : (s.cleanLines sel).clic = s.clic := rfl
@[simp] theorem cleanLines_kept : (s.cleanLines sel).kept = s.kept := rfl
@[simp] theorem cleanLines_stale : (s.cleanLines sel).stale = s.stale := rfl
@[simp] theorem cleanLines_busErrors : (s.cleanLines sel).busErrors = s.busErrors := rfl
@[simp] theorem cleanLines_pins : (s.cleanLines sel).pins = s.pins := rfl
@[simp] theorem cleanLines_env : (s.cleanLines sel).env = s.env := rfl
@[simp] theorem cleanLines_freeCtr : (s.cleanLines sel).freeCtr = s.freeCtr := rfl

end

/-! ## `dropKept` changes kept -/

section

variable (s : State) (sel : CacheLine → Bool)

@[simp] theorem dropKept_params : (s.dropKept sel).params = s.params := rfl
@[simp] theorem dropKept_x : (s.dropKept sel).x = s.x := rfl
@[simp] theorem dropKept_f : (s.dropKept sel).f = s.f := rfl
@[simp] theorem dropKept_pc : (s.dropKept sel).pc = s.pc := rfl
@[simp] theorem dropKept_priv : (s.dropKept sel).priv = s.priv := rfl
@[simp] theorem dropKept_mstatus : (s.dropKept sel).mstatus = s.mstatus := rfl
@[simp] theorem dropKept_mtvecBase : (s.dropKept sel).mtvecBase = s.mtvecBase := rfl
@[simp] theorem dropKept_mtvtBase : (s.dropKept sel).mtvtBase = s.mtvtBase := rfl
@[simp] theorem dropKept_mscratch : (s.dropKept sel).mscratch = s.mscratch := rfl
@[simp] theorem dropKept_mepc : (s.dropKept sel).mepc = s.mepc := rfl
@[simp] theorem dropKept_mcause : (s.dropKept sel).mcause = s.mcause := rfl
@[simp] theorem dropKept_mtval : (s.dropKept sel).mtval = s.mtval := rfl
@[simp] theorem dropKept_mil : (s.dropKept sel).mil = s.mil := rfl
@[simp] theorem dropKept_mnmicause : (s.dropKept sel).mnmicause = s.mnmicause := rfl
@[simp] theorem dropKept_mnmipc : (s.dropKept sel).mnmipc = s.mnmipc := rfl
@[simp] theorem dropKept_pmp : (s.dropKept sel).pmp = s.pmp := rfl
@[simp] theorem dropKept_mcounteren : (s.dropKept sel).mcounteren = s.mcounteren := rfl
@[simp] theorem dropKept_mcountinhibit : (s.dropKept sel).mcountinhibit = s.mcountinhibit := rfl
@[simp] theorem dropKept_mcycle : (s.dropKept sel).mcycle = s.mcycle := rfl
@[simp] theorem dropKept_minstret : (s.dropKept sel).minstret = s.minstret := rfl
@[simp] theorem dropKept_hpm : (s.dropKept sel).hpm = s.hpm := rfl
@[simp] theorem dropKept_mxstatus : (s.dropKept sel).mxstatus = s.mxstatus := rfl
@[simp] theorem dropKept_mhcr : (s.dropKept sel).mhcr = s.mhcr := rfl
@[simp] theorem dropKept_aee : (s.dropKept sel).aee = s.aee := rfl
@[simp] theorem dropKept_mexstatus : (s.dropKept sel).mexstatus = s.mexstatus := rfl
@[simp] theorem dropKept_fcsr : (s.dropKept sel).fcsr = s.fcsr := rfl
@[simp] theorem dropKept_mem : (s.dropKept sel).mem = s.mem := rfl
@[simp] theorem dropKept_reservation : (s.dropKept sel).reservation = s.reservation := rfl
@[simp] theorem dropKept_asleep : (s.dropKept sel).asleep = s.asleep := rfl
@[simp] theorem dropKept_lockedUp : (s.dropKept sel).lockedUp = s.lockedUp := rfl
@[simp] theorem dropKept_clint : (s.dropKept sel).clint = s.clint := rfl
@[simp] theorem dropKept_mtime : (s.dropKept sel).mtime = s.mtime := rfl
@[simp] theorem dropKept_clic : (s.dropKept sel).clic = s.clic := rfl
@[simp] theorem dropKept_dirty : (s.dropKept sel).dirty = s.dirty := rfl
@[simp] theorem dropKept_stale : (s.dropKept sel).stale = s.stale := rfl
@[simp] theorem dropKept_busErrors : (s.dropKept sel).busErrors = s.busErrors := rfl
@[simp] theorem dropKept_pins : (s.dropKept sel).pins = s.pins := rfl
@[simp] theorem dropKept_env : (s.dropKept sel).env = s.env := rfl
@[simp] theorem dropKept_freeCtr : (s.dropKept sel).freeCtr = s.freeCtr := rfl

end

/-! ## `loseLine` changes mem, stale -/

section

variable (s : State) (d : CacheLine)

@[simp] theorem loseLine_params : (s.loseLine d).params = s.params := by
  unfold State.loseLine; split <;> rfl
@[simp] theorem loseLine_x : (s.loseLine d).x = s.x := by
  unfold State.loseLine; split <;> rfl
@[simp] theorem loseLine_f : (s.loseLine d).f = s.f := by
  unfold State.loseLine; split <;> rfl
@[simp] theorem loseLine_pc : (s.loseLine d).pc = s.pc := by
  unfold State.loseLine; split <;> rfl
@[simp] theorem loseLine_priv : (s.loseLine d).priv = s.priv := by
  unfold State.loseLine; split <;> rfl
@[simp] theorem loseLine_mstatus : (s.loseLine d).mstatus = s.mstatus := by
  unfold State.loseLine; split <;> rfl
@[simp] theorem loseLine_mtvecBase : (s.loseLine d).mtvecBase = s.mtvecBase := by
  unfold State.loseLine; split <;> rfl
@[simp] theorem loseLine_mtvtBase : (s.loseLine d).mtvtBase = s.mtvtBase := by
  unfold State.loseLine; split <;> rfl
@[simp] theorem loseLine_mscratch : (s.loseLine d).mscratch = s.mscratch := by
  unfold State.loseLine; split <;> rfl
@[simp] theorem loseLine_mepc : (s.loseLine d).mepc = s.mepc := by
  unfold State.loseLine; split <;> rfl
@[simp] theorem loseLine_mcause : (s.loseLine d).mcause = s.mcause := by
  unfold State.loseLine; split <;> rfl
@[simp] theorem loseLine_mtval : (s.loseLine d).mtval = s.mtval := by
  unfold State.loseLine; split <;> rfl
@[simp] theorem loseLine_mil : (s.loseLine d).mil = s.mil := by
  unfold State.loseLine; split <;> rfl
@[simp] theorem loseLine_mnmicause : (s.loseLine d).mnmicause = s.mnmicause := by
  unfold State.loseLine; split <;> rfl
@[simp] theorem loseLine_mnmipc : (s.loseLine d).mnmipc = s.mnmipc := by
  unfold State.loseLine; split <;> rfl
@[simp] theorem loseLine_pmp : (s.loseLine d).pmp = s.pmp := by
  unfold State.loseLine; split <;> rfl
@[simp] theorem loseLine_mcounteren : (s.loseLine d).mcounteren = s.mcounteren := by
  unfold State.loseLine; split <;> rfl
@[simp] theorem loseLine_mcountinhibit : (s.loseLine d).mcountinhibit = s.mcountinhibit := by
  unfold State.loseLine; split <;> rfl
@[simp] theorem loseLine_mcycle : (s.loseLine d).mcycle = s.mcycle := by
  unfold State.loseLine; split <;> rfl
@[simp] theorem loseLine_minstret : (s.loseLine d).minstret = s.minstret := by
  unfold State.loseLine; split <;> rfl
@[simp] theorem loseLine_hpm : (s.loseLine d).hpm = s.hpm := by
  unfold State.loseLine; split <;> rfl
@[simp] theorem loseLine_mxstatus : (s.loseLine d).mxstatus = s.mxstatus := by
  unfold State.loseLine; split <;> rfl
@[simp] theorem loseLine_mhcr : (s.loseLine d).mhcr = s.mhcr := by
  unfold State.loseLine; split <;> rfl
@[simp] theorem loseLine_aee : (s.loseLine d).aee = s.aee := by
  unfold State.loseLine; split <;> rfl
@[simp] theorem loseLine_mexstatus : (s.loseLine d).mexstatus = s.mexstatus := by
  unfold State.loseLine; split <;> rfl
@[simp] theorem loseLine_fcsr : (s.loseLine d).fcsr = s.fcsr := by
  unfold State.loseLine; split <;> rfl
@[simp] theorem loseLine_reservation : (s.loseLine d).reservation = s.reservation := by
  unfold State.loseLine; split <;> rfl
@[simp] theorem loseLine_asleep : (s.loseLine d).asleep = s.asleep := by
  unfold State.loseLine; split <;> rfl
@[simp] theorem loseLine_lockedUp : (s.loseLine d).lockedUp = s.lockedUp := by
  unfold State.loseLine; split <;> rfl
@[simp] theorem loseLine_clint : (s.loseLine d).clint = s.clint := by
  unfold State.loseLine; split <;> rfl
@[simp] theorem loseLine_mtime : (s.loseLine d).mtime = s.mtime := by
  unfold State.loseLine; split <;> rfl
@[simp] theorem loseLine_clic : (s.loseLine d).clic = s.clic := by
  unfold State.loseLine; split <;> rfl
@[simp] theorem loseLine_dirty : (s.loseLine d).dirty = s.dirty := by
  unfold State.loseLine; split <;> rfl
@[simp] theorem loseLine_kept : (s.loseLine d).kept = s.kept := by
  unfold State.loseLine; split <;> rfl
@[simp] theorem loseLine_busErrors : (s.loseLine d).busErrors = s.busErrors := by
  unfold State.loseLine; split <;> rfl
@[simp] theorem loseLine_pins : (s.loseLine d).pins = s.pins := by
  unfold State.loseLine; split <;> rfl
@[simp] theorem loseLine_env : (s.loseLine d).env = s.env := by
  unfold State.loseLine; split <;> rfl
@[simp] theorem loseLine_freeCtr : (s.loseLine d).freeCtr = s.freeCtr := by
  unfold State.loseLine; split <;> rfl

end

/-! ## What the updates write -/

@[simp] theorem setX_zero (s : State) (v : Word) : s.setX 0 v = s := rfl

@[simp] theorem goto_pc (s : State) (t : Word) : (s.goto t).pc = t := rfl

@[simp] theorem goto_minstret (s : State) (t : Word) : (s.goto t).minstret = s.retired := rfl

@[simp] theorem advance_pc (s : State) (n : Word) : (s.advance n).pc = s.pc + n := rfl

@[simp] theorem advance_minstret (s : State) (n : Word) : (s.advance n).minstret = s.retired := rfl

@[simp] theorem fsDirty_mstatus (s : State) : s.fsDirty.mstatus = { s.mstatus with fs := 3 } := rfl

@[simp] theorem setF_mstatus (s : State) (r : Reg) (v : Dword) : (s.setF r v).mstatus = { s.mstatus with fs := 3 } := rfl

@[simp] theorem raiseFlags_zero (s : State) : s.raiseFlags 0 = s := rfl

/-- Raised flags are ORed in; FS becomes 'dirty' only when there is one. -/
theorem raiseFlags_fcsr (s : State) (fl : BitVec 5) :
    (s.raiseFlags fl).fcsr = { s.fcsr with flags := s.fcsr.flags ||| fl } := by
  unfold State.raiseFlags; split
  · simp [*]
  · rfl

@[simp] theorem storeBytes_mem (s : State) (a : Word) (n : Nat) (v : Dword) :
    (s.storeBytes a n v).mem = (s.reviveKept a).mem.writeLE a n v := rfl

@[simp] theorem cleanLines_dirty (s : State) (sel : CacheLine → Bool) :
    (s.cleanLines sel).dirty = s.dirty.filter fun d => !sel d := rfl

@[simp] theorem dropKept_kept (s : State) (sel : CacheLine → Bool) :
    (s.dropKept sel).kept = s.kept.filter fun d => !sel d := rfl

/-! ## The general registers -/

@[simp] theorem readX_zero (s : State) : s.readX 0 = 0 := rfl

/-- Reading a general register after a write: x0 stays 0, the written one holds the value, the others are as before. -/
theorem readX_setX (s : State) (r q : Reg) (v : Word) :
    (s.setX r v).readX q = if q = 0 then 0 else if q = r then v else s.readX q := by
  by_cases hq : q = 0
  · simp [State.readX, hq]
  · by_cases hr : r = 0
    · subst hr; rw [if_neg hq, if_neg hq]; rfl
    · simp only [State.readX, State.setX, hq, hr, if_false, Vector.getElem_set, BitVec.toNat_inj]
      simp only [eq_comm (a := r)]

/-- Reading a floating-point register after a write. -/
theorem readF_setF (s : State) (r q : Reg) (v : Dword) :
    (s.setF r v).readF q = if q = r then v else s.readF q := by
  simp only [State.readF, State.setF, State.fsDirty, Vector.getElem_set, BitVec.toNat_inj, eq_comm (a := r)]

/-- A general register depends on the register file only. -/
theorem readX_congr {s t : State} (h : t.x = s.x) (r : Reg) : t.readX r = s.readX r := by
  unfold State.readX; simp only [h]

/-- A floating-point register depends on the register file only. -/
theorem readF_congr {s t : State} (h : t.f = s.f) (r : Reg) : t.readF r = s.readF r := by
  unfold State.readF; simp only [h]

@[simp] theorem readX_goto (s : State) (t : Word) (r : Reg) : (s.goto t).readX r = s.readX r := rfl

@[simp] theorem readX_advance (s : State) (n : Word) (r : Reg) : (s.advance n).readX r = s.readX r := rfl

@[simp] theorem readX_countEvent (s : State) (n k : Nat) (r : Reg) : (s.countEvent n k).readX r = s.readX r := rfl

@[simp] theorem readX_setF (s : State) (q r : Reg) (v : Dword) : (s.setF q v).readX r = s.readX r := rfl

@[simp] theorem readX_raiseFlags (s : State) (fl : BitVec 5) (r : Reg) : (s.raiseFlags fl).readX r = s.readX r :=
  readX_congr (raiseFlags_x s fl) r

@[simp] theorem readF_goto (s : State) (t : Word) (r : Reg) : (s.goto t).readF r = s.readF r := rfl

@[simp] theorem readF_advance (s : State) (n : Word) (r : Reg) : (s.advance n).readF r = s.readF r := rfl

@[simp] theorem readF_setX (s : State) (q r : Reg) (v : Word) : (s.setX q v).readF r = s.readF r :=
  readF_congr (setX_f s q v) r

@[simp] theorem readF_raiseFlags (s : State) (fl : BitVec 5) (r : Reg) : (s.raiseFlags fl).readF r = s.readF r :=
  readF_congr (raiseFlags_f s fl) r

/-! ## Counting -/

@[simp] theorem retired_setX (s : State) (r : Reg) (v : Word) : (s.setX r v).retired = s.retired := by
  unfold State.setX; split <;> rfl

@[simp] theorem retired_setF (s : State) (r : Reg) (v : Dword) : (s.setF r v).retired = s.retired := rfl

@[simp] theorem retired_raiseFlags (s : State) (fl : BitVec 5) : (s.raiseFlags fl).retired = s.retired := by
  unfold State.raiseFlags; split <;> rfl

@[simp] theorem retired_countEvent (s : State) (n k : Nat) : (s.countEvent n k).retired = s.retired := rfl

@[simp] theorem retired_storeBytes (s : State) (a : Word) (n : Nat) (v : Dword) :
    (s.storeBytes a n v).retired = s.retired := by
  simp [State.retired, State.counting, State.gated]

/-- MINSTRET after a retiring instruction depends on the counter, its inhibit bit and the mode gate only. -/
theorem retired_congr {s t : State} (h1 : t.mcountinhibit = s.mcountinhibit) (h2 : t.mxstatus = s.mxstatus)
    (h3 : t.priv = s.priv) (h4 : t.minstret = s.minstret) : t.retired = s.retired := by
  unfold State.retired State.counting State.gated; rw [h1, h2, h3, h4]

/-! ## Counting a trap -/

@[simp] theorem countTrap_handler (s : State) : s.countTrap.handler = s.handler := rfl

end Sys2Proof.Machine
end

