-- ==== Sys2Proof/Laws/Ops.lean ====
section
/-! SUPPORT. For each shared operation one lemma that says once everything it can do; proofs about instructions cite these
and do not unfold the operations. -/

namespace Sys2Proof.Machine

open Sys2Proof.Config

/-! ## Taking an exception (rules R570, R590) -/

/-- A raised exception always gives a next state. -/
theorem raise_eq (s : State) (c : Cause) (info : Word) (b : Bool) :
    s.raise c info b = .next (s.countTrap.takeException c s.pc info b) := rfl

/-- An illegal instruction raises its exception with its own bits (rule R563). -/
theorem illegal_eq (s : State) (i : Instr) :
    s.illegal i = .next (s.countTrap.takeException .illegalInstruction s.pc (encode i).value false) := rfl

/-- Exception entry holds the core or enters the handler. -/
theorem takeException_cases (s : State) (c : Cause) (epc info : Word) (b : Bool) :
    ((s.mexstatus.exptVld = true ∨ s.mexstatus.nmi = true) ∧ c.neverLocks = false ∧
      s.takeException c epc info b = s.lockUp epc) ∨
    ((s.mexstatus.exptVld = false ∧ s.mexstatus.nmi = false ∨ c.neverLocks = true) ∧
      s.takeException c epc info b =
        { s with
          mepc := epc
          mcause := { s.mcause with code := c.code, interrupt := false }
          mstatus := { s.mstatus with mpie := s.mstatus.mie, mie := false, mpp := s.priv }
          priv := .machine
          mtval := info
          mexstatus := { s.mexstatus with
                         exptVld := true, buserr := if c.isAccessFault then b else s.mexstatus.buserr }
          pc := s.handler }) := by
  unfold State.takeException
  cases s.mexstatus.exptVld <;> cases s.mexstatus.nmi <;> cases c.neverLocks <;> simp

/-! ## Integer results, branches, jumps -/

/-- An integer result always gives a next state. -/
theorem writeRd_eq (s : State) (rd : Reg) (v len : Word) : s.writeRd rd v len = .next ((s.setX rd v).advance len) := rfl

/-- A branch always gives a next state. -/
theorem branch_eq (s : State) (taken : Bool) (offset len : Word) :
    s.branch taken offset len = .next ((s.countEvent 9 1).goto (s.pc + if taken then offset else len)) := rfl

/-- A jump always gives a next state. -/
theorem link_eq (s : State) (rd : Reg) (target len : Word) :
    s.link rd target len = .next ((s.setX rd (s.pc + len)).goto target) := rfl

/-! ## Data accesses -/

/-- What an access with a bus error can do (rule R566). -/
theorem busErrorAt_cases {s t : State} {k : Access} {a : Word} {done : State → State} {len : Word}
    (h : s.busErrorAt k a done len = .next t) :
    (s.reportsNow = true ∧ t = s.countTrap.takeException k.faultCause s.pc a true) ∨
    (s.reportsNow = false ∧ t = (done (s.queueError k a)).advance len) := by
  unfold State.busErrorAt at h
  split at h
  · exact .inl ⟨‹_›, by simpa [raise_eq] using h.symm⟩
  · exact .inr ⟨eq_false_of_ne_true ‹_›, by simpa using h.symm⟩

/-- The answer that ends an access, with the error of a piece before it. -/
theorem checkAccess_ends {s : State} {k : Access} {a : Word} {n : Nat} {l m : List Checked} {c : Checked}
    (h : s.checkPieces k a n = l ++ c :: m) (hl : ∀ d ∈ l, s.endsAccess k d = false) (hc : s.endsAccess k c = true) :
    s.checkAccess k a n = c ∧ s.earlierError k a n = l.findSome? (s.unlostError k) := by
  have hf : l.find? (s.endsAccess k) = none := List.find?_eq_none.mpr fun d m => by simp [hl d m]
  refine ⟨by simp [State.checkAccess, h, List.find?_append, hf, hc], ?_⟩
  rw [State.earlierError, h, List.takeWhile_append_of_pos fun d m => by simp [hl d m]]
  simp [hc]

/-- An answer that ends no access is `ok` or a bus error; one that is to be reported is still unreported. -/
theorem endsAccess_false {s : State} {k : Access} {c : Checked} (h : s.endsAccess k c = false) :
    c = .ok ∨ ∃ b, c = .busError b ∧ (s.reportsNow = false ∨ k = .store ∧ s.losesError b = true) := by
  cases c with
  | ok => exact .inl rfl
  | denied => cases h
  | refused => cases h
  | busError b =>
    refine .inr ⟨b, rfl, ?_⟩
    cases hr : s.reportsNow
    · exact .inl rfl
    · refine .inr ?_
      by_cases hk : k = .store <;> cases hb : s.losesError b <;> simp_all [State.endsAccess, State.unlostError]

/-- What the check of an access can answer. -/
theorem checkAccess_cases (s : State) (k : Access) (a : Word) (n : Nat) :
    (∃ l c m, s.checkPieces k a n = l ++ c :: m ∧ (∀ d ∈ l, s.endsAccess k d = false) ∧ s.endsAccess k c = true ∧
      s.checkAccess k a n = c ∧ s.earlierError k a n = l.findSome? (s.unlostError k)) ∨
    ((∀ c ∈ s.checkPieces k a n, s.endsAccess k c = false) ∧
      ((s.checkAccess k a n = .ok ∧ ∀ c ∈ s.checkPieces k a n, c = .ok) ∨
       ∃ b, s.checkAccess k a n = .busError b ∧ Checked.busError b ∈ s.checkPieces k a n ∧
         (k = .store ∧ s.losesError b = true ∧ (s.checkPieces k a n).findSome? (s.unlostError k) = none ∨
          s.reportsNow = false ∧ (s.checkPieces k a n).findSome? (s.unlostError k) = some b))) := by
  cases hf : (s.checkPieces k a n).find? (s.endsAccess k) with
  | some c =>
    obtain ⟨hc, l, m, e, hl⟩ := List.find?_eq_some_iff_append.mp hf
    have hl : ∀ d ∈ l, s.endsAccess k d = false := fun d hd => by simpa using hl d hd
    exact .inl ⟨l, c, m, e, hl, hc, checkAccess_ends e hl hc⟩
  | none =>
    have hn : ∀ c ∈ s.checkPieces k a n, s.endsAccess k c = false := fun c hc => by
      simpa using List.find?_eq_none.mp hf c hc
    refine .inr ⟨hn, ?_⟩
    unfold State.checkAccess
    rw [hf]
    generalize s.checkPieces k a n = cs at hn
    cases hu : cs.findSome? (s.unlostError k) with
    | some b =>
      obtain ⟨c, hc, hb⟩ := List.exists_of_findSome?_eq_some hu
      rcases endsAccess_false (hn c hc) with rfl | ⟨e, rfl, h⟩
      · cases hb
      · have : e = b ∧ s.reportsNow = false := by
          rcases h with h | ⟨rfl, h⟩ <;> simp_all [State.unlostError]
        obtain ⟨rfl, hr⟩ := this
        exact .inr ⟨e, rfl, hc, .inr ⟨hr, rfl⟩⟩
    | none =>
      have hall : ∀ c ∈ cs, c = .ok ∨ ∃ b, c = .busError b ∧ k = .store ∧ s.losesError b = true := fun c hc => by
        rcases endsAccess_false (hn c hc) with h | ⟨b, rfl, _⟩
        · exact .inl h
        · have := List.findSome?_eq_none_iff.mp hu _ hc
          exact .inr ⟨b, rfl, by simpa [State.unlostError] using this⟩
      clear hf hn hu
      induction cs with
      | nil => exact .inl ⟨rfl, by simp⟩
      | cons c cs ih =>
        rcases hall c (List.mem_cons_self ..) with rfl | ⟨b, rfl, hk, hb⟩
        · rcases ih fun d hd => hall d (List.mem_cons_of_mem _ hd) with ⟨h, ho⟩ | ⟨b, h, hm, hr⟩
          · exact .inl ⟨h, List.forall_mem_cons.mpr ⟨rfl, ho⟩⟩
          · refine .inr ⟨b, h, List.mem_cons_of_mem _ hm, ?_⟩
            rcases hr with ⟨h1, h2, _⟩ | ⟨_, h⟩
            · exact .inl ⟨h1, h2, rfl⟩
            · cases h
        · exact .inr ⟨b, rfl, List.mem_cons_self .., .inl ⟨hk, hb, rfl⟩⟩

/-- An access passes exactly when all its pieces do. -/
theorem checkAccess_ok_iff {s : State} {k : Access} {a : Word} {n : Nat} :
    s.checkAccess k a n = .ok ↔ ∀ p ∈ pieces a n, s.checkPieceOf k a n p = .ok := by
  have hall : (∀ c ∈ s.checkPieces k a n, c = .ok) ↔ ∀ p ∈ pieces a n, s.checkPieceOf k a n p = .ok := by
    rw [State.checkPieces, List.forall_mem_map]
  rw [← hall]
  rcases checkAccess_cases s k a n with ⟨l, c, m, e, _, hc, h, _⟩ | ⟨_, ⟨h, ho⟩ | ⟨b, h, hm, _⟩⟩
  · rw [h, e]
    exact ⟨fun h => (by rw [h] at hc; cases hc), fun h => h c (by simp)⟩
  · exact ⟨fun _ => ho, fun _ => h⟩
  · rw [h]
    exact ⟨fun h => (by cases h), fun h => h _ hm⟩

/-- An access of one piece is answered as its piece is; when the answer ends it, no error is left over. -/
theorem checkAccess_single {s : State} {k : Access} {a : Word} {n : Nat} {p : Word × Nat} (h : pieces a n = [p]) :
    s.checkAccess k a n = s.checkPieceOf k a n p ∧
      (s.endsAccess k (s.checkPieceOf k a n p) = true → s.earlierError k a n = none) := by
  have hs : s.checkPieces k a n = [] ++ s.checkPieceOf k a n p :: [] := by simp [State.checkPieces, h]
  refine ⟨?_, fun he => (checkAccess_ends hs (by simp) he).2⟩
  rcases checkAccess_cases s k a n with ⟨l, c, m, e, _, _, h, _⟩ | ⟨_, ⟨h, ho⟩ | ⟨b, h, hm, _⟩⟩
  · rw [hs] at e
    rcases List.append_eq_cons_iff.mp e.symm with ⟨_, e⟩ | ⟨r, _, e⟩
    · rw [h]; exact (List.cons.inj e).1
    · simp at e
  · rw [h]; exact (ho _ (by simp [hs])).symm
  · rw [h]; simpa [hs] using hm

/-- The error of an earlier piece is added to those that wait. -/
theorem queueEarlier_frame (s : State) (k : Access) (e : Option Word) :
    s.queueEarlier k e =
      { s with
        busErrors := s.busErrors ++ e.toList.map (fun b => { store := k.faultCause == .storeAccessFault, addr := b }) } := by
  cases e
  · simp [State.queueEarlier]
  · rfl

/-- What a load can do. -/
theorem load_cases {s t : State} {dest : Dest} {a : Word} {n : Nat} {ext : Dword → Dword} {len : Word}
    (h : s.load dest a n ext len = .next t) :
    (s.trapsMisaligned .load a n = true ∧ t = s.countTrap.takeException .loadAddrMisaligned s.pc a false) ∨
    (s.trapsMisaligned .load a n = false ∧
      ((s.checkAccess .load a n = .ok ∧ t = (s.deliver dest (ext (s.loadValue a n))).advance len) ∨
       (∃ b, s.checkAccess .load a n = .denied b ∧ s.loadDenied b dest (s.earlierError .load a n) = .next t) ∨
       (∃ b, s.checkAccess .load a n = .busError b ∧ s.loadError .load b dest len = .next t))) := by
  unfold State.load at h
  split at h
  · exact .inl ⟨‹_›, by simpa [raise_eq] using h.symm⟩
  · refine .inr ⟨eq_false_of_ne_true ‹_›, ?_⟩
    split at h
    · exact .inl ⟨‹_›, by simpa using h.symm⟩
    · exact .inr (.inl ⟨_, ‹_›, h⟩)
    · exact .inr (.inr ⟨_, ‹_›, h⟩)
    · simp at h

/-- What a store can do. -/
theorem store_cases {s t : State} {a : Word} {n : Nat} {v : Dword} {len : Word}
    (h : s.store a n v len = .next t) :
    (s.trapsMisaligned .store a n = true ∧ t = s.countTrap.takeException .storeAddrMisaligned s.pc a false) ∨
    (s.trapsMisaligned .store a n = false ∧
      ((s.checkAccess .store a n = .ok ∧ t = ((s.storeValue a n v).countEvent 13 1).advance len) ∨
       (∃ b, s.checkAccess .store a n = .denied b ∧
          ((s.partialStore a n v).queueEarlier .store (s.earlierError .store a n)).raise .storeAccessFault b false =
            .next t) ∨
       (∃ b, s.checkAccess .store a n = .busError b ∧ s.storeError b a n v len = .next t))) := by
  unfold State.store at h
  split at h
  · exact .inl ⟨‹_›, by simpa [raise_eq] using h.symm⟩
  · refine .inr ⟨eq_false_of_ne_true ‹_›, ?_⟩
    split at h
    · exact .inl ⟨‹_›, by simpa using h.symm⟩
    · exact .inr (.inl ⟨_, ‹_›, h⟩)
    · exact .inr (.inr ⟨_, ‹_›, h⟩)
    · simp at h

/-- What a store with a bus error can do (rules R172, R566). -/
theorem storeError_cases {s t : State} {b a : Word} {n : Nat} {v : Dword} {len : Word}
    (h : s.storeError b a n v len = .next t) :
    (s.losesError b = true ∧ t = ((s.partialStore a n v).countEvent 13 1).advance len) ∨
    (s.losesError b = false ∧
      (s.partialStore a n v).busErrorAt .store b (fun t => t.countEvent 13 1) len = .next t) := by
  unfold State.storeError at h
  split at h
  · exact .inl ⟨‹_›, by simpa using h.symm⟩
  · exact .inr ⟨eq_false_of_ne_true ‹_›, h⟩

/-- What an AMO can do. -/
theorem amo_cases {s t : State} {rd : Reg} {a src : Word} {op : Word → Word → Word} (h : s.amo rd a src op = .next t) :
    (misaligned a 4 = true ∧ t = s.countTrap.takeException .storeAddrMisaligned s.pc a false) ∨
    (misaligned a 4 = false ∧
      ((s.checkAccess .amo a 4 = .ok ∧
          t = (((s.storeValue a 4 ((op ((s.loadValue a 4).setWidth 32) src).setWidth 64)).setX rd
            ((s.loadValue a 4).setWidth 32)).countAtomic).advance 4) ∨
       (∃ b, s.checkAccess .amo a 4 = .denied b ∧ t = s.countTrap.takeException .storeAccessFault s.pc b false) ∨
       (∃ b, s.checkAccess .amo a 4 = .busError b ∧ s.busErrorAt .amo b State.countAtomic 4 = .next t))) := by
  unfold State.amo at h
  split at h
  · exact .inl ⟨‹_›, by simpa [raise_eq] using h.symm⟩
  · refine .inr ⟨eq_false_of_ne_true ‹_›, ?_⟩
    split at h
    · exact .inl ⟨‹_›, by simpa using h.symm⟩
    · exact .inr (.inl ⟨_, ‹_›, by simpa [raise_eq] using h.symm⟩)
    · exact .inr (.inr ⟨_, ‹_›, h⟩)
    · simp at h

/-- What LR.W can do. -/
theorem loadReserved_cases {s t : State} {rd : Reg} {a : Word} (h : s.loadReserved rd a = .next t) :
    (misaligned a 4 = true ∧ t = s.countTrap.takeException .loadAddrMisaligned s.pc a false) ∨
    (misaligned a 4 = false ∧
      ((s.checkAccess .loadReserved a 4 = .ok ∧
          t = ({ s with reservation := some a }.setX rd ((s.loadValue a 4).setWidth 32)).advance 4) ∨
       (∃ b, s.checkAccess .loadReserved a 4 = .denied b ∧
          t = s.countTrap.takeException .loadAccessFault s.pc b false) ∨
       (∃ b, s.checkAccess .loadReserved a 4 = .busError b ∧
          s.loadError .loadReserved b (.int rd) 4 = .next t))) := by
  unfold State.loadReserved at h
  split at h
  · exact .inl ⟨‹_›, by simpa [raise_eq] using h.symm⟩
  · refine .inr ⟨eq_false_of_ne_true ‹_›, ?_⟩
    split at h
    · exact .inl ⟨‹_›, by simpa using h.symm⟩
    · exact .inr (.inl ⟨_, ‹_›, by simpa [raise_eq] using h.symm⟩)
    · exact .inr (.inr ⟨_, ‹_›, h⟩)
    · simp at h

/-- What SC.W can do. -/
theorem storeConditional_cases {s t : State} {rd : Reg} {a src : Word} (h : s.storeConditional rd a src = .next t) :
    (misaligned a 4 = true ∧ t = s.countTrap.takeException .storeAddrMisaligned s.pc a false) ∨
    (misaligned a 4 = false ∧
      ((s.checkAccess .storeConditional a 4 = .ok ∧ s.reserves a = true ∧
          t = ({ s.storeValue a 4 (src.setWidth 64) with reservation := none }.setX rd 0).countAtomic.advance 4) ∨
       ((s.checkAccess .storeConditional a 4 = .ok ∨ ∃ b, s.checkAccess .storeConditional a 4 = .busError b) ∧
          s.reserves a = false ∧ t = ({ s with reservation := none }.setX rd 1).countAtomic.advance 4) ∨
       (∃ b, s.checkAccess .storeConditional a 4 = .denied b ∧
          t = s.countTrap.takeException .storeAccessFault s.pc b false) ∨
       (∃ b, s.checkAccess .storeConditional a 4 = .busError b ∧ s.reserves a = true ∧
          s.busErrorAt .storeConditional b State.countAtomic 4 = .next t))) := by
  unfold State.storeConditional at h
  split at h
  · exact .inl ⟨‹_›, by simpa [raise_eq] using h.symm⟩
  · refine .inr ⟨eq_false_of_ne_true ‹_›, ?_⟩
    cases hr : s.reserves a <;> simp only [hr, Bool.false_eq_true, if_true, if_false] at h <;> split at h
    · exact .inr (.inl ⟨.inl ‹_›, rfl, by simpa using h.symm⟩)
    · exact .inr (.inr (.inl ⟨_, ‹_›, by simpa [raise_eq] using h.symm⟩))
    · exact .inr (.inl ⟨.inr ⟨_, ‹_›⟩, rfl, by simpa using h.symm⟩)
    · simp at h
    · exact .inl ⟨‹_›, rfl, by simpa using h.symm⟩
    · exact .inr (.inr (.inl ⟨_, ‹_›, by simpa [raise_eq] using h.symm⟩))
    · exact .inr (.inr (.inr ⟨_, ‹_›, rfl, h⟩))
    · simp at h

/-! ## Frames of the memory operations -/

/-- A device write changes the CLINT's and the CLIC's own registers only. -/
theorem deviceWrite_frame (s : State) (a : Word) (n : Nat) (v : Word) :
    s.deviceWrite a n v =
      { s with clint := (s.deviceWrite a n v).clint, clic := (s.deviceWrite a n v).clic } := by
  unfold State.deviceWrite
  split
  · rfl
  · split
    · rename_i r _; cases r <;> rfl
    · rfl

/-- A load outside the device window. -/
theorem loadValue_pieces (s : State) {a : Word} (h : inTcip a = false) (n : Nat) :
    s.loadValue a n = s.readPieces (pieces a n) := by
  unfold State.loadValue; simp [h]

/-- A load of one bus transfer. -/
theorem loadValue_memory (s : State) {a : Word} (h : inTcip a = false) {n : Nat} (hm : misaligned a n = false) (hn : n ≠ 8) :
    s.loadValue a n = (s.view a).readLE a n := by
  rw [loadValue_pieces s h]; simp [pieces, hm, hn, State.readPieces]

/-- A load of two bus transfers. -/
theorem loadValue_double (s : State) {a : Word} (h : inTcip a = false) (hm : misaligned a 8 = false) :
    s.loadValue a 8 = (s.view (a + 4)).readLE (a + 4) 4 <<< 32 ||| (s.view a).readLE a 4 := by
  rw [loadValue_pieces s h]; simp [pieces, hm, State.readPieces]

/-- What a store in write-back mode makes of a kept line: nothing, or memory and the dirty lines change. -/
theorem reviveKept_cases (s : State) (a : Word) :
    s.reviveKept a = s ∨
    ∃ d, s.mhcr.wb = true ∧ s.keptHit a = some d ∧
      s.reviveKept a =
        { s with
          mem := s.withLine d
          stale := s.noteStale (halvesOf (lineBase d.line) 32)
          dirty := { d with older := s.mem.lineAt d.line }.enter s.params s.dirty } := by
  unfold State.reviveKept
  cases hw : s.mhcr.wb
  · exact .inl rfl
  · cases hk : s.keptHit a with
    | none => exact .inl rfl
    | some d => exact .inr ⟨d, rfl, rfl, rfl⟩

/-- A kept line that is hit: the access goes through the data cache, and it is the line of the address. -/
theorem keptHit_some {s : State} {a : Word} {d : CacheLine} (h : s.keptHit a = some d) :
    s.usesDcache a = true ∧ lineStays s.freeCtr a.toNat = true ∧ d ∈ s.kept ∧ d.line = lineOf a := by
  unfold State.keptHit at h
  split at h
  · rename_i c
    rw [Bool.and_eq_true] at c
    exact ⟨c.1, c.2, List.mem_of_find?_eq_some h, by simpa using List.find?_some h⟩
  · cases h

/-- Stored bytes change memory and its overlays only. -/
theorem storeBytes_frame (s : State) (a : Word) (n : Nat) (v : Dword) :
    s.storeBytes a n v =
      { s with
        mem := (s.storeBytes a n v).mem, stale := (s.storeBytes a n v).stale, dirty := (s.storeBytes a n v).dirty,
        kept := (s.storeBytes a n v).kept } := by
  unfold State.storeBytes
  rcases reviveKept_cases s a with h | ⟨d, _, _, h⟩ <;> rw [h]

/-- A store outside the device window writes its pieces. -/
theorem storeValue_pieces (s : State) {a : Word} (h : inTcip a = false) (n : Nat) (v : Dword) :
    s.storeValue a n v = (pieces a n).foldl (State.storePiece a v) s := by
  unfold State.storeValue; simp [h]

/-- An aligned store of at most 4 bytes outside the device window. -/
theorem storeValue_memory (s : State) {a : Word} (h : inTcip a = false) {n : Nat} (hm : misaligned a n = false) (hn : n ≠ 8)
    (v : Dword) : s.storeValue a n v = s.storeBytes a n v := by
  rw [storeValue_pieces s h]
  simp [pieces, hm, hn, State.storePiece]

/-- Pieces written to memory change memory and its overlays only. -/
theorem storePieces_frame (a : Word) (v : Dword) (ps : List (Word × Nat)) (s : State) :
    ∃ m st d k, ps.foldl (State.storePiece a v) s = { s with mem := m, stale := st, dirty := d, kept := k } := by
  induction ps generalizing s with
  | nil => exact ⟨_, _, _, _, rfl⟩
  | cons p ps ih =>
    obtain ⟨m, st, d, k, h⟩ := ih (s.storePiece a v p)
    rw [List.foldl_cons, h]
    unfold State.storePiece
    rw [storeBytes_frame]
    exact ⟨m, st, d, k, rfl⟩

/-- A store that faults writes some of its pieces. -/
theorem partialStore_pieces (s : State) (a : Word) (n : Nat) (v : Dword) :
    s.partialStore a n v =
      (((pieces a n).zipIdx.filter fun p => s.mayBeWritten a n p && pieceWritten s.freeCtr p.2).map Prod.fst).foldl
        (State.writePiece a v) s := by
  rw [List.foldl_map]; rfl

/-- Pieces change memory, its overlays, and the devices' registers only. -/
theorem writePieces_frame (a : Word) (v : Dword) (ps : List (Word × Nat)) (s : State) :
    ∃ m st d l c k, ps.foldl (State.writePiece a v) s =
      { s with mem := m, stale := st, dirty := d, kept := l, clint := c, clic := k } := by
  induction ps generalizing s with
  | nil => exact ⟨_, _, _, _, _, _, rfl⟩
  | cons p ps ih =>
    obtain ⟨m, st, d, l, c, k, h⟩ := ih (s.writePiece a v p)
    rw [List.foldl_cons, h]
    unfold State.writePiece
    split
    · rw [deviceWrite_frame]; exact ⟨_, _, _, _, _, _, rfl⟩
    · unfold State.storePiece
      rw [storeBytes_frame]; exact ⟨_, _, _, _, _, _, rfl⟩

/-- A store changes memory, its overlays, and the devices' registers only. -/
theorem storeValue_frame (s : State) (a : Word) (n : Nat) (v : Dword) :
    s.storeValue a n v =
      { s with
        mem := (s.storeValue a n v).mem, stale := (s.storeValue a n v).stale, dirty := (s.storeValue a n v).dirty,
        kept := (s.storeValue a n v).kept, clint := (s.storeValue a n v).clint, clic := (s.storeValue a n v).clic } := by
  unfold State.storeValue
  split
  · split
    · rw [deviceWrite_frame, deviceWrite_frame s]
    · rw [deviceWrite_frame]
  · obtain ⟨m, st, d, k, h⟩ := storePieces_frame a v (pieces a n) s
    rw [h]

/-- A device access leaves memory as it is. -/
theorem storeValue_device_mem (s : State) {a : Word} (h : inTcip a = true) (n : Nat) (v : Dword) :
    (s.storeValue a n v).mem = s.mem := by
  unfold State.storeValue
  rw [if_pos h]
  split
  · rw [deviceWrite_frame, deviceWrite_frame s]
  · rw [deviceWrite_frame]

/-- A store that faults changes memory, its overlays, and the devices' registers only. -/
theorem partialStore_frame (s : State) (a : Word) (n : Nat) (v : Dword) :
    ∃ m st d l c k, s.partialStore a n v =
      { s with mem := m, stale := st, dirty := d, kept := l, clint := c, clic := k } := by
  rw [partialStore_pieces]; exact writePieces_frame _ _ _ _

/-- A register write changes the register file only. -/
theorem setX_frame (s : State) (rd : Reg) (v : Word) : ∃ x, s.setX rd v = { s with x := x } := by
  unfold State.setX; split
  · exact ⟨s.x, rfl⟩
  · exact ⟨_, rfl⟩

/-- Raised flags change FCSR and FS only. -/
theorem raiseFlags_frame (s : State) (fl : BitVec 5) :
    ∃ c m, s.raiseFlags fl = { s with fcsr := c, mstatus := { s.mstatus with fs := m } } := by
  unfold State.raiseFlags; split
  · exact ⟨s.fcsr, s.mstatus.fs, rfl⟩
  · exact ⟨_, _, rfl⟩

/-- A loaded value changes the register files and FS only. -/
theorem deliver_frame (s : State) (d : Dest) (v : Dword) :
    ∃ x f m, s.deliver d v = { s with x := x, f := f, mstatus := { s.mstatus with fs := m } } := by
  cases d with
  | int rd =>
    obtain ⟨x, h⟩ := setX_frame s rd (v.setWidth 32)
    exact ⟨x, s.f, s.mstatus.fs, h⟩
  | float fd => exact ⟨_, _, _, rfl⟩

/-- An unstated destination changes the register files and FS only, or nothing. -/
theorem deliverUnstated_frame (s : State) (d : Dest) :
    ∃ x f m, s.deliverUnstated d = { s with x := x, f := f, mstatus := { s.mstatus with fs := m } } := by
  unfold State.deliverUnstated; split
  · exact deliver_frame s d _
  · exact ⟨s.x, s.f, s.mstatus.fs, rfl⟩

/-! ## Floating point: enabling (rules R37, R380, R383) -/

/-- A floating-point instruction without rounding mode. -/
theorem fp_cases {s t : State} {en : Bool} {i : Instr} {r : Result} (h : s.fp en i r = .next t) :
    (en = true ∧ r = .next t) ∨ (en = false ∧ s.illegal i = .next t) := by
  unfold State.fp at h
  cases en
  · exact .inr ⟨rfl, by simpa using h⟩
  · exact .inl ⟨rfl, by simpa using h⟩

/-- A floating-point instruction with a rounding mode. -/
theorem fpRounded_cases {s t : State} {en : Bool} {i : Instr} {rm : BitVec 3} {k : Rounding → Result}
    (h : s.fpRounded en i rm k = .next t) :
    (en = true ∧ ∃ m, s.rounding rm = some m ∧ k m = .next t) ∨
    ((en = false ∨ s.rounding rm = none) ∧ s.illegal i = .next t) := by
  unfold State.fpRounded at h
  rcases fp_cases h with ⟨he, h⟩ | ⟨he, h⟩
  · cases hm : s.rounding rm with
    | none => exact .inr ⟨.inr rfl, by simpa [hm] using h⟩
    | some m => exact .inl ⟨he, m, rfl, by simpa [hm] using h⟩
  · exact .inr ⟨.inl he, h⟩

/-! ## Cache and synchronisation instructions (rule R531) -/

/-- A cache instruction works in machine mode when enabled, and is illegal otherwise. -/
theorem cacheOp_cases {s t : State} {i : Instr} {op : State → State} (h : s.cacheOp i op = .next t) :
    (s.mxstatus.thead = true ∧ s.priv = .machine ∧ t = (op s).advance 4) ∨
    ((s.mxstatus.thead = false ∨ s.priv = .user) ∧ s.illegal i = .next t) := by
  unfold State.cacheOp at h
  cases ht : s.mxstatus.thead <;> cases hp : s.priv <;> simp_all

/-- A synchronisation instruction works when enabled, and is illegal otherwise. -/
theorem syncOp_cases {s t u : State} {i : Instr} (h : s.syncOp i u = .next t) :
    (s.mxstatus.thead = true ∧ t = u.advance 4) ∨ (s.mxstatus.thead = false ∧ s.illegal i = .next t) := by
  unfold State.syncOp at h
  cases ht : s.mxstatus.thead <;> simp_all

/-! ## CSR instructions (rules R31, R299) -/

/-- What an access to an ordinary register can do. -/
theorem accessPlain_cases {s t : State} {c : Csr} {op : CsrOp} {write : Bool} {rd : Reg} {v : Word}
    (h : s.accessPlain c op write rd v = .next t) :
    (write = true ∧ ∃ u, s.writeCsr (op.apply (s.readCsr c) v) c = .ok u ∧
      s.csrDone u c true rd (s.readCsr c) = .next t) ∨
    (write = false ∧ s.csrDone s c false rd (s.readCsr c) = .next t) := by
  unfold State.accessPlain at h
  cases write
  · exact .inr ⟨rfl, by simpa using h⟩
  · refine .inl ⟨rfl, ?_⟩
    simp only [if_true] at h
    split at h
    · exact ⟨_, ‹_›, h⟩
    · simp at h

/-- What a CSR instruction can do: it is illegal, or it is one of the four kinds of access. -/
theorem csrInstr_cases {s t : State} {i : Instr} {a : BitVec 12} {op : CsrOp} {write imm : Bool} {rd : Reg} {v : Word}
    (h : s.csrInstr i a op write imm rd v = .next t) :
    s.illegal i = .next t ∨
    ∃ c, csrAt a = some c ∧ s.csrAllowed c write = true ∧
      (s.accessMnxti op rd v = .next t ∨ (∃ sw, s.swapScratch c sw rd v = .next t) ∨
        s.accessPlain c op write rd v = .next t) := by
  unfold State.csrInstr at h
  cases hc : csrAt a with
  | none => rw [hc] at h; exact .inl h
  | some c =>
    rw [hc] at h
    simp only at h
    cases ha : s.csrAllowed c write with
    | false => exact .inl (by simpa [ha] using h)
    | true =>
      refine .inr ⟨c, rfl, ha, ?_⟩
      simp only [ha, Bool.not_true, Bool.false_eq_true, if_false] at h
      split at h
      · split at h
        · exact .inl h
        · simp at h
      · split at h
        · exact .inr (.inl ⟨_, h⟩)
        · simp at h
      · split at h
        · exact .inr (.inl ⟨_, h⟩)
        · simp at h
      · exact .inr (.inr h)

/-! ## The step (rule R610) -/

/-- A step that gives a next state runs one cycle. -/
theorem step_next {s t : State} (h : step s = .next t) : s.params.wf = true ∧ s.cycle = .next t := by
  unfold step at h
  split at h
  · exact ⟨‹_›, h⟩
  · simp at h

/-- What happens after the inputs are sampled. -/
theorem afterSample_cases {s t : State} (h : s.afterSample = .next t) :
    (s.pins.reset = true ∧ t = s.onReset) ∨
    (s.pins.reset = false ∧ s.lockedUp = true ∧ s.takesNmi = true ∧ t = s.nmiEntry) ∨
    (s.pins.reset = false ∧ s.lockedUp = true ∧ s.takesNmi = false ∧ t = s) ∨
    (s.pins.reset = false ∧ s.lockedUp = false ∧ s.asleep = true ∧ s.wakes = false ∧ t = s) ∨
    (s.pins.reset = false ∧ s.lockedUp = false ∧ (s.asleep = false ∨ s.wakes = true) ∧
      { s with asleep := false }.boundary = .next t) := by
  unfold State.afterSample at h
  cases hr : s.pins.reset <;> cases hl : s.lockedUp <;> cases hn : s.takesNmi <;> cases ha : s.asleep <;>
    cases hw : s.wakes <;> simp_all

/-- What happens at a boundary. -/
theorem boundary_cases {s t : State} (h : s.boundary = .next t) :
    (s.takesNmi = true ∧ t = s.nmiEntry) ∨
    (s.takesNmi = false ∧ ∃ c, s.takenInterrupt = some c ∧ s.interruptEntry c = .next t) ∨
    (s.takesNmi = false ∧ s.takenInterrupt = none ∧ ∃ e, s.reportedBusError = some e ∧ t = s.reportBusError e) ∨
    (s.takesNmi = false ∧ s.takenInterrupt = none ∧ s.reportedBusError = none ∧ s.fetchExecute = .next t) := by
  unfold State.boundary at h
  cases hn : s.takesNmi with
  | true => exact .inl ⟨rfl, by simpa [hn] using h.symm⟩
  | false =>
    simp only [hn, Bool.false_eq_true, if_false] at h
    cases hi : s.takenInterrupt with
    | some c => exact .inr (.inl ⟨rfl, c, rfl, by simpa [hi] using h⟩)
    | none =>
      cases hb : s.reportedBusError with
      | some e => exact .inr (.inr (.inl ⟨rfl, rfl, e, rfl, by simpa [hi, hb] using h.symm⟩))
      | none => exact .inr (.inr (.inr ⟨rfl, rfl, rfl, by simpa [hi, hb] using h⟩))

/-- What fetching and executing can do. -/
theorem fetchExecute_cases {s t : State} (h : s.fetchExecute = .next t) :
    (∃ c i, s.fetchCode s.priv s.pc = .ok c ∧ decodeCode c = .ok i ∧ exec i s = .next t) ∨
    (∃ c e, s.fetchCode s.priv s.pc = .ok c ∧ decodeCode c = .error e ∧
      s.raise .illegalInstruction c.value false = .next t) ∨
    (∃ a, s.fetchCode s.priv s.pc = .denied a ∧ s.raise .instrAccessFault a false = .next t) := by
  unfold State.fetchExecute at h
  cases hf : s.fetchCode s.priv s.pc with
  | denied a => exact .inr (.inr ⟨a, rfl, by simpa [hf] using h⟩)
  | refused r => simp [hf] at h
  | ok c =>
    simp only [hf, State.executeCode] at h
    cases hd : decodeCode c with
    | ok i => exact .inl ⟨c, i, rfl, hd, by simpa [hd] using h⟩
    | error e =>
      refine .inr (.inl ⟨c, e, rfl, hd, ?_⟩)
      simp only [hd, State.undefinedCode] at h
      split at h
      · split at h
        · exact h
        · simp at h
      · exact h

/-- What interrupt entry can do. -/
theorem vectorEntry_cases {s t : State} {id : Nat} (h : s.vectorEntry id = .next t) :
    (∃ w, t = { (s.setMinhv true).setMinhv false with pc := evenTarget w }) ∨
    t = (s.setMinhv true).takeException .instrAccessFault (s.mtvt + BitVec.ofNat 32 (4 * id))
      (s.mtvt + BitVec.ofNat 32 (4 * id)) false := by
  unfold State.vectorEntry at h
  simp only at h
  split at h
  · exact .inl ⟨_, by simpa using h.symm⟩
  · exact .inr (Host.Outcome.next.inj h).symm
  · simp at h

/-! ## Every memory operation keeps the canonical form (rule R140) -/

/-- Memory with a line that the data cache holds has the canonical form. -/
theorem withLine_wf {s : State} (h : s.mem.wf = true) (d : CacheLine) : (s.withLine d).wf = true :=
  Memory.wf_writeBytes h _ _

/-- Making a kept line dirty keeps the canonical form. -/
theorem reviveKept_wf {s : State} (h : s.mem.wf = true) (a : Word) : (s.reviveKept a).mem.wf = true := by
  rcases reviveKept_cases s a with e | ⟨d, _, _, e⟩
  · rw [e]; exact h
  · have := withLine_wf h d
    simpa only [e] using this

/-- A store to memory keeps the canonical form. -/
theorem storeBytes_wf {s : State} (h : s.mem.wf = true) (a : Word) (n : Nat) (v : Dword) :
    (s.storeBytes a n v).mem.wf = true := by
  rw [storeBytes_mem]; exact Memory.wf_writeLE (reviveKept_wf h a) a n v

/-- Pieces written to memory keep the canonical form. -/
theorem storePieces_wf {s : State} (h : s.mem.wf = true) (a : Word) (v : Dword) (ps : List (Word × Nat)) :
    (ps.foldl (State.storePiece a v) s).mem.wf = true := by
  induction ps generalizing s with
  | nil => exact h
  | cons p ps ih => exact ih (storeBytes_wf h _ _ _)

/-- Writing pieces, some of them to the devices, keeps the canonical form. -/
theorem writePieces_wf {s : State} (h : s.mem.wf = true) (a : Word) (v : Dword) (ps : List (Word × Nat)) :
    (ps.foldl (State.writePiece a v) s).mem.wf = true := by
  induction ps generalizing s with
  | nil => exact h
  | cons p ps ih =>
    refine ih ?_
    unfold State.writePiece
    split
    · rw [deviceWrite_frame]; exact h
    · exact storePieces_wf h a v [p]

/-- A store to memory or to the devices keeps the canonical form. -/
theorem storeValue_wf {s : State} (h : s.mem.wf = true) (a : Word) (n : Nat) (v : Dword) :
    (s.storeValue a n v).mem.wf = true := by
  cases ht : inTcip a with
  | true => rw [storeValue_device_mem s ht]; exact h
  | false => rw [storeValue_pieces s ht]; exact storePieces_wf h _ _ _

/-- A store that faults keeps the canonical form. -/
theorem partialStore_wf {s : State} (h : s.mem.wf = true) (a : Word) (n : Nat) (v : Dword) :
    (s.partialStore a n v).mem.wf = true := by
  rw [partialStore_pieces]; exact writePieces_wf h _ _ _

/-- Losing a line keeps the canonical form. -/
theorem loseLine_wf {s : State} (h : s.mem.wf = true) (d : CacheLine) : (s.loseLine d).mem.wf = true := by
  unfold State.loseLine; split
  · exact h
  · exact Memory.wf_writeBytes h _ _

/-- Invalidating lines of the data cache keeps the canonical form. -/
theorem discardLines_wf {s : State} (h : s.mem.wf = true) (sel : CacheLine → Bool) :
    (s.discardLines sel).mem.wf = true := by
  unfold State.discardLines
  rw [dropKept_mem, cleanLines_mem]
  induction s.dirty.filter sel generalizing s with
  | nil => exact h
  | cons d l ih => exact ih (loseLine_wf h d)

/-- Invalidating lines of the data cache changes memory and its overlays only. -/
theorem discardLines_frame (s : State) (sel : CacheLine → Bool) :
    ∃ m st, s.discardLines sel =
      { s with
        mem := m, stale := st, dirty := s.dirty.filter fun d => !sel d, kept := s.kept.filter fun d => !sel d } := by
  unfold State.discardLines
  suffices h : ∀ l : List CacheLine, ∃ m st, l.foldl State.loseLine s = { s with mem := m, stale := st } by
    obtain ⟨m, st, h⟩ := h (s.dirty.filter sel)
    exact ⟨m, st, by rw [h]; rfl⟩
  intro l
  induction l generalizing s with
  | nil => exact ⟨_, _, rfl⟩
  | cons d l ih =>
    obtain ⟨m, st, h⟩ := ih (s.loseLine d)
    refine ⟨m, st, h.trans ?_⟩
    unfold State.loseLine; split <;> rfl

/-- Placing an instruction keeps the canonical form. -/
theorem withFetchWord_wf {s : State} (h : s.mem.wf = true) (nbits w : Nat) : (s.withFetchWord nbits w).mem.wf = true :=
  Memory.wf_writeLE h s.pc 4 _

/-- The memory after reset has the canonical form. -/
theorem reset_mem_wf : State.reset.mem.wf = true := rfl

end Sys2Proof.Machine
end

