-- ==== Sys2Proof/Laws/DataCache.lean ====
section
/-! SUPPORT. The lines of the data cache: what losing, keeping and storing to them does, in the terms of Sys2Proof/Safety.lean. -/

namespace Sys2Proof.Machine

open Sys2Proof.Config

/-! ## Lines and their addresses -/

/-- The line of an address as a number. -/
theorem lineOf_eq {c : Word} {l : BitVec 27} : lineOf c = l ↔ c.toNat / 32 = l.toNat := by
  have h : (lineOf c).toNat = c.toNat / 32 := by
    unfold lineOf
    rw [BitVec.extractLsb'_toNat, Nat.shiftRight_eq_div_pow]
    have := c.isLt; omega
  exact ⟨fun e => by rw [← e, h], fun e => BitVec.eq_of_toNat_eq (h.trans e)⟩

/-- The first address of a line as a number. -/
theorem lineBase_toNat (l : BitVec 27) : (lineBase l).toNat = 32 * l.toNat := by
  unfold lineBase
  rw [BitVec.toNat_append, Nat.shiftLeft_eq]; simp; omega

/-- Addresses of one page have the same attributes (rule R170). -/
theorem attrOf_congr (rs : List SysmapRegion) {a b : Word} (h : a.extractLsb' 12 20 = b.extractLsb' 12 20) :
    attrOf rs a = attrOf rs b := by
  induction rs with
  | nil => rfl
  | cons r rs ih => simp only [attrOf, h, ih]

/-- An access goes through the data cache when its line may be held there. -/
theorem usesDcache_iff (s : State) (a : Word) : s.usesDcache a = true ↔ s.cachesLine (lineOf a) := by
  have e : attrOf s.params.sysmap (BitVec.ofNat 32 (32 * (lineOf a).toNat)) = attrOf s.params.sysmap a := by
    apply attrOf_congr
    have h := (lineOf_eq (c := a)).mp rfl
    apply BitVec.eq_of_toNat_eq
    simp only [BitVec.extractLsb'_toNat, BitVec.toNat_ofNat, Nat.shiftRight_eq_div_pow]
    have := a.isLt; omega
  simp only [State.usesDcache, State.cachesLine, e, Bool.and_eq_true, bne_iff_ne, ne_eq, Bool.not_eq_true', and_assoc]

/-! ## What a load finds -/

/-- Memory with the contents of a kept line. -/
theorem withLine_read {s : State} (hw : s.mem.wf = true) (d : CacheLine) (c : Word) :
    (s.withLine d).read c.toNat =
      if c.toNat / 32 = d.line.toNat then d.older.getD (c.toNat % 32) 0 else s.mem.read c.toNat := by
  have hb := lineBase_toNat d.line
  have hl := d.line.isLt
  have len : d.bytes.length = 32 := by simp [CacheLine.bytes]
  unfold State.withLine
  rw [Memory.read_writeBytes hw _ _ _ (by omega)]
  by_cases h : c.toNat / 32 = d.line.toNat
  · have e : (c - lineBase d.line).toNat = c.toNat % 32 := by bv_omega
    rw [if_pos h, e, List.getD_eq_getElem _ _ (by omega)]
    simp [CacheLine.bytes]
  · have e : 32 ≤ (c - lineBase d.line).toNat := by bv_omega
    rw [if_neg h, List.getD_eq_default _ _ (by omega)]

/-- An access finds memory, whatever lines it touches. -/
theorem mayFind_mem (s : State) (lines : BitVec 27 → Prop) : s.mayFind lines fun c => s.mem.read c.toNat :=
  fun _ => .inl fun _ _ => rfl

/-- An access may find a kept line that it hits. -/
theorem mayFind_withLine {s : State} (hw : s.mem.wf = true) {a : Word} {d : CacheLine} (h : s.keptHit a = some d) :
    s.mayFind (fun l => lineOf a = l) fun c => (s.withLine d).read c.toNat := by
  obtain ⟨h1, _, h2, h3⟩ := keptHit_some h
  intro l
  by_cases e : d.line = l
  · subst e
    refine .inr ⟨h3.symm, h3 ▸ (usesDcache_iff s a).mp h1, d, h2, rfl, fun c hc => ?_⟩
    beta_reduce; rw [withLine_read hw, if_pos hc]
  · refine .inl fun c hc => ?_
    beta_reduce; rw [withLine_read hw, if_neg fun h => e (BitVec.eq_of_toNat_eq (h.symm.trans hc))]

/-- More lines may be found when more are touched. -/
theorem mayFind_mono {s : State} {p q : BitVec 27 → Prop} {g : Word → Byte} (h : s.mayFind p g) (hpq : ∀ l, p l → q l) :
    s.mayFind q g :=
  fun l => (h l).imp id fun ⟨h1, h2⟩ => ⟨hpq l h1, h2⟩

/-- The first address of an access lies in a line that it touches. -/
theorem touches_first {a : Word} {n : Nat} (hn : 0 < n) {l : BitVec 27} (h : lineOf a = l) : touches a n l :=
  ⟨0, hn, by simpa using lineOf_eq.mp h⟩

/-- A load of one bus transfer finds what it reads. -/
theorem mayFind_view {s : State} (hw : s.mem.wf = true) (a : Word) {n : Nat} (hn : 0 < n) :
    s.mayFind (touches a n) fun c => (s.view a).read c.toNat := by
  unfold State.view
  split
  · exact mayFind_mono (mayFind_withLine hw ‹_›) fun l h => touches_first hn h
  · exact mayFind_mem s _

/-! ## What a store does -/

/-- A store to some lines, which wrote a byte to each address of a range: `State.wroteBytes` for any lines and range. -/
def State.wrote (s t : State) (lines : BitVec 27 → Prop) (range : Word → Prop) (byte : Word → Byte) (g : Word → Byte) : Prop :=
  (∀ c : Word, (range c → t.mem.read c.toNat = byte c) ∧
    (¬ range c → t.mem.read c.toNat = if s.mhcr.wb = true then g c else s.mem.read c.toNat)) ∧
  (s.mhcr.de = false → t.kept = s.kept) ∧ (s.mhcr.de = false ∨ s.mhcr.wb = false → t.dirty = s.dirty) ∧
  (∀ e ∈ s.kept, ¬ lines e.line → e ∈ t.kept) ∧ (∀ d ∈ t.dirty, d ∈ s.dirty ∨ lines d.line) ∧
  ∀ d ∈ t.kept, ∃ e ∈ s.kept, d.line = e.line ∧ d.way = e.way ∧
    (lines d.line → s.cachesLine d.line → s.mhcr.wb = false) ∧
    ∀ c : Word, c.toNat / 32 = d.line.toNat →
      (range c ∧ s.cachesLine d.line → d.older.getD (c.toNat % 32) 0 = byte c) ∧
      (¬ (range c ∧ s.cachesLine d.line) → d.older.getD (c.toNat % 32) 0 = e.older.getD (c.toNat % 32) 0)

/-- Storing nothing. -/
theorem wrote_refl (s : State) (byte : Word → Byte) :
    s.wrote s (fun _ => False) (fun _ => False) byte fun c => s.mem.read c.toNat :=
  ⟨fun _ => ⟨False.elim, fun _ => (ite_self _).symm⟩, fun _ => rfl, fun _ => rfl, fun _ h _ => h, fun _ h => .inl h,
    fun d h => ⟨d, h, rfl, rfl, False.elim, fun _ _ => ⟨fun h => h.1.elim, fun _ => rfl⟩⟩⟩

/-- Two stores after each other, the range of the first lying in its lines. -/
theorem wrote_trans {s u t : State} {L M : BitVec 27 → Prop} {p q : Word → Prop} {byte g k : Word → Byte}
    (h1 : s.wrote u L p byte g) (h2 : u.wrote t M q byte k) (hg : s.mayFind L g) (hh : u.mayFind M k)
    (hm : u.mhcr = s.mhcr) (hp : u.params = s.params) (hL : ∀ c, p c → L (lineOf c)) :
    ∃ f, s.mayFind (fun l => L l ∨ M l) f ∧ s.wrote t (fun l => L l ∨ M l) (fun c => p c ∨ q c) byte f := by
  classical
  have hc : ∀ l, u.cachesLine l ↔ s.cachesLine l := fun l => by unfold State.cachesLine; rw [hm, hp]
  obtain ⟨a1, b1, c1, d1, e1, f1⟩ := h1
  obtain ⟨a2, b2, c2, d2, e2, f2⟩ := h2
  rw [hm] at a2 b2 c2 f2
  have away : ∀ (l : BitVec 27), ¬ L l → ∀ c : Word, c.toNat / 32 = l.toNat → u.mem.read c.toNat = s.mem.read c.toNat := by
    intro l hl c hc
    have e : lineOf c = l := lineOf_eq.mpr hc
    rw [(a1 c).2 fun h => hl (e ▸ hL c h)]
    split
    · rcases hg l with h | ⟨h, _⟩
      · exact h c hc
      · exact absurd h hl
    · rfl
  refine ⟨fun c => if L (lineOf c) then g c else k c, fun l => ?_, fun c => ⟨fun r => ?_, fun r => ?_⟩, ?_, ?_, ?_, ?_, ?_⟩
  · by_cases hl : L l
    · rcases hg l with h | ⟨_, h1, d, h2, h3, h4⟩
      · exact .inl fun c hc => by beta_reduce; rw [if_pos (lineOf_eq.mpr hc ▸ hl)]; exact h c hc
      · exact .inr ⟨.inl hl, h1, d, h2, h3, fun c hc => by beta_reduce; rw [if_pos (lineOf_eq.mpr hc ▸ hl)]; exact h4 c hc⟩
    · rcases hh l with h | ⟨hM, h1, d, h2, h3, h4⟩
      · exact .inl fun c hc => by beta_reduce; rw [if_neg (lineOf_eq.mpr hc ▸ hl), h c hc, away l hl c hc]
      · obtain ⟨e, he, l1, _, _, by'⟩ := f1 d h2
        refine .inr ⟨.inr hM, (hc l).mp h1, e, he, l1.symm.trans h3, fun c hc => ?_⟩
        beta_reduce; rw [if_neg (lineOf_eq.mpr hc ▸ hl), h4 c hc]
        exact (by' c (h3 ▸ hc)).2 fun h => hl (lineOf_eq.mpr hc ▸ hL c h.1)
  · by_cases q' : q c
    · exact (a2 c).1 q'
    · have p' : p c := r.resolve_right q'
      rw [(a2 c).2 q']
      split
      · rcases hh (lineOf c) with h | ⟨_, h1, d, h2, h3, _⟩
        · rw [h c (lineOf_eq.mp rfl)]; exact (a1 c).1 p'
        · obtain ⟨_, _, _, _, f, _⟩ := f1 d h2
          rw [h3] at f
          have := f (hL c p') ((hc _).mp h1)
          simp_all
      · exact (a1 c).1 p'
  · obtain ⟨p', q'⟩ := not_or.mp r
    rw [(a2 c).2 q']
    beta_reduce
    split
    · rename_i wb
      by_cases hl : L (lineOf c)
      · rw [if_pos hl]
        rcases hh (lineOf c) with h | ⟨_, h1, d, h2, h3, _⟩
        · rw [h c (lineOf_eq.mp rfl), (a1 c).2 p', if_pos wb]
        · obtain ⟨_, _, _, _, f, _⟩ := f1 d h2
          rw [h3] at f
          have := f hl ((hc _).mp h1)
          simp_all
      · rw [if_neg hl]
    · rw [(a1 c).2 p', if_neg ‹_›]
  · exact fun h => (b2 h).trans (b1 h)
  · exact fun h => (c2 h).trans (c1 h)
  · exact fun e he hl => d2 e (d1 e he fun h => hl (.inl h)) fun h => hl (.inr h)
  · exact fun d hd => (e2 d hd).elim (fun h => (e1 d h).imp id .inl) fun h => .inr (.inr h)
  · intro d hd
    obtain ⟨e, he, l2, w2, x2, y2⟩ := f2 d hd
    obtain ⟨e', he', l1, w1, x1, y1⟩ := f1 e he
    refine ⟨e', he', l2.trans l1, w2.trans w1, fun h k => h.elim (fun h => x1 (l2 ▸ h) (l2 ▸ k)) fun h => x2 h ((hc _).mpr k),
      fun c hcl => ⟨fun h => ?_, fun h => ?_⟩⟩
    · by_cases q' : q c
      · exact (y2 c hcl).1 ⟨q', (hc _).mpr h.2⟩
      · rw [(y2 c hcl).2 fun k => q' k.1]
        exact (y1 c (l2 ▸ hcl)).1 ⟨h.1.resolve_right q', l2 ▸ h.2⟩
    · rw [(y2 c hcl).2 fun k => h ⟨.inr k.1, (hc _).mp k.2⟩]
      exact (y1 c (l2 ▸ hcl)).2 fun k => h ⟨.inl k.1, l2 ▸ k.2⟩

/-- The line of an address that a store changes is the one it is stored in. -/
theorem CacheLine.write_getD (d : CacheLine) (a : Word) (n : Nat) (v : Dword) {c : Word}
    (h : c.toNat / 32 = d.line.toNat) :
    (d.write a n v).older.getD (c.toNat % 32) 0 =
      if (c - a).toNat < n then (v >>> (8 * (c - a).toNat)).setWidth 8 else d.older.getD (c.toNat % 32) 0 := by
  have hb := lineBase_toNat d.line
  have hl := d.line.isLt
  have e : lineBase d.line + BitVec.ofNat 32 (c.toNat % 32) = c := by bv_omega
  unfold CacheLine.write
  dsimp only
  rw [List.getD_eq_getElem _ _ (by simp; omega)]
  simp only [List.getElem_map, List.getElem_range, e]

/-- The lines among which one takes its place. -/
theorem CacheLine.mem_enter {p : Params} {d e : CacheLine} {ls : List CacheLine} (h : e ∈ d.enter p ls) : e = d ∨ e ∈ ls :=
  (List.mem_cons.mp h).imp id fun h => (List.mem_filter.mp h).1

/-- The dirty lines after a store: none but the stored line is new. -/
theorem mem_noteDirty {s : State} {a : Word} {d : CacheLine} (h : d ∈ s.noteDirty a) : d ∈ s.dirty ∨ d.line = lineOf a := by
  unfold State.noteDirty at h
  dsimp only at h
  split at h
  · exact .inl h
  · split at h
    · exact (CacheLine.mem_enter h).symm.imp id fun h => by rw [h]
    · exact .inl (List.mem_filter.mp h).1

/-- What a store of one bus transfer does, as `State.wrote` says. -/
theorem storeBytes_wrote {s : State} (hw : s.mem.wf = true) (a : Word) {n : Nat} (v : Dword) (byte : Word → Byte)
    (fits : a.toNat % 32 + n ≤ 32) (hn : n ≤ 8)
    (hb : ∀ c : Word, (c - a).toNat < n → (v >>> (8 * (c - a).toNat)).setWidth 8 = byte c) :
    ∃ g, s.mayFind (fun l => lineOf a = l) g ∧
      s.wrote (s.storeBytes a n v) (fun l => lineOf a = l) (fun c => (c - a).toNat < n) byte g := by
  have inLine : ∀ c : Word, (c - a).toNat < n → lineOf a = lineOf c := fun c h => by
    rw [lineOf_eq, (lineOf_eq (c := c)).mp rfl |>.symm]
    bv_omega
  have hmem : ∀ (m : Memory), m.wf = true → ∀ c : Word, (m.writeLE a n v).read c.toNat =
      if (c - a).toNat < n then byte c else m.read c.toNat := fun m hm c => by
    rw [Memory.read_writeLE hm _ _ _ hn]
    split
    · exact hb c ‹_›
    · rfl
  have kept : (s.storeBytes a n v).kept = s.noteKept a n v := rfl
  cases hu : s.usesDcache a with
  | false =>
    have no : ¬ s.cachesLine (lineOf a) := fun h => by simp [(usesDcache_iff s a).mpr h] at hu
    have hk : s.keptHit a = none := by simp [State.keptHit, hu]
    have hr : s.reviveKept a = s := (reviveKept_cases s a).resolve_right fun ⟨d, _, h, _⟩ => by simp [hk] at h
    have hkept : (s.storeBytes a n v).kept = s.kept := by rw [kept]; simp [State.noteKept, hu]
    have hdirty : (s.storeBytes a n v).dirty = s.dirty := by
      show (s.reviveKept a).noteDirty a = _
      rw [hr]; simp [State.noteDirty, State.writesBack, hu]
    refine ⟨_, mayFind_mem s _, fun c => ?_, fun _ => hkept, fun _ => hdirty, fun e h _ => hkept ▸ h, fun d h => .inl (hdirty ▸ h),
      fun d h => ⟨d, hkept ▸ h, rfl, rfl, fun h1 h2 => absurd (h1 ▸ h2) no, fun c hc => ⟨fun h => ?_, fun _ => rfl⟩⟩⟩
    · rw [storeBytes_mem, hr, hmem _ hw, ite_self]
      exact ⟨fun h => if_pos h, fun h => if_neg h⟩
    · exact absurd (by rw [inLine c h.1, lineOf_eq.mpr hc]; exact h.2) no
  | true =>
    have yes := (usesDcache_iff s a).mp hu
    have de : s.mhcr.de = true := yes.1
    cases wb : s.mhcr.wb with
    | false =>
      have hr : s.reviveKept a = s := (reviveKept_cases s a).resolve_right fun ⟨d, h, _⟩ => by simp [wb] at h
      have hdirty : (s.storeBytes a n v).dirty = s.dirty := by
        show (s.reviveKept a).noteDirty a = _
        rw [hr]; simp [State.noteDirty, State.writesBack, wb]
      have hkept : (s.storeBytes a n v).kept = if lineStays s.freeCtr a.toNat = false
          then s.kept.filter fun d => d.line != lineOf a
          else s.kept.map fun d => if d.line == lineOf a then d.write a n v else d := by
        rw [kept]; simp [State.noteKept, hu, wb]
      refine ⟨_, mayFind_mem s _, fun c => ?_, fun h => by simp [de] at h, fun _ => hdirty, fun e h hl => ?_,
        fun d h => .inl (hdirty ▸ h), fun d h => ?_⟩
      · rw [storeBytes_mem, hr, hmem _ hw, ite_self]
        exact ⟨fun h => if_pos h, fun h => if_neg h⟩
      · rw [hkept]
        have hl : ¬ e.line = lineOf a := fun h => hl h.symm
        split
        · exact List.mem_filter.mpr ⟨h, by simpa using hl⟩
        · exact List.mem_map.mpr ⟨e, h, by simp [hl]⟩
      · rw [hkept] at h
        split at h
        · obtain ⟨h, hl⟩ := List.mem_filter.mp h
          refine ⟨d, h, rfl, rfl, fun _ _ => wb, fun c hc => ⟨fun k => ?_, fun _ => rfl⟩⟩
          simp [inLine c k.1, lineOf_eq.mpr hc] at hl
        · obtain ⟨e, m, rfl⟩ := List.mem_map.mp h
          refine ⟨e, m, ?_⟩
          by_cases hl : e.line = lineOf a
          · have e1 : (if (e.line == lineOf a) = true then e.write a n v else e) = e.write a n v := by simp [hl]
            rw [e1]
            refine ⟨rfl, rfl, fun _ _ => wb, fun c hc => ?_⟩
            rw [CacheLine.write_getD e a n v hc]
            refine ⟨fun k => by rw [if_pos k.1, hb c k.1], fun k => if_neg fun r => k ⟨r, ?_⟩⟩
            show s.cachesLine e.line
            rw [hl]; exact yes
          · have e1 : (if (e.line == lineOf a) = true then e.write a n v else e) = e := by simp [hl]
            rw [e1]
            refine ⟨rfl, rfl, fun _ _ => wb, fun c hc => ⟨fun k => ?_, fun _ => rfl⟩⟩
            exact absurd (by rw [inLine c k.1, lineOf_eq.mpr hc]) hl
    | true =>
      have hkept : (s.storeBytes a n v).kept = s.kept.filter fun d => d.line != lineOf a := by
        rw [kept]; simp [State.noteKept, hu, wb]
      have out : ∀ d ∈ (s.storeBytes a n v).kept, d ∈ s.kept ∧ ¬ lineOf a = d.line := fun d h => by
        rw [hkept] at h
        obtain ⟨h, hl⟩ := List.mem_filter.mp h
        exact ⟨h, fun e => by simp [e] at hl⟩
      have fin : ∀ g : Word → Byte, s.mayFind (fun l => lineOf a = l) g →
          (∀ c : Word, (s.storeBytes a n v).mem.read c.toNat = if (c - a).toNat < n then byte c else g c) →
          (∀ d ∈ (s.storeBytes a n v).dirty, d ∈ s.dirty ∨ lineOf a = d.line) →
          ∃ g, s.mayFind (fun l => lineOf a = l) g ∧
            s.wrote (s.storeBytes a n v) (fun l => lineOf a = l) (fun c => (c - a).toNat < n) byte g := by
        intro g hg hm hd
        refine ⟨g, hg, fun c => ?_, fun h => by simp [de] at h, fun h => by simp [de, wb] at h, fun e h hl => ?_, hd,
          fun d h => ⟨d, (out d h).1, rfl, rfl, fun k => absurd k (out d h).2, fun c hc => ⟨fun k => ?_, fun _ => rfl⟩⟩⟩
        · rw [hm c, if_pos wb]
          exact ⟨fun h => if_pos h, fun h => if_neg h⟩
        · rw [hkept]; exact List.mem_filter.mpr ⟨h, by simpa using fun e => hl e.symm⟩
        · exact absurd (by rw [inLine c k.1, lineOf_eq.mpr hc]) (out d h).2
      rcases reviveKept_cases s a with hr | ⟨d, _, hk, hr⟩
      · refine fin _ (mayFind_mem s _) (fun c => by rw [storeBytes_mem, hr, hmem _ hw]) fun d h => ?_
        have h : d ∈ (s.reviveKept a).noteDirty a := h
        rw [hr] at h
        exact (mem_noteDirty h).imp id Eq.symm
      · refine fin _ (mayFind_withLine hw hk) (fun c => by rw [storeBytes_mem, hr, hmem _ (withLine_wf hw d)]) fun e h => ?_
        have h : e ∈ (s.reviveKept a).noteDirty a := h
        rw [hr] at h
        rcases mem_noteDirty h with h | h
        · refine (CacheLine.mem_enter h).symm.imp id fun h => ?_
          rw [h]; exact (keptHit_some hk).2.2.2.symm
        · exact .inr h.symm

/-- What a store of several bus transfers does. -/
theorem storePieces_wrote {s : State} (hw : s.mem.wf = true) (a : Word) (v : Dword) (ps : List (Word × Nat))
    (hp : ∀ p ∈ ps, p.1.toNat % 32 + p.2 ≤ 32 ∧ (p.1 - a).toNat + p.2 ≤ 8) :
    ∃ g, s.mayFind (fun l => ∃ p ∈ ps, lineOf p.1 = l) g ∧
      s.wrote (ps.foldl (State.storePiece a v) s) (fun l => ∃ p ∈ ps, lineOf p.1 = l)
        (fun c => ∃ p ∈ ps, (c - p.1).toNat < p.2) (fun c => (v >>> (8 * (c - a).toNat)).setWidth 8) g := by
  induction ps generalizing s with
  | nil => exact ⟨_, mayFind_mem s _, by simpa using wrote_refl s _⟩
  | cons p ps ih =>
    obtain ⟨h1, h2⟩ := hp p (List.mem_cons_self ..)
    obtain ⟨g, hg, w1⟩ := storeBytes_wrote hw p.1 (v >>> (8 * (p.1 - a).toNat))
      (fun c => (v >>> (8 * (c - a).toNat)).setWidth 8) h1 (by omega) fun c hc => by
        have : (c - a).toNat = (p.1 - a).toNat + (c - p.1).toNat := by bv_omega
        rw [this, Nat.mul_add, BitVec.shiftRight_add]
    have hu := storeBytes_frame s p.1 p.2 (v >>> (8 * (p.1 - a).toNat))
    obtain ⟨k, hk, w2⟩ := ih (s := s.storePiece a v p) (storePieces_wf hw a v [p]) fun q h => hp q (List.mem_cons_of_mem _ h)
    obtain ⟨f, hf, w⟩ := wrote_trans w1 w2 hg hk (by rw [hu]) (by rw [hu]) fun c hc => by
      rw [lineOf_eq, (lineOf_eq (c := c)).mp rfl |>.symm]; bv_omega
    refine ⟨f, ?_, ?_⟩
    · simpa only [List.mem_cons, exists_eq_or_imp] using hf
    · rw [List.foldl_cons]; simpa only [List.mem_cons, exists_eq_or_imp] using w

/-- The pieces of an access of 1, 2, 4 or 8 bytes lie in one line each, and together they are its bytes. -/
theorem pieces_cover {a : Word} {n : Nat} (hn : n = 1 ∨ n = 2 ∨ n = 4 ∨ n = 8) :
    (∀ p ∈ pieces a n, p.1.toNat % 32 + p.2 ≤ 32 ∧ (p.1 - a).toNat + p.2 ≤ n ∧ 0 < p.2) ∧
    ∀ c : Word, (c - a).toNat < n → ∃ p ∈ pieces a n, (c - p.1).toNat < p.2 := by
  unfold pieces
  split
  · refine ⟨fun p h => ?_, fun c h => ?_⟩
    · obtain ⟨i, m, rfl⟩ := List.mem_map.mp h
      have m := List.mem_range.mp m
      dsimp only
      refine ⟨by omega, ?_, by omega⟩
      bv_omega
    · refine ⟨(c, 1), List.mem_map.mpr ⟨(c - a).toNat, List.mem_range.mpr h, ?_⟩, by simp⟩
      rw [BitVec.ofNat_toNat, BitVec.setWidth_eq, BitVec.add_comm, BitVec.sub_add_cancel]
  · rename_i m
    have m : a.toNat % n = 0 := by simpa [misaligned] using m
    split
    · subst n
      refine ⟨fun p h => ?_, fun c h => ?_⟩
      · simp only [List.mem_cons, List.not_mem_nil, or_false] at h
        rcases h with rfl | rfl
        · dsimp only; simp; omega
        · dsimp only; refine ⟨?_, ?_, by omega⟩ <;> bv_omega
      · by_cases c4 : (c - a).toNat < 4
        · exact ⟨(a, 4), by simp, c4⟩
        · exact ⟨(a + 4, 4), by simp, by dsimp only; bv_omega⟩
    · refine ⟨fun p h => ?_, fun c h => ⟨(a, n), by simp, h⟩⟩
      simp only [List.mem_cons, List.not_mem_nil, or_false] at h
      subst h
      dsimp only
      refine ⟨?_, by simp, ?_⟩ <;> rcases hn with rfl | rfl | rfl | rfl <;> omega

/-- The lines of the pieces are those that the access touches. -/
theorem pieces_lines {a : Word} {n : Nat} (hn : n = 1 ∨ n = 2 ∨ n = 4 ∨ n = 8) (l : BitVec 27) :
    (∃ p ∈ pieces a n, lineOf p.1 = l) ↔ touches a n l := by
  obtain ⟨h1, h2⟩ := pieces_cover (a := a) hn
  constructor
  · rintro ⟨p, hp, rfl⟩
    obtain ⟨_, h, _⟩ := h1 p hp
    refine ⟨(p.1 - a).toNat, by omega, ?_⟩
    have e : a + BitVec.ofNat 32 (p.1 - a).toNat = p.1 := by
      rw [BitVec.ofNat_toNat, BitVec.setWidth_eq, BitVec.add_comm, BitVec.sub_add_cancel]
    rw [e]; exact lineOf_eq.mp rfl
  · rintro ⟨i, hi, h⟩
    have hlt : (a + BitVec.ofNat 32 i - a).toNat < n := by bv_omega
    obtain ⟨p, hp, hc⟩ := h2 _ hlt
    obtain ⟨f, _, _⟩ := h1 p hp
    refine ⟨p, hp, lineOf_eq.mpr (Eq.trans ?_ h)⟩
    generalize a + BitVec.ofNat 32 i = c at hc
    bv_omega

/-- What a store wrote is in memory, the dirty and the kept lines only. -/
theorem wroteBytes_congr {s t u : State} {g : Word → Byte} {a : Word} {n : Nat} {v : Dword} (h : s.wroteBytes t g a n v)
    (hm : u.mem = t.mem) (hd : u.dirty = t.dirty) (hk : u.kept = t.kept) : s.wroteBytes u g a n v := by
  unfold State.wroteBytes at h ⊢; rw [hm, hd, hk]; exact h

/-- A store outside the device window, as `State.wroteBytes` says (rules R141, R147, R181). -/
theorem storeValue_wrote {s : State} (hw : s.mem.wf = true) {a : Word} (ha : inTcip a = false) {n : Nat}
    (hn : n = 1 ∨ n = 2 ∨ n = 4 ∨ n = 8) (v : Dword) :
    ∃ g, s.mayFind (touches a n) g ∧ s.wroteBytes (s.storeValue a n v) g a n v := by
  obtain ⟨h1, h2⟩ := pieces_cover (a := a) hn
  obtain ⟨g, hg, w1, w2, w3, w4, w5, w6⟩ := storePieces_wrote hw a v (pieces a n) fun p h => by
    obtain ⟨x, y, _⟩ := h1 p h
    exact ⟨x, by omega⟩
  have range : ∀ c : Word, (∃ p ∈ pieces a n, (c - p.1).toNat < p.2) ↔ (c - a).toNat < n := fun c =>
    ⟨fun ⟨p, hp, h⟩ => by obtain ⟨_, y, _⟩ := h1 p hp; bv_omega, h2 c⟩
  simp only [pieces_lines hn, range] at hg w1 w4 w5 w6
  rw [storeValue_pieces s ha]
  refine ⟨g, hg, fun c => ?_, w2, w3, w4, w5, w6⟩
  by_cases h : (c - a).toNat < n
  · rw [if_pos h]; exact (w1 c).1 h
  · rw [if_neg h]; exact (w1 c).2 h

/-! ## Shapes (rule R180) -/

/-- The shape of lines of the data cache. -/
theorem linesShape_iff {p : Params} {ls : List CacheLine} :
    linesShape p ls = true ↔ (∀ d ∈ ls, d.older.length = 32) ∧
      ls.Pairwise fun d e => d.line ≠ e.line ∧ (d.way ≠ e.way ∨ lineSet p d.line ≠ lineSet p e.line) := by
  simp only [linesShape, Bool.and_eq_true, List.all_eq_true, beq_iff_eq, decide_eq_true_eq]

/-- Fewer lines keep the shape. -/
theorem linesShape_filter {p : Params} {ls : List CacheLine} (h : linesShape p ls = true) (sel : CacheLine → Bool) :
    linesShape p (ls.filter sel) = true :=
  linesShape_iff.mpr ⟨fun d m => (linesShape_iff.mp h).1 d (List.mem_filter.mp m).1, (linesShape_iff.mp h).2.filter _⟩

/-- Cleaning keeps the shape of the dirty lines. -/
theorem cleanLines_dirtyShape {s : State} (h : s.dirtyShape = true) (sel : CacheLine → Bool) :
    (s.cleanLines sel).dirtyShape = true := linesShape_filter h _

/-- Dropping lines keeps the shape of the kept ones. -/
theorem dropKept_keptShape {s : State} (h : s.keptShape = true) (sel : CacheLine → Bool) :
    (s.dropKept sel).keptShape = true := linesShape_filter h _

/-- A line that takes its place keeps the shape. -/
theorem linesShape_enter {p : Params} {ls : List CacheLine} (h : linesShape p ls = true) {d : CacheLine}
    (hd : d.older.length = 32) : linesShape p (d.enter p ls) = true := by
  have h' := linesShape_iff.mp (linesShape_filter h fun e => e.line != d.line &&
    !(e.way == d.way && lineSet p e.line == lineSet p d.line))
  refine linesShape_iff.mpr ⟨fun e m => ?_, List.pairwise_cons.mpr ⟨fun e m => ?_, h'.2⟩⟩
  · exact (List.mem_cons.mp m).elim (fun e => e ▸ hd) (h'.1 e)
  · have m := (List.mem_filter.mp m).2
    simp only [Bool.and_eq_true, bne_iff_ne, ne_eq, Bool.not_eq_true', Bool.and_eq_false_iff, beq_eq_false_iff_ne] at m
    exact ⟨fun e => m.1 e.symm, m.2.imp (fun e x => e x.symm) fun e x => e x.symm⟩

/-- Lines whose bytes change keep the shape. -/
theorem linesShape_map {p : Params} {ls : List CacheLine} (h : linesShape p ls = true) (g : CacheLine → CacheLine)
    (hg : ∀ d ∈ ls, (g d).line = d.line ∧ (g d).way = d.way ∧ (g d).older.length = 32) : linesShape p (ls.map g) = true := by
  obtain ⟨h1, h2⟩ := linesShape_iff.mp h
  refine linesShape_iff.mpr ⟨fun d m => ?_, List.pairwise_map.mpr (h2.imp_of_mem fun {d e} hd he r => ?_)⟩
  · obtain ⟨e, he, rfl⟩ := List.mem_map.mp m
    exact (hg e he).2.2
  · obtain ⟨a1, a2, _⟩ := hg d hd
    obtain ⟨b1, b2, _⟩ := hg e he
    rw [a1, a2, b1, b2]; exact r

/-- A line of memory has 32 bytes. -/
theorem Memory.lineAt_length (m : Memory) (l : BitVec 27) : (m.lineAt l).length = 32 := by simp [Memory.lineAt]

/-- Stored bytes keep the shape of the dirty lines. -/
theorem storeBytes_dirtyShape {s : State} (h : s.dirtyShape = true) (a : Word) (n : Nat) (v : Dword) :
    (s.storeBytes a n v).dirtyShape = true := by
  have hr : (s.reviveKept a).params = s.params ∧ linesShape s.params (s.reviveKept a).dirty = true := by
    rcases reviveKept_cases s a with e | ⟨d, _, _, e⟩ <;> rw [e]
    · exact ⟨rfl, h⟩
    · exact ⟨rfl, linesShape_enter h (Memory.lineAt_length _ _)⟩
  unfold State.dirtyShape
  rw [storeBytes_params]
  show linesShape s.params ((s.reviveKept a).noteDirty a) = true
  unfold State.noteDirty
  dsimp only
  rw [hr.1]
  split
  · exact hr.2
  · split
    · exact linesShape_enter hr.2 (Memory.lineAt_length _ _)
    · exact linesShape_filter hr.2 _

/-- Stored bytes keep the shape of the kept lines. -/
theorem storeBytes_keptShape {s : State} (h : s.keptShape = true) (a : Word) (n : Nat) (v : Dword) :
    (s.storeBytes a n v).keptShape = true := by
  unfold State.keptShape
  rw [storeBytes_params]
  show linesShape s.params (s.noteKept a n v) = true
  unfold State.noteKept
  split
  · exact h
  · split
    · exact linesShape_filter h _
    · refine linesShape_map h _ fun d hd => ?_
      split
      · exact ⟨rfl, rfl, by simp [CacheLine.write]⟩
      · exact ⟨rfl, rfl, (linesShape_iff.mp h).1 d hd⟩

/-- The lines that are kept when the data cache is switched off have the shape. -/
theorem keepLines_shape {s : State} (h : s.keptShape = true) : linesShape s.params s.keepLines = true := by
  unfold State.keepLines
  have h := linesShape_filter h fun d => lineStays s.freeCtr (lineBase d.line).toNat
  generalize s.kept.filter _ = ls at h
  induction linesHeld s.freeCtr generalizing ls with
  | nil => exact h
  | cons l r ih =>
    rw [List.foldl_cons]
    refine ih _ ?_
    split
    · exact linesShape_enter h (Memory.lineAt_length _ _)
    · exact h

/-! ## Losing lines (rules R182, R532) -/

/-- Losing a line: its bytes stay or become those of the next level, all others stay. -/
theorem loseLine_read {s : State} (hw : s.mem.wf = true) {d : CacheLine} (hd : d.older.length = 32) (c : Word) :
    (s.loseLine d).mem.read c.toNat =
      if lineEvicted s.freeCtr d.line.toNat = false ∧ c.toNat / 32 = d.line.toNat then d.older.getD (c.toNat % 32) 0
      else s.mem.read c.toNat := by
  have hb := lineBase_toNat d.line
  have hl := d.line.isLt
  unfold State.loseLine
  cases lineEvicted s.freeCtr d.line.toNat
  · simp only [Bool.false_eq_true, if_false, true_and]
    rw [Memory.read_writeBytes hw _ _ _ (by omega)]
    by_cases h : c.toNat / 32 = d.line.toNat
    · have e : (c - lineBase d.line).toNat = c.toNat % 32 := by bv_omega
      rw [if_pos h, e, List.getD_eq_getElem _ _ (by omega), List.getD_eq_getElem _ _ (by omega)]
    · have e : 32 ≤ (c - lineBase d.line).toNat := by bv_omega
      rw [if_neg h, List.getD_eq_default _ _ (by omega)]
  · simp

/-- Invalidating lines of the data cache loses them, each as a whole. -/
theorem discardLines_lostLines {s : State} (hw : s.mem.wf = true) (shape : s.dirtyShape = true) (sel : CacheLine → Bool) :
    s.lostLines (s.discardLines sel) (s.dirty.filter sel) := by
  have hd : (∀ d ∈ s.dirty, d.older.length = 32) ∧ s.dirty.Pairwise fun d e => d.line ≠ e.line := by
    exact ⟨(linesShape_iff.mp shape).1, (linesShape_iff.mp shape).2.imp fun h => h.1⟩
  suffices h : ∀ l : List CacheLine, (∀ d ∈ l, d.older.length = 32) → l.Pairwise (fun d e => d.line ≠ e.line) →
      s.lostLines (l.foldl State.loseLine s) l from
    h _ (fun d m => hd.1 d (List.mem_filter.mp m).1) (hd.2.filter _)
  clear hd shape
  intro l
  induction l generalizing s with
  | nil => exact fun _ _ => ⟨fun _ _ => rfl, fun d m => by cases m⟩
  | cons e l ih =>
    intro h1 h2
    obtain ⟨h2, h3⟩ := List.pairwise_cons.mp h2
    have hr := loseLine_read hw (h1 e (List.mem_cons_self ..))
    have hi := ih (s := s.loseLine e) (loseLine_wf hw e) (fun d m => h1 d (List.mem_cons_of_mem _ m)) h3
    rw [List.foldl_cons]
    have cell : ∀ (d : CacheLine) i, i < 32 → ∃ c : Word, c.toNat = 32 * d.line.toNat + i ∧ c.toNat / 32 = d.line.toNat ∧
        c.toNat % 32 = i := fun d i hi => by
      have := d.line.isLt
      refine ⟨BitVec.ofNat 32 (32 * d.line.toNat + i), ?_⟩
      rw [BitVec.toNat_ofNat, Nat.mod_eq_of_lt (by omega)]; omega
    refine ⟨fun a ha => ?_, fun d m => ?_⟩
    · rw [hi.1 a fun d m => ha d (List.mem_cons_of_mem _ m), hr, if_neg]
      exact fun h => ha e (List.mem_cons_self ..) h.2.symm
    · rcases List.mem_cons.mp m with rfl | m
      · have out : ∀ i, i < 32 → (l.foldl State.loseLine (s.loseLine d)).mem.read (32 * d.line.toNat + i) =
            (s.loseLine d).mem.read (32 * d.line.toNat + i) := fun i hi' => by
          obtain ⟨c, c1, c2, _⟩ := cell d i hi'
          rw [← c1]
          exact hi.1 c fun e m h => h2 e m (BitVec.eq_of_toNat_eq (by omega))
        cases hev : lineEvicted s.freeCtr d.line.toNat
        · refine .inr fun i hi' => ?_
          obtain ⟨c, c1, c2, c3⟩ := cell d i hi'
          rw [out i hi', ← c1, hr, if_pos ⟨hev, c2⟩, c3]
        · refine .inl fun i hi' => ?_
          obtain ⟨c, c1, c2, _⟩ := cell d i hi'
          rw [out i hi', ← c1, hr, if_neg (by simp [hev])]
      · have keep : ∀ i, i < 32 → (s.loseLine e).mem.read (32 * d.line.toNat + i) =
            s.mem.read (32 * d.line.toNat + i) := fun i hi' => by
          obtain ⟨c, c1, c2, _⟩ := cell d i hi'
          rw [← c1, hr, if_neg]
          exact fun h => h2 d m (BitVec.eq_of_toNat_eq (by omega))
        rcases hi.2 d m with h | h
        · exact .inl fun i hi' => (h i hi').trans (keep i hi')
        · exact .inr h

end Sys2Proof.Machine
end

