-- ==== Sys2Proof/Laws/Encoding.lean ====
section
/-! SUPPORT. The fields of every instruction format (rules R201, R221): what each field function reads from a word that a
format function has built. With them, decoding an encoded instruction is a computation by `simp`. -/

namespace Sys2Proof

/-- Concatenation as arithmetic. -/
theorem toNat_append_eq {a b : Nat} (x : BitVec a) (y : BitVec b) :
    (x ++ y).toNat = x.toNat * 2 ^ b + y.toNat := by
  rw [BitVec.toNat_append, ← Nat.shiftLeft_add_eq_or_of_lt y.isLt, Nat.shiftLeft_eq]

/-- A bit field as arithmetic. -/
theorem toNat_slice_eq {n : Nat} (x : BitVec n) (s l : Nat) :
    (x.extractLsb' s l).toNat = x.toNat / 2 ^ s % 2 ^ l := by
  rw [BitVec.extractLsb'_toNat, Nat.shiftRight_eq_div_pow]

/-- Neighbouring bit fields join. -/
theorem slice_join {n : Nat} (x : BitVec n) (s b a : Nat) :
    x.extractLsb' (s + b) a ++ x.extractLsb' s b = x.extractLsb' s (a + b) := by
  apply BitVec.eq_of_toNat_eq
  simp only [toNat_slice_eq, toNat_append_eq, pow_add, Nat.mul_comm (2 ^ a), ← Nat.div_div_eq_div_mul]
  rw [Nat.mod_mul, Nat.mul_comm, Nat.add_comm]

/-- The whole of a word as a bit field. -/
theorem slice_whole {n : Nat} (x : BitVec n) : x.extractLsb' 0 n = x := by
  apply BitVec.eq_of_toNat_eq
  simp only [toNat_slice_eq, pow_zero, Nat.div_one, Nat.mod_eq_of_lt x.isLt]

/-! ## `rType` -/

section

variable (f7 : BitVec 7) (rs2 rs1 : Reg) (f3 : BitVec 3) (rd : Reg) (op : BitVec 7)

@[simp] theorem opcode_rType : opcode (rType f7 rs2 rs1 f3 rd op) = op := by
  unfold rType
  apply BitVec.eq_of_toNat_eq
  simp only [opcode, toNat_slice_eq, toNat_append_eq]; omega

@[simp] theorem rdField_rType : rdField (rType f7 rs2 rs1 f3 rd op) = rd := by
  unfold rType
  apply BitVec.eq_of_toNat_eq
  simp only [rdField, toNat_slice_eq, toNat_append_eq]; omega

@[simp] theorem funct3_rType : funct3 (rType f7 rs2 rs1 f3 rd op) = f3 := by
  unfold rType
  apply BitVec.eq_of_toNat_eq
  simp only [funct3, toNat_slice_eq, toNat_append_eq]; omega

@[simp] theorem rs1Field_rType : rs1Field (rType f7 rs2 rs1 f3 rd op) = rs1 := by
  unfold rType
  apply BitVec.eq_of_toNat_eq
  simp only [rs1Field, toNat_slice_eq, toNat_append_eq]; omega

@[simp] theorem rs2Field_rType : rs2Field (rType f7 rs2 rs1 f3 rd op) = rs2 := by
  unfold rType
  apply BitVec.eq_of_toNat_eq
  simp only [rs2Field, toNat_slice_eq, toNat_append_eq]; omega

@[simp] theorem funct7_rType : funct7 (rType f7 rs2 rs1 f3 rd op) = f7 := by
  unfold rType
  apply BitVec.eq_of_toNat_eq
  simp only [funct7, toNat_slice_eq, toNat_append_eq]; omega

end

/-! ## `iType` -/

section

variable (imm : BitVec 12) (rs1 : Reg) (f3 : BitVec 3) (rd : Reg) (op : BitVec 7)

@[simp] theorem opcode_iType : opcode (iType imm rs1 f3 rd op) = op := by
  unfold iType
  apply BitVec.eq_of_toNat_eq
  simp only [opcode, toNat_slice_eq, toNat_append_eq]; omega

@[simp] theorem rdField_iType : rdField (iType imm rs1 f3 rd op) = rd := by
  unfold iType
  apply BitVec.eq_of_toNat_eq
  simp only [rdField, toNat_slice_eq, toNat_append_eq]; omega

@[simp] theorem funct3_iType : funct3 (iType imm rs1 f3 rd op) = f3 := by
  unfold iType
  apply BitVec.eq_of_toNat_eq
  simp only [funct3, toNat_slice_eq, toNat_append_eq]; omega

@[simp] theorem rs1Field_iType : rs1Field (iType imm rs1 f3 rd op) = rs1 := by
  unfold iType
  apply BitVec.eq_of_toNat_eq
  simp only [rs1Field, toNat_slice_eq, toNat_append_eq]; omega

@[simp] theorem iImm_iType : iImm (iType imm rs1 f3 rd op) = imm := by
  unfold iType
  apply BitVec.eq_of_toNat_eq
  simp only [iImm, toNat_slice_eq, toNat_append_eq]; omega

end

/-! ## `sType` -/

section

variable (imm : BitVec 12) (rs2 rs1 : Reg) (f3 : BitVec 3) (op : BitVec 7)

@[simp] theorem opcode_sType : opcode (sType imm rs2 rs1 f3 op) = op := by
  unfold sType
  generalize imm.extractLsb' 5 7 = p0, imm.extractLsb' 0 5 = p1
  apply BitVec.eq_of_toNat_eq
  simp only [opcode, toNat_slice_eq, toNat_append_eq]; omega

@[simp] theorem funct3_sType : funct3 (sType imm rs2 rs1 f3 op) = f3 := by
  unfold sType
  generalize imm.extractLsb' 5 7 = p0, imm.extractLsb' 0 5 = p1
  apply BitVec.eq_of_toNat_eq
  simp only [funct3, toNat_slice_eq, toNat_append_eq]; omega

@[simp] theorem rs1Field_sType : rs1Field (sType imm rs2 rs1 f3 op) = rs1 := by
  unfold sType
  generalize imm.extractLsb' 5 7 = p0, imm.extractLsb' 0 5 = p1
  apply BitVec.eq_of_toNat_eq
  simp only [rs1Field, toNat_slice_eq, toNat_append_eq]; omega

@[simp] theorem rs2Field_sType : rs2Field (sType imm rs2 rs1 f3 op) = rs2 := by
  unfold sType
  generalize imm.extractLsb' 5 7 = p0, imm.extractLsb' 0 5 = p1
  apply BitVec.eq_of_toNat_eq
  simp only [rs2Field, toNat_slice_eq, toNat_append_eq]; omega

@[simp] theorem sImm_sType : sImm (sType imm rs2 rs1 f3 op) = imm := by
  have h0 : (sType imm rs2 rs1 f3 op).extractLsb' 25 7 = imm.extractLsb' 5 7 := by
    unfold sType
    generalize imm.extractLsb' 5 7 = p0, imm.extractLsb' 0 5 = p1
    apply BitVec.eq_of_toNat_eq
    simp only [toNat_slice_eq, toNat_append_eq]; omega
  have h1 : (sType imm rs2 rs1 f3 op).extractLsb' 7 5 = imm.extractLsb' 0 5 := by
    unfold sType
    generalize imm.extractLsb' 5 7 = p0, imm.extractLsb' 0 5 = p1
    apply BitVec.eq_of_toNat_eq
    simp only [toNat_slice_eq, toNat_append_eq]; omega
  unfold sImm
  rw [h0, h1]
  exact (slice_join imm 0 5 (7)).trans (slice_whole imm)

end

/-! ## `bType` -/

section

variable (imm : BitVec 12) (rs2 rs1 : Reg) (f3 : BitVec 3) (op : BitVec 7)

@[simp] theorem opcode_bType : opcode (bType imm rs2 rs1 f3 op) = op := by
  unfold bType
  generalize imm.extractLsb' 11 1 = p0, imm.extractLsb' 4 6 = p1, imm.extractLsb' 0 4 = p2, imm.extractLsb' 10 1 = p3
  apply BitVec.eq_of_toNat_eq
  simp only [opcode, toNat_slice_eq, toNat_append_eq]; omega

@[simp] theorem funct3_bType : funct3 (bType imm rs2 rs1 f3 op) = f3 := by
  unfold bType
  generalize imm.extractLsb' 11 1 = p0, imm.extractLsb' 4 6 = p1, imm.extractLsb' 0 4 = p2, imm.extractLsb' 10 1 = p3
  apply BitVec.eq_of_toNat_eq
  simp only [funct3, toNat_slice_eq, toNat_append_eq]; omega

@[simp] theorem rs1Field_bType : rs1Field (bType imm rs2 rs1 f3 op) = rs1 := by
  unfold bType
  generalize imm.extractLsb' 11 1 = p0, imm.extractLsb' 4 6 = p1, imm.extractLsb' 0 4 = p2, imm.extractLsb' 10 1 = p3
  apply BitVec.eq_of_toNat_eq
  simp only [rs1Field, toNat_slice_eq, toNat_append_eq]; omega

@[simp] theorem rs2Field_bType : rs2Field (bType imm rs2 rs1 f3 op) = rs2 := by
  unfold bType
  generalize imm.extractLsb' 11 1 = p0, imm.extractLsb' 4 6 = p1, imm.extractLsb' 0 4 = p2, imm.extractLsb' 10 1 = p3
  apply BitVec.eq_of_toNat_eq
  simp only [rs2Field, toNat_slice_eq, toNat_append_eq]; omega

@[simp] theorem bImm_bType : bImm (bType imm rs2 rs1 f3 op) = imm := by
  have h0 : (bType imm rs2 rs1 f3 op).extractLsb' 31 1 = imm.extractLsb' 11 1 := by
    unfold bType
    generalize imm.extractLsb' 11 1 = p0, imm.extractLsb' 4 6 = p1, imm.extractLsb' 0 4 = p2, imm.extractLsb' 10 1 = p3
    apply BitVec.eq_of_toNat_eq
    simp only [toNat_slice_eq, toNat_append_eq]; omega
  have h1 : (bType imm rs2 rs1 f3 op).extractLsb' 7 1 = imm.extractLsb' 10 1 := by
    unfold bType
    generalize imm.extractLsb' 11 1 = p0, imm.extractLsb' 4 6 = p1, imm.extractLsb' 0 4 = p2, imm.extractLsb' 10 1 = p3
    apply BitVec.eq_of_toNat_eq
    simp only [toNat_slice_eq, toNat_append_eq]; omega
  have h2 : (bType imm rs2 rs1 f3 op).extractLsb' 25 6 = imm.extractLsb' 4 6 := by
    unfold bType
    generalize imm.extractLsb' 11 1 = p0, imm.extractLsb' 4 6 = p1, imm.extractLsb' 0 4 = p2, imm.extractLsb' 10 1 = p3
    apply BitVec.eq_of_toNat_eq
    simp only [toNat_slice_eq, toNat_append_eq]; omega
  have h3 : (bType imm rs2 rs1 f3 op).extractLsb' 8 4 = imm.extractLsb' 0 4 := by
    unfold bType
    generalize imm.extractLsb' 11 1 = p0, imm.extractLsb' 4 6 = p1, imm.extractLsb' 0 4 = p2, imm.extractLsb' 10 1 = p3
    apply BitVec.eq_of_toNat_eq
    simp only [toNat_slice_eq, toNat_append_eq]; omega
  unfold bImm
  rw [h0, h1, h2, h3]
  exact (((congrArg (· ++ imm.extractLsb' 0 4) (((congrArg (· ++ imm.extractLsb' 4 6) (slice_join imm 10 1 (1))).trans (slice_join imm 4 6 (1 + 1))))).trans (slice_join imm 0 4 (1 + 1 + 6)))).trans (slice_whole imm)

end

/-! ## `uType` -/

section

variable (imm : BitVec 20) (rd : Reg) (op : BitVec 7)

@[simp] theorem opcode_uType : opcode (uType imm rd op) = op := by
  unfold uType
  apply BitVec.eq_of_toNat_eq
  simp only [opcode, toNat_slice_eq, toNat_append_eq]; omega

@[simp] theorem rdField_uType : rdField (uType imm rd op) = rd := by
  unfold uType
  apply BitVec.eq_of_toNat_eq
  simp only [rdField, toNat_slice_eq, toNat_append_eq]; omega

@[simp] theorem uImm_uType : uImm (uType imm rd op) = imm := by
  unfold uType
  apply BitVec.eq_of_toNat_eq
  simp only [uImm, toNat_slice_eq, toNat_append_eq]; omega

end

/-! ## `jType` -/

section

variable (imm : BitVec 20) (rd : Reg) (op : BitVec 7)

@[simp] theorem opcode_jType : opcode (jType imm rd op) = op := by
  unfold jType
  generalize imm.extractLsb' 19 1 = p0, imm.extractLsb' 0 10 = p1, imm.extractLsb' 10 1 = p2, imm.extractLsb' 11 8 = p3
  apply BitVec.eq_of_toNat_eq
  simp only [opcode, toNat_slice_eq, toNat_append_eq]; omega

@[simp] theorem rdField_jType : rdField (jType imm rd op) = rd := by
  unfold jType
  generalize imm.extractLsb' 19 1 = p0, imm.extractLsb' 0 10 = p1, imm.extractLsb' 10 1 = p2, imm.extractLsb' 11 8 = p3
  apply BitVec.eq_of_toNat_eq
  simp only [rdField, toNat_slice_eq, toNat_append_eq]; omega

@[simp] theorem jImm_jType : jImm (jType imm rd op) = imm := by
  have h0 : (jType imm rd op).extractLsb' 31 1 = imm.extractLsb' 19 1 := by
    unfold jType
    generalize imm.extractLsb' 19 1 = p0, imm.extractLsb' 0 10 = p1, imm.extractLsb' 10 1 = p2, imm.extractLsb' 11 8 = p3
    apply BitVec.eq_of_toNat_eq
    simp only [toNat_slice_eq, toNat_append_eq]; omega
  have h1 : (jType imm rd op).extractLsb' 12 8 = imm.extractLsb' 11 8 := by
    unfold jType
    generalize imm.extractLsb' 19 1 = p0, imm.extractLsb' 0 10 = p1, imm.extractLsb' 10 1 = p2, imm.extractLsb' 11 8 = p3
    apply BitVec.eq_of_toNat_eq
    simp only [toNat_slice_eq, toNat_append_eq]; omega
  have h2 : (jType imm rd op).extractLsb' 20 1 = imm.extractLsb' 10 1 := by
    unfold jType
    generalize imm.extractLsb' 19 1 = p0, imm.extractLsb' 0 10 = p1, imm.extractLsb' 10 1 = p2, imm.extractLsb' 11 8 = p3
    apply BitVec.eq_of_toNat_eq
    simp only [toNat_slice_eq, toNat_append_eq]; omega
  have h3 : (jType imm rd op).extractLsb' 21 10 = imm.extractLsb' 0 10 := by
    unfold jType
    generalize imm.extractLsb' 19 1 = p0, imm.extractLsb' 0 10 = p1, imm.extractLsb' 10 1 = p2, imm.extractLsb' 11 8 = p3
    apply BitVec.eq_of_toNat_eq
    simp only [toNat_slice_eq, toNat_append_eq]; omega
  unfold jImm
  rw [h0, h1, h2, h3]
  exact (((congrArg (· ++ imm.extractLsb' 0 10) (((congrArg (· ++ imm.extractLsb' 10 1) (slice_join imm 11 8 (1))).trans (slice_join imm 10 1 (1 + 8))))).trans (slice_join imm 0 10 (1 + 8 + 1)))).trans (slice_whole imm)

end

/-! ## `r4Type` -/

section

variable (fs3 : Reg) (fmt : BitVec 2) (fs2 fs1 : Reg) (rm : BitVec 3) (fd : Reg) (op : BitVec 7)

@[simp] theorem opcode_r4Type : opcode (r4Type fs3 fmt fs2 fs1 rm fd op) = op := by
  unfold r4Type
  apply BitVec.eq_of_toNat_eq
  simp only [opcode, toNat_slice_eq, toNat_append_eq]; omega

@[simp] theorem rdField_r4Type : rdField (r4Type fs3 fmt fs2 fs1 rm fd op) = fd := by
  unfold r4Type
  apply BitVec.eq_of_toNat_eq
  simp only [rdField, toNat_slice_eq, toNat_append_eq]; omega

@[simp] theorem funct3_r4Type : funct3 (r4Type fs3 fmt fs2 fs1 rm fd op) = rm := by
  unfold r4Type
  apply BitVec.eq_of_toNat_eq
  simp only [funct3, toNat_slice_eq, toNat_append_eq]; omega

@[simp] theorem rs1Field_r4Type : rs1Field (r4Type fs3 fmt fs2 fs1 rm fd op) = fs1 := by
  unfold r4Type
  apply BitVec.eq_of_toNat_eq
  simp only [rs1Field, toNat_slice_eq, toNat_append_eq]; omega

@[simp] theorem rs2Field_r4Type : rs2Field (r4Type fs3 fmt fs2 fs1 rm fd op) = fs2 := by
  unfold r4Type
  apply BitVec.eq_of_toNat_eq
  simp only [rs2Field, toNat_slice_eq, toNat_append_eq]; omega

@[simp] theorem rs3Field_r4Type : rs3Field (r4Type fs3 fmt fs2 fs1 rm fd op) = fs3 := by
  unfold r4Type
  apply BitVec.eq_of_toNat_eq
  simp only [rs3Field, toNat_slice_eq, toNat_append_eq]; omega

@[simp] theorem slice_fmt_r4Type : (r4Type fs3 fmt fs2 fs1 rm fd op).extractLsb' 25 2 = fmt := by
  unfold r4Type
  apply BitVec.eq_of_toNat_eq
  simp only [toNat_slice_eq, toNat_append_eq]; omega

end

/-! ## `amoType` -/

section

variable (f5 : BitVec 5) (aq rl : BitVec 1) (rs2 rs1 rd : Reg)

@[simp] theorem opcode_amoType : opcode (amoType f5 aq rl rs2 rs1 rd) = 0b0101111 := by
  unfold amoType
  apply BitVec.eq_of_toNat_eq
  simp only [opcode, toNat_slice_eq, toNat_append_eq, BitVec.reduceToNat]; omega

@[simp] theorem rdField_amoType : rdField (amoType f5 aq rl rs2 rs1 rd) = rd := by
  unfold amoType
  apply BitVec.eq_of_toNat_eq
  simp only [rdField, toNat_slice_eq, toNat_append_eq, BitVec.reduceToNat]; omega

@[simp] theorem funct3_amoType : funct3 (amoType f5 aq rl rs2 rs1 rd) = 0b010 := by
  unfold amoType
  apply BitVec.eq_of_toNat_eq
  simp only [funct3, toNat_slice_eq, toNat_append_eq, BitVec.reduceToNat]; omega

@[simp] theorem rs1Field_amoType : rs1Field (amoType f5 aq rl rs2 rs1 rd) = rs1 := by
  unfold amoType
  apply BitVec.eq_of_toNat_eq
  simp only [rs1Field, toNat_slice_eq, toNat_append_eq, BitVec.reduceToNat]; omega

@[simp] theorem rs2Field_amoType : rs2Field (amoType f5 aq rl rs2 rs1 rd) = rs2 := by
  unfold amoType
  apply BitVec.eq_of_toNat_eq
  simp only [rs2Field, toNat_slice_eq, toNat_append_eq, BitVec.reduceToNat]; omega

@[simp] theorem slice_funct5_amoType : (amoType f5 aq rl rs2 rs1 rd).extractLsb' 27 5 = f5 := by
  unfold amoType
  apply BitVec.eq_of_toNat_eq
  simp only [toNat_slice_eq, toNat_append_eq, BitVec.reduceToNat]; omega

@[simp] theorem slice_aq_amoType : (amoType f5 aq rl rs2 rs1 rd).extractLsb' 26 1 = aq := by
  unfold amoType
  apply BitVec.eq_of_toNat_eq
  simp only [toNat_slice_eq, toNat_append_eq, BitVec.reduceToNat]; omega

@[simp] theorem slice_rl_amoType : (amoType f5 aq rl rs2 rs1 rd).extractLsb' 25 1 = rl := by
  unfold amoType
  apply BitVec.eq_of_toNat_eq
  simp only [toNat_slice_eq, toNat_append_eq, BitVec.reduceToNat]; omega

end

/-! ## `fenceType` -/

section

variable (fm pred succ : BitVec 4) (rs1 rd : Reg)

@[simp] theorem opcode_fenceType : opcode (fenceType fm pred succ rs1 rd) = 0b0001111 := by
  unfold fenceType
  apply BitVec.eq_of_toNat_eq
  simp only [opcode, toNat_slice_eq, toNat_append_eq, BitVec.reduceToNat]; omega

@[simp] theorem rdField_fenceType : rdField (fenceType fm pred succ rs1 rd) = rd := by
  unfold fenceType
  apply BitVec.eq_of_toNat_eq
  simp only [rdField, toNat_slice_eq, toNat_append_eq, BitVec.reduceToNat]; omega

@[simp] theorem funct3_fenceType : funct3 (fenceType fm pred succ rs1 rd) = 0b000 := by
  unfold fenceType
  apply BitVec.eq_of_toNat_eq
  simp only [funct3, toNat_slice_eq, toNat_append_eq, BitVec.reduceToNat]; omega

@[simp] theorem rs1Field_fenceType : rs1Field (fenceType fm pred succ rs1 rd) = rs1 := by
  unfold fenceType
  apply BitVec.eq_of_toNat_eq
  simp only [rs1Field, toNat_slice_eq, toNat_append_eq, BitVec.reduceToNat]; omega

@[simp] theorem slice_fm_fenceType : (fenceType fm pred succ rs1 rd).extractLsb' 28 4 = fm := by
  unfold fenceType
  apply BitVec.eq_of_toNat_eq
  simp only [toNat_slice_eq, toNat_append_eq, BitVec.reduceToNat]; omega

@[simp] theorem slice_pred_fenceType : (fenceType fm pred succ rs1 rd).extractLsb' 24 4 = pred := by
  unfold fenceType
  apply BitVec.eq_of_toNat_eq
  simp only [toNat_slice_eq, toNat_append_eq, BitVec.reduceToNat]; omega

@[simp] theorem slice_succ_fenceType : (fenceType fm pred succ rs1 rd).extractLsb' 20 4 = succ := by
  unfold fenceType
  apply BitVec.eq_of_toNat_eq
  simp only [toNat_slice_eq, toNat_append_eq, BitVec.reduceToNat]; omega

end

/-! ## `ciType` -/

section

variable (f3 : BitVec 3) (imm : BitVec 6) (rd : Reg) (op : BitVec 2)

@[simp] theorem cQuadrant_ciType : cQuadrant (ciType f3 imm rd op) = op := by
  unfold ciType
  generalize imm.extractLsb' 5 1 = p0, imm.extractLsb' 0 5 = p1
  apply BitVec.eq_of_toNat_eq
  simp only [cQuadrant, toNat_slice_eq, toNat_append_eq]; omega

@[simp] theorem cFunct3_ciType : cFunct3 (ciType f3 imm rd op) = f3 := by
  unfold ciType
  generalize imm.extractLsb' 5 1 = p0, imm.extractLsb' 0 5 = p1
  apply BitVec.eq_of_toNat_eq
  simp only [cFunct3, toNat_slice_eq, toNat_append_eq]; omega

@[simp] theorem cRdField_ciType : cRdField (ciType f3 imm rd op) = rd := by
  unfold ciType
  generalize imm.extractLsb' 5 1 = p0, imm.extractLsb' 0 5 = p1
  apply BitVec.eq_of_toNat_eq
  simp only [cRdField, toNat_slice_eq, toNat_append_eq]; omega

@[simp] theorem cImm6_ciType : cImm6 (ciType f3 imm rd op) = imm := by
  have h0 : (ciType f3 imm rd op).extractLsb' 12 1 = imm.extractLsb' 5 1 := by
    unfold ciType
    generalize imm.extractLsb' 5 1 = p0, imm.extractLsb' 0 5 = p1
    apply BitVec.eq_of_toNat_eq
    simp only [toNat_slice_eq, toNat_append_eq]; omega
  have h1 : (ciType f3 imm rd op).extractLsb' 2 5 = imm.extractLsb' 0 5 := by
    unfold ciType
    generalize imm.extractLsb' 5 1 = p0, imm.extractLsb' 0 5 = p1
    apply BitVec.eq_of_toNat_eq
    simp only [toNat_slice_eq, toNat_append_eq]; omega
  unfold cImm6
  rw [h0, h1]
  exact (slice_join imm 0 5 (1)).trans (slice_whole imm)

@[simp] theorem cBit12_ciType : cBit12 (ciType f3 imm rd op) = imm.extractLsb' 5 1 := by
  unfold ciType
  generalize imm.extractLsb' 5 1 = p0, imm.extractLsb' 0 5 = p1
  apply BitVec.eq_of_toNat_eq
  simp only [cBit12, toNat_slice_eq, toNat_append_eq]; omega

@[simp] theorem cShamt_ciType : cShamt (ciType f3 imm rd op) = imm.extractLsb' 0 5 := by
  unfold ciType
  generalize imm.extractLsb' 5 1 = p0, imm.extractLsb' 0 5 = p1
  apply BitVec.eq_of_toNat_eq
  simp only [cShamt, toNat_slice_eq, toNat_append_eq]; omega

end

/-! ## `crType` -/

section

variable (f4 : BitVec 4) (rd rs2 : Reg)

@[simp] theorem cQuadrant_crType : cQuadrant (crType f4 rd rs2) = 0b10 := by
  unfold crType
  apply BitVec.eq_of_toNat_eq
  simp only [cQuadrant, toNat_slice_eq, toNat_append_eq, BitVec.reduceToNat]; omega

@[simp] theorem cFunct3_crType : cFunct3 (crType f4 rd rs2) = f4.extractLsb' 1 3 := by
  unfold crType
  apply BitVec.eq_of_toNat_eq
  simp only [cFunct3, toNat_slice_eq, toNat_append_eq, BitVec.reduceToNat]; omega

@[simp] theorem cBit12_crType : cBit12 (crType f4 rd rs2) = f4.extractLsb' 0 1 := by
  unfold crType
  apply BitVec.eq_of_toNat_eq
  simp only [cBit12, toNat_slice_eq, toNat_append_eq, BitVec.reduceToNat]; omega

@[simp] theorem cRdField_crType : cRdField (crType f4 rd rs2) = rd := by
  unfold crType
  apply BitVec.eq_of_toNat_eq
  simp only [cRdField, toNat_slice_eq, toNat_append_eq, BitVec.reduceToNat]; omega

@[simp] theorem cRs2Field_crType : cRs2Field (crType f4 rd rs2) = rs2 := by
  unfold crType
  apply BitVec.eq_of_toNat_eq
  simp only [cRs2Field, toNat_slice_eq, toNat_append_eq, BitVec.reduceToNat]; omega

end

/-! ## `caType` -/

section

variable (f2 : BitVec 2) (rd rs2 : CReg)

@[simp] theorem cQuadrant_caType : cQuadrant (caType f2 rd rs2) = 0b01 := by
  unfold caType
  apply BitVec.eq_of_toNat_eq
  simp only [cQuadrant, toNat_slice_eq, toNat_append_eq, BitVec.reduceToNat]; omega

@[simp] theorem cFunct3_caType : cFunct3 (caType f2 rd rs2) = 0b100 := by
  unfold caType
  apply BitVec.eq_of_toNat_eq
  simp only [cFunct3, toNat_slice_eq, toNat_append_eq, BitVec.reduceToNat]; omega

@[simp] theorem cBit12_caType : cBit12 (caType f2 rd rs2) = 0b0 := by
  unfold caType
  apply BitVec.eq_of_toNat_eq
  simp only [cBit12, toNat_slice_eq, toNat_append_eq, BitVec.reduceToNat]; omega

@[simp] theorem slice_funct2High_caType : (caType f2 rd rs2).extractLsb' 10 2 = 0b11 := by
  unfold caType
  apply BitVec.eq_of_toNat_eq
  simp only [toNat_slice_eq, toNat_append_eq, BitVec.reduceToNat]; omega

@[simp] theorem slice_funct2_caType : (caType f2 rd rs2).extractLsb' 5 2 = f2 := by
  unfold caType
  apply BitVec.eq_of_toNat_eq
  simp only [toNat_slice_eq, toNat_append_eq, BitVec.reduceToNat]; omega

@[simp] theorem cHighField_caType : cHighField (caType f2 rd rs2) = rd := by
  unfold caType
  apply BitVec.eq_of_toNat_eq
  simp only [cHighField, toNat_slice_eq, toNat_append_eq, BitVec.reduceToNat]; omega

@[simp] theorem cLowField_caType : cLowField (caType f2 rd rs2) = rs2 := by
  unfold caType
  apply BitVec.eq_of_toNat_eq
  simp only [cLowField, toNat_slice_eq, toNat_append_eq, BitVec.reduceToNat]; omega

end

/-! ## `cbShiftType` -/

section

variable (b12 : BitVec 1) (f2 : BitVec 2) (rd : CReg) (low : BitVec 5)

@[simp] theorem cQuadrant_cbShiftType : cQuadrant (cbShiftType b12 f2 rd low) = 0b01 := by
  unfold cbShiftType
  apply BitVec.eq_of_toNat_eq
  simp only [cQuadrant, toNat_slice_eq, toNat_append_eq, BitVec.reduceToNat]; omega

@[simp] theorem cFunct3_cbShiftType : cFunct3 (cbShiftType b12 f2 rd low) = 0b100 := by
  unfold cbShiftType
  apply BitVec.eq_of_toNat_eq
  simp only [cFunct3, toNat_slice_eq, toNat_append_eq, BitVec.reduceToNat]; omega

@[simp] theorem cBit12_cbShiftType : cBit12 (cbShiftType b12 f2 rd low) = b12 := by
  unfold cbShiftType
  apply BitVec.eq_of_toNat_eq
  simp only [cBit12, toNat_slice_eq, toNat_append_eq, BitVec.reduceToNat]; omega

@[simp] theorem slice_funct2_cbShiftType : (cbShiftType b12 f2 rd low).extractLsb' 10 2 = f2 := by
  unfold cbShiftType
  apply BitVec.eq_of_toNat_eq
  simp only [toNat_slice_eq, toNat_append_eq, BitVec.reduceToNat]; omega

@[simp] theorem cHighField_cbShiftType : cHighField (cbShiftType b12 f2 rd low) = rd := by
  unfold cbShiftType
  apply BitVec.eq_of_toNat_eq
  simp only [cHighField, toNat_slice_eq, toNat_append_eq, BitVec.reduceToNat]; omega

@[simp] theorem cShamt_cbShiftType : cShamt (cbShiftType b12 f2 rd low) = low := by
  unfold cbShiftType
  apply BitVec.eq_of_toNat_eq
  simp only [cShamt, toNat_slice_eq, toNat_append_eq, BitVec.reduceToNat]; omega

@[simp] theorem cImm6_cbShiftType : cImm6 (cbShiftType b12 f2 rd low) = b12 ++ low := by
  unfold cbShiftType
  apply BitVec.eq_of_toNat_eq
  simp only [cImm6, toNat_slice_eq, toNat_append_eq, BitVec.reduceToNat]; omega

end

/-! ## `ciwType` -/

section

variable (imm : BitVec 8) (rd : CReg)

@[simp] theorem cQuadrant_ciwType : cQuadrant (ciwType imm rd) = 0b00 := by
  unfold ciwType
  generalize imm.extractLsb' 2 2 = p0, imm.extractLsb' 4 4 = p1, imm.extractLsb' 0 1 = p2, imm.extractLsb' 1 1 = p3
  apply BitVec.eq_of_toNat_eq
  simp only [cQuadrant, toNat_slice_eq, toNat_append_eq, BitVec.reduceToNat]; omega

@[simp] theorem cFunct3_ciwType : cFunct3 (ciwType imm rd) = 0b000 := by
  unfold ciwType
  generalize imm.extractLsb' 2 2 = p0, imm.extractLsb' 4 4 = p1, imm.extractLsb' 0 1 = p2, imm.extractLsb' 1 1 = p3
  apply BitVec.eq_of_toNat_eq
  simp only [cFunct3, toNat_slice_eq, toNat_append_eq, BitVec.reduceToNat]; omega

@[simp] theorem cSpImm_ciwType : cSpImm (ciwType imm rd) = imm := by
  have h0 : (ciwType imm rd).extractLsb' 7 4 = imm.extractLsb' 4 4 := by
    unfold ciwType
    generalize imm.extractLsb' 2 2 = p0, imm.extractLsb' 4 4 = p1, imm.extractLsb' 0 1 = p2, imm.extractLsb' 1 1 = p3
    apply BitVec.eq_of_toNat_eq
    simp only [toNat_slice_eq, toNat_append_eq, BitVec.reduceToNat]; omega
  have h1 : (ciwType imm rd).extractLsb' 11 2 = imm.extractLsb' 2 2 := by
    unfold ciwType
    generalize imm.extractLsb' 2 2 = p0, imm.extractLsb' 4 4 = p1, imm.extractLsb' 0 1 = p2, imm.extractLsb' 1 1 = p3
    apply BitVec.eq_of_toNat_eq
    simp only [toNat_slice_eq, toNat_append_eq, BitVec.reduceToNat]; omega
  have h2 : (ciwType imm rd).extractLsb' 5 1 = imm.extractLsb' 1 1 := by
    unfold ciwType
    generalize imm.extractLsb' 2 2 = p0, imm.extractLsb' 4 4 = p1, imm.extractLsb' 0 1 = p2, imm.extractLsb' 1 1 = p3
    apply BitVec.eq_of_toNat_eq
    simp only [toNat_slice_eq, toNat_append_eq, BitVec.reduceToNat]; omega
  have h3 : (ciwType imm rd).extractLsb' 6 1 = imm.extractLsb' 0 1 := by
    unfold ciwType
    generalize imm.extractLsb' 2 2 = p0, imm.extractLsb' 4 4 = p1, imm.extractLsb' 0 1 = p2, imm.extractLsb' 1 1 = p3
    apply BitVec.eq_of_toNat_eq
    simp only [toNat_slice_eq, toNat_append_eq, BitVec.reduceToNat]; omega
  unfold cSpImm
  rw [h0, h1, h2, h3]
  exact (((congrArg (· ++ imm.extractLsb' 0 1) (((congrArg (· ++ imm.extractLsb' 1 1) (slice_join imm 2 2 (4))).trans (slice_join imm 1 1 (4 + 2))))).trans (slice_join imm 0 1 (4 + 2 + 1)))).trans (slice_whole imm)

@[simp] theorem cLowField_ciwType : cLowField (ciwType imm rd) = rd := by
  unfold ciwType
  generalize imm.extractLsb' 2 2 = p0, imm.extractLsb' 4 4 = p1, imm.extractLsb' 0 1 = p2, imm.extractLsb' 1 1 = p3
  apply BitVec.eq_of_toNat_eq
  simp only [cLowField, toNat_slice_eq, toNat_append_eq, BitVec.reduceToNat]; omega

end

/-! ## `clType` -/

section

variable (f3 : BitVec 3) (imm : BitVec 5) (rs1 reg : CReg)

@[simp] theorem cQuadrant_clType : cQuadrant (clType f3 imm rs1 reg) = 0b00 := by
  unfold clType
  generalize imm.extractLsb' 1 3 = p0, imm.extractLsb' 0 1 = p1, imm.extractLsb' 4 1 = p2
  apply BitVec.eq_of_toNat_eq
  simp only [cQuadrant, toNat_slice_eq, toNat_append_eq, BitVec.reduceToNat]; omega

@[simp] theorem cFunct3_clType : cFunct3 (clType f3 imm rs1 reg) = f3 := by
  unfold clType
  generalize imm.extractLsb' 1 3 = p0, imm.extractLsb' 0 1 = p1, imm.extractLsb' 4 1 = p2
  apply BitVec.eq_of_toNat_eq
  simp only [cFunct3, toNat_slice_eq, toNat_append_eq, BitVec.reduceToNat]; omega

@[simp] theorem cWordImm_clType : cWordImm (clType f3 imm rs1 reg) = imm := by
  have h0 : (clType f3 imm rs1 reg).extractLsb' 5 1 = imm.extractLsb' 4 1 := by
    unfold clType
    generalize imm.extractLsb' 1 3 = p0, imm.extractLsb' 0 1 = p1, imm.extractLsb' 4 1 = p2
    apply BitVec.eq_of_toNat_eq
    simp only [toNat_slice_eq, toNat_append_eq, BitVec.reduceToNat]; omega
  have h1 : (clType f3 imm rs1 reg).extractLsb' 10 3 = imm.extractLsb' 1 3 := by
    unfold clType
    generalize imm.extractLsb' 1 3 = p0, imm.extractLsb' 0 1 = p1, imm.extractLsb' 4 1 = p2
    apply BitVec.eq_of_toNat_eq
    simp only [toNat_slice_eq, toNat_append_eq, BitVec.reduceToNat]; omega
  have h2 : (clType f3 imm rs1 reg).extractLsb' 6 1 = imm.extractLsb' 0 1 := by
    unfold clType
    generalize imm.extractLsb' 1 3 = p0, imm.extractLsb' 0 1 = p1, imm.extractLsb' 4 1 = p2
    apply BitVec.eq_of_toNat_eq
    simp only [toNat_slice_eq, toNat_append_eq, BitVec.reduceToNat]; omega
  unfold cWordImm
  rw [h0, h1, h2]
  exact (((congrArg (· ++ imm.extractLsb' 0 1) (slice_join imm 1 3 (1))).trans (slice_join imm 0 1 (1 + 3)))).trans (slice_whole imm)

@[simp] theorem cHighField_clType : cHighField (clType f3 imm rs1 reg) = rs1 := by
  unfold clType
  generalize imm.extractLsb' 1 3 = p0, imm.extractLsb' 0 1 = p1, imm.extractLsb' 4 1 = p2
  apply BitVec.eq_of_toNat_eq
  simp only [cHighField, toNat_slice_eq, toNat_append_eq, BitVec.reduceToNat]; omega

@[simp] theorem cLowField_clType : cLowField (clType f3 imm rs1 reg) = reg := by
  unfold clType
  generalize imm.extractLsb' 1 3 = p0, imm.extractLsb' 0 1 = p1, imm.extractLsb' 4 1 = p2
  apply BitVec.eq_of_toNat_eq
  simp only [cLowField, toNat_slice_eq, toNat_append_eq, BitVec.reduceToNat]; omega

end

/-! ## `cLwspType` -/

section

variable (imm : BitVec 6) (rd : Reg)

@[simp] theorem cQuadrant_cLwspType : cQuadrant (cLwspType imm rd) = 0b10 := by
  unfold cLwspType
  generalize imm.extractLsb' 3 1 = p0, imm.extractLsb' 0 3 = p1, imm.extractLsb' 4 2 = p2
  apply BitVec.eq_of_toNat_eq
  simp only [cQuadrant, toNat_slice_eq, toNat_append_eq, BitVec.reduceToNat]; omega

@[simp] theorem cFunct3_cLwspType : cFunct3 (cLwspType imm rd) = 0b010 := by
  unfold cLwspType
  generalize imm.extractLsb' 3 1 = p0, imm.extractLsb' 0 3 = p1, imm.extractLsb' 4 2 = p2
  apply BitVec.eq_of_toNat_eq
  simp only [cFunct3, toNat_slice_eq, toNat_append_eq, BitVec.reduceToNat]; omega

@[simp] theorem cRdField_cLwspType : cRdField (cLwspType imm rd) = rd := by
  unfold cLwspType
  generalize imm.extractLsb' 3 1 = p0, imm.extractLsb' 0 3 = p1, imm.extractLsb' 4 2 = p2
  apply BitVec.eq_of_toNat_eq
  simp only [cRdField, toNat_slice_eq, toNat_append_eq, BitVec.reduceToNat]; omega

@[simp] theorem cLwspImm_cLwspType : cLwspImm (cLwspType imm rd) = imm := by
  have h0 : (cLwspType imm rd).extractLsb' 2 2 = imm.extractLsb' 4 2 := by
    unfold cLwspType
    generalize imm.extractLsb' 3 1 = p0, imm.extractLsb' 0 3 = p1, imm.extractLsb' 4 2 = p2
    apply BitVec.eq_of_toNat_eq
    simp only [toNat_slice_eq, toNat_append_eq, BitVec.reduceToNat]; omega
  have h1 : (cLwspType imm rd).extractLsb' 12 1 = imm.extractLsb' 3 1 := by
    unfold cLwspType
    generalize imm.extractLsb' 3 1 = p0, imm.extractLsb' 0 3 = p1, imm.extractLsb' 4 2 = p2
    apply BitVec.eq_of_toNat_eq
    simp only [toNat_slice_eq, toNat_append_eq, BitVec.reduceToNat]; omega
  have h2 : (cLwspType imm rd).extractLsb' 4 3 = imm.extractLsb' 0 3 := by
    unfold cLwspType
    generalize imm.extractLsb' 3 1 = p0, imm.extractLsb' 0 3 = p1, imm.extractLsb' 4 2 = p2
    apply BitVec.eq_of_toNat_eq
    simp only [toNat_slice_eq, toNat_append_eq, BitVec.reduceToNat]; omega
  unfold cLwspImm
  rw [h0, h1, h2]
  exact (((congrArg (· ++ imm.extractLsb' 0 3) (slice_join imm 3 1 (2))).trans (slice_join imm 0 3 (2 + 1)))).trans (slice_whole imm)

end

/-! ## `cSwspType` -/

section

variable (imm : BitVec 6) (rs2 : Reg)

@[simp] theorem cQuadrant_cSwspType : cQuadrant (cSwspType imm rs2) = 0b10 := by
  unfold cSwspType
  generalize imm.extractLsb' 0 4 = p0, imm.extractLsb' 4 2 = p1
  apply BitVec.eq_of_toNat_eq
  simp only [cQuadrant, toNat_slice_eq, toNat_append_eq, BitVec.reduceToNat]; omega

@[simp] theorem cFunct3_cSwspType : cFunct3 (cSwspType imm rs2) = 0b110 := by
  unfold cSwspType
  generalize imm.extractLsb' 0 4 = p0, imm.extractLsb' 4 2 = p1
  apply BitVec.eq_of_toNat_eq
  simp only [cFunct3, toNat_slice_eq, toNat_append_eq, BitVec.reduceToNat]; omega

@[simp] theorem cRs2Field_cSwspType : cRs2Field (cSwspType imm rs2) = rs2 := by
  unfold cSwspType
  generalize imm.extractLsb' 0 4 = p0, imm.extractLsb' 4 2 = p1
  apply BitVec.eq_of_toNat_eq
  simp only [cRs2Field, toNat_slice_eq, toNat_append_eq, BitVec.reduceToNat]; omega

@[simp] theorem cSwspImm_cSwspType : cSwspImm (cSwspType imm rs2) = imm := by
  have h0 : (cSwspType imm rs2).extractLsb' 7 2 = imm.extractLsb' 4 2 := by
    unfold cSwspType
    generalize imm.extractLsb' 0 4 = p0, imm.extractLsb' 4 2 = p1
    apply BitVec.eq_of_toNat_eq
    simp only [toNat_slice_eq, toNat_append_eq, BitVec.reduceToNat]; omega
  have h1 : (cSwspType imm rs2).extractLsb' 9 4 = imm.extractLsb' 0 4 := by
    unfold cSwspType
    generalize imm.extractLsb' 0 4 = p0, imm.extractLsb' 4 2 = p1
    apply BitVec.eq_of_toNat_eq
    simp only [toNat_slice_eq, toNat_append_eq, BitVec.reduceToNat]; omega
  unfold cSwspImm
  rw [h0, h1]
  exact (slice_join imm 0 4 (2)).trans (slice_whole imm)

end

/-! ## `cAddi16Type` -/

section

variable (imm : BitVec 6)

@[simp] theorem cQuadrant_cAddi16Type : cQuadrant (cAddi16Type imm) = 0b01 := by
  unfold cAddi16Type
  generalize imm.extractLsb' 5 1 = p0, imm.extractLsb' 0 1 = p1, imm.extractLsb' 2 1 = p2, imm.extractLsb' 3 2 = p3, imm.extractLsb' 1 1 = p4
  apply BitVec.eq_of_toNat_eq
  simp only [cQuadrant, toNat_slice_eq, toNat_append_eq, BitVec.reduceToNat]; omega

@[simp] theorem cFunct3_cAddi16Type : cFunct3 (cAddi16Type imm) = 0b011 := by
  unfold cAddi16Type
  generalize imm.extractLsb' 5 1 = p0, imm.extractLsb' 0 1 = p1, imm.extractLsb' 2 1 = p2, imm.extractLsb' 3 2 = p3, imm.extractLsb' 1 1 = p4
  apply BitVec.eq_of_toNat_eq
  simp only [cFunct3, toNat_slice_eq, toNat_append_eq, BitVec.reduceToNat]; omega

@[simp] theorem cRdField_cAddi16Type : cRdField (cAddi16Type imm) = 2 := by
  unfold cAddi16Type
  generalize imm.extractLsb' 5 1 = p0, imm.extractLsb' 0 1 = p1, imm.extractLsb' 2 1 = p2, imm.extractLsb' 3 2 = p3, imm.extractLsb' 1 1 = p4
  apply BitVec.eq_of_toNat_eq
  simp only [cRdField, toNat_slice_eq, toNat_append_eq, BitVec.reduceToNat]; omega

@[simp] theorem cAddi16Imm_cAddi16Type : cAddi16Imm (cAddi16Type imm) = imm := by
  have h0 : (cAddi16Type imm).extractLsb' 12 1 = imm.extractLsb' 5 1 := by
    unfold cAddi16Type
    generalize imm.extractLsb' 5 1 = p0, imm.extractLsb' 0 1 = p1, imm.extractLsb' 2 1 = p2, imm.extractLsb' 3 2 = p3, imm.extractLsb' 1 1 = p4
    apply BitVec.eq_of_toNat_eq
    simp only [toNat_slice_eq, toNat_append_eq, BitVec.reduceToNat]; omega
  have h1 : (cAddi16Type imm).extractLsb' 3 2 = imm.extractLsb' 3 2 := by
    unfold cAddi16Type
    generalize imm.extractLsb' 5 1 = p0, imm.extractLsb' 0 1 = p1, imm.extractLsb' 2 1 = p2, imm.extractLsb' 3 2 = p3, imm.extractLsb' 1 1 = p4
    apply BitVec.eq_of_toNat_eq
    simp only [toNat_slice_eq, toNat_append_eq, BitVec.reduceToNat]; omega
  have h2 : (cAddi16Type imm).extractLsb' 5 1 = imm.extractLsb' 2 1 := by
    unfold cAddi16Type
    generalize imm.extractLsb' 5 1 = p0, imm.extractLsb' 0 1 = p1, imm.extractLsb' 2 1 = p2, imm.extractLsb' 3 2 = p3, imm.extractLsb' 1 1 = p4
    apply BitVec.eq_of_toNat_eq
    simp only [toNat_slice_eq, toNat_append_eq, BitVec.reduceToNat]; omega
  have h3 : (cAddi16Type imm).extractLsb' 2 1 = imm.extractLsb' 1 1 := by
    unfold cAddi16Type
    generalize imm.extractLsb' 5 1 = p0, imm.extractLsb' 0 1 = p1, imm.extractLsb' 2 1 = p2, imm.extractLsb' 3 2 = p3, imm.extractLsb' 1 1 = p4
    apply BitVec.eq_of_toNat_eq
    simp only [toNat_slice_eq, toNat_append_eq, BitVec.reduceToNat]; omega
  have h4 : (cAddi16Type imm).extractLsb' 6 1 = imm.extractLsb' 0 1 := by
    unfold cAddi16Type
    generalize imm.extractLsb' 5 1 = p0, imm.extractLsb' 0 1 = p1, imm.extractLsb' 2 1 = p2, imm.extractLsb' 3 2 = p3, imm.extractLsb' 1 1 = p4
    apply BitVec.eq_of_toNat_eq
    simp only [toNat_slice_eq, toNat_append_eq, BitVec.reduceToNat]; omega
  unfold cAddi16Imm
  rw [h0, h1, h2, h3, h4]
  exact (((congrArg (· ++ imm.extractLsb' 0 1) (((congrArg (· ++ imm.extractLsb' 1 1) (((congrArg (· ++ imm.extractLsb' 2 1) (slice_join imm 3 2 (1))).trans (slice_join imm 2 1 (1 + 2))))).trans (slice_join imm 1 1 (1 + 2 + 1))))).trans (slice_join imm 0 1 (1 + 2 + 1 + 1)))).trans (slice_whole imm)

end

/-! ## `cbType` -/

section

variable (f3 : BitVec 3) (imm : BitVec 8) (rs1 : CReg)

@[simp] theorem cQuadrant_cbType : cQuadrant (cbType f3 imm rs1) = 0b01 := by
  unfold cbType
  generalize imm.extractLsb' 7 1 = p0, imm.extractLsb' 2 2 = p1, imm.extractLsb' 5 2 = p2, imm.extractLsb' 0 2 = p3, imm.extractLsb' 4 1 = p4
  apply BitVec.eq_of_toNat_eq
  simp only [cQuadrant, toNat_slice_eq, toNat_append_eq, BitVec.reduceToNat]; omega

@[simp] theorem cFunct3_cbType : cFunct3 (cbType f3 imm rs1) = f3 := by
  unfold cbType
  generalize imm.extractLsb' 7 1 = p0, imm.extractLsb' 2 2 = p1, imm.extractLsb' 5 2 = p2, imm.extractLsb' 0 2 = p3, imm.extractLsb' 4 1 = p4
  apply BitVec.eq_of_toNat_eq
  simp only [cFunct3, toNat_slice_eq, toNat_append_eq, BitVec.reduceToNat]; omega

@[simp] theorem cBranchImm_cbType : cBranchImm (cbType f3 imm rs1) = imm := by
  have h0 : (cbType f3 imm rs1).extractLsb' 12 1 = imm.extractLsb' 7 1 := by
    unfold cbType
    generalize imm.extractLsb' 7 1 = p0, imm.extractLsb' 2 2 = p1, imm.extractLsb' 5 2 = p2, imm.extractLsb' 0 2 = p3, imm.extractLsb' 4 1 = p4
    apply BitVec.eq_of_toNat_eq
    simp only [toNat_slice_eq, toNat_append_eq, BitVec.reduceToNat]; omega
  have h1 : (cbType f3 imm rs1).extractLsb' 5 2 = imm.extractLsb' 5 2 := by
    unfold cbType
    generalize imm.extractLsb' 7 1 = p0, imm.extractLsb' 2 2 = p1, imm.extractLsb' 5 2 = p2, imm.extractLsb' 0 2 = p3, imm.extractLsb' 4 1 = p4
    apply BitVec.eq_of_toNat_eq
    simp only [toNat_slice_eq, toNat_append_eq, BitVec.reduceToNat]; omega
  have h2 : (cbType f3 imm rs1).extractLsb' 2 1 = imm.extractLsb' 4 1 := by
    unfold cbType
    generalize imm.extractLsb' 7 1 = p0, imm.extractLsb' 2 2 = p1, imm.extractLsb' 5 2 = p2, imm.extractLsb' 0 2 = p3, imm.extractLsb' 4 1 = p4
    apply BitVec.eq_of_toNat_eq
    simp only [toNat_slice_eq, toNat_append_eq, BitVec.reduceToNat]; omega
  have h3 : (cbType f3 imm rs1).extractLsb' 10 2 = imm.extractLsb' 2 2 := by
    unfold cbType
    generalize imm.extractLsb' 7 1 = p0, imm.extractLsb' 2 2 = p1, imm.extractLsb' 5 2 = p2, imm.extractLsb' 0 2 = p3, imm.extractLsb' 4 1 = p4
    apply BitVec.eq_of_toNat_eq
    simp only [toNat_slice_eq, toNat_append_eq, BitVec.reduceToNat]; omega
  have h4 : (cbType f3 imm rs1).extractLsb' 3 2 = imm.extractLsb' 0 2 := by
    unfold cbType
    generalize imm.extractLsb' 7 1 = p0, imm.extractLsb' 2 2 = p1, imm.extractLsb' 5 2 = p2, imm.extractLsb' 0 2 = p3, imm.extractLsb' 4 1 = p4
    apply BitVec.eq_of_toNat_eq
    simp only [toNat_slice_eq, toNat_append_eq, BitVec.reduceToNat]; omega
  unfold cBranchImm
  rw [h0, h1, h2, h3, h4]
  exact (((congrArg (· ++ imm.extractLsb' 0 2) (((congrArg (· ++ imm.extractLsb' 2 2) (((congrArg (· ++ imm.extractLsb' 4 1) (slice_join imm 5 2 (1))).trans (slice_join imm 4 1 (1 + 2))))).trans (slice_join imm 2 2 (1 + 2 + 1))))).trans (slice_join imm 0 2 (1 + 2 + 1 + 2)))).trans (slice_whole imm)

@[simp] theorem cHighField_cbType : cHighField (cbType f3 imm rs1) = rs1 := by
  unfold cbType
  generalize imm.extractLsb' 7 1 = p0, imm.extractLsb' 2 2 = p1, imm.extractLsb' 5 2 = p2, imm.extractLsb' 0 2 = p3, imm.extractLsb' 4 1 = p4
  apply BitVec.eq_of_toNat_eq
  simp only [cHighField, toNat_slice_eq, toNat_append_eq, BitVec.reduceToNat]; omega

end

/-! ## `cjType` -/

section

variable (f3 : BitVec 3) (imm : BitVec 11)

@[simp] theorem cQuadrant_cjType : cQuadrant (cjType f3 imm) = 0b01 := by
  unfold cjType
  generalize imm.extractLsb' 10 1 = p0, imm.extractLsb' 3 1 = p1, imm.extractLsb' 7 2 = p2, imm.extractLsb' 9 1 = p3, imm.extractLsb' 5 1 = p4, imm.extractLsb' 6 1 = p5, imm.extractLsb' 0 3 = p6, imm.extractLsb' 4 1 = p7
  apply BitVec.eq_of_toNat_eq
  simp only [cQuadrant, toNat_slice_eq, toNat_append_eq, BitVec.reduceToNat]; omega

@[simp] theorem cFunct3_cjType : cFunct3 (cjType f3 imm) = f3 := by
  unfold cjType
  generalize imm.extractLsb' 10 1 = p0, imm.extractLsb' 3 1 = p1, imm.extractLsb' 7 2 = p2, imm.extractLsb' 9 1 = p3, imm.extractLsb' 5 1 = p4, imm.extractLsb' 6 1 = p5, imm.extractLsb' 0 3 = p6, imm.extractLsb' 4 1 = p7
  apply BitVec.eq_of_toNat_eq
  simp only [cFunct3, toNat_slice_eq, toNat_append_eq, BitVec.reduceToNat]; omega

@[simp] theorem cJumpImm_cjType : cJumpImm (cjType f3 imm) = imm := by
  have h0 : (cjType f3 imm).extractLsb' 12 1 = imm.extractLsb' 10 1 := by
    unfold cjType
    generalize imm.extractLsb' 10 1 = p0, imm.extractLsb' 3 1 = p1, imm.extractLsb' 7 2 = p2, imm.extractLsb' 9 1 = p3, imm.extractLsb' 5 1 = p4, imm.extractLsb' 6 1 = p5, imm.extractLsb' 0 3 = p6, imm.extractLsb' 4 1 = p7
    apply BitVec.eq_of_toNat_eq
    simp only [toNat_slice_eq, toNat_append_eq, BitVec.reduceToNat]; omega
  have h1 : (cjType f3 imm).extractLsb' 8 1 = imm.extractLsb' 9 1 := by
    unfold cjType
    generalize imm.extractLsb' 10 1 = p0, imm.extractLsb' 3 1 = p1, imm.extractLsb' 7 2 = p2, imm.extractLsb' 9 1 = p3, imm.extractLsb' 5 1 = p4, imm.extractLsb' 6 1 = p5, imm.extractLsb' 0 3 = p6, imm.extractLsb' 4 1 = p7
    apply BitVec.eq_of_toNat_eq
    simp only [toNat_slice_eq, toNat_append_eq, BitVec.reduceToNat]; omega
  have h2 : (cjType f3 imm).extractLsb' 9 2 = imm.extractLsb' 7 2 := by
    unfold cjType
    generalize imm.extractLsb' 10 1 = p0, imm.extractLsb' 3 1 = p1, imm.extractLsb' 7 2 = p2, imm.extractLsb' 9 1 = p3, imm.extractLsb' 5 1 = p4, imm.extractLsb' 6 1 = p5, imm.extractLsb' 0 3 = p6, imm.extractLsb' 4 1 = p7
    apply BitVec.eq_of_toNat_eq
    simp only [toNat_slice_eq, toNat_append_eq, BitVec.reduceToNat]; omega
  have h3 : (cjType f3 imm).extractLsb' 6 1 = imm.extractLsb' 6 1 := by
    unfold cjType
    generalize imm.extractLsb' 10 1 = p0, imm.extractLsb' 3 1 = p1, imm.extractLsb' 7 2 = p2, imm.extractLsb' 9 1 = p3, imm.extractLsb' 5 1 = p4, imm.extractLsb' 6 1 = p5, imm.extractLsb' 0 3 = p6, imm.extractLsb' 4 1 = p7
    apply BitVec.eq_of_toNat_eq
    simp only [toNat_slice_eq, toNat_append_eq, BitVec.reduceToNat]; omega
  have h4 : (cjType f3 imm).extractLsb' 7 1 = imm.extractLsb' 5 1 := by
    unfold cjType
    generalize imm.extractLsb' 10 1 = p0, imm.extractLsb' 3 1 = p1, imm.extractLsb' 7 2 = p2, imm.extractLsb' 9 1 = p3, imm.extractLsb' 5 1 = p4, imm.extractLsb' 6 1 = p5, imm.extractLsb' 0 3 = p6, imm.extractLsb' 4 1 = p7
    apply BitVec.eq_of_toNat_eq
    simp only [toNat_slice_eq, toNat_append_eq, BitVec.reduceToNat]; omega
  have h5 : (cjType f3 imm).extractLsb' 2 1 = imm.extractLsb' 4 1 := by
    unfold cjType
    generalize imm.extractLsb' 10 1 = p0, imm.extractLsb' 3 1 = p1, imm.extractLsb' 7 2 = p2, imm.extractLsb' 9 1 = p3, imm.extractLsb' 5 1 = p4, imm.extractLsb' 6 1 = p5, imm.extractLsb' 0 3 = p6, imm.extractLsb' 4 1 = p7
    apply BitVec.eq_of_toNat_eq
    simp only [toNat_slice_eq, toNat_append_eq, BitVec.reduceToNat]; omega
  have h6 : (cjType f3 imm).extractLsb' 11 1 = imm.extractLsb' 3 1 := by
    unfold cjType
    generalize imm.extractLsb' 10 1 = p0, imm.extractLsb' 3 1 = p1, imm.extractLsb' 7 2 = p2, imm.extractLsb' 9 1 = p3, imm.extractLsb' 5 1 = p4, imm.extractLsb' 6 1 = p5, imm.extractLsb' 0 3 = p6, imm.extractLsb' 4 1 = p7
    apply BitVec.eq_of_toNat_eq
    simp only [toNat_slice_eq, toNat_append_eq, BitVec.reduceToNat]; omega
  have h7 : (cjType f3 imm).extractLsb' 3 3 = imm.extractLsb' 0 3 := by
    unfold cjType
    generalize imm.extractLsb' 10 1 = p0, imm.extractLsb' 3 1 = p1, imm.extractLsb' 7 2 = p2, imm.extractLsb' 9 1 = p3, imm.extractLsb' 5 1 = p4, imm.extractLsb' 6 1 = p5, imm.extractLsb' 0 3 = p6, imm.extractLsb' 4 1 = p7
    apply BitVec.eq_of_toNat_eq
    simp only [toNat_slice_eq, toNat_append_eq, BitVec.reduceToNat]; omega
  unfold cJumpImm
  rw [h0, h1, h2, h3, h4, h5, h6, h7]
  exact (((congrArg (· ++ imm.extractLsb' 0 3) (((congrArg (· ++ imm.extractLsb' 3 1) (((congrArg (· ++ imm.extractLsb' 4 1) (((congrArg (· ++ imm.extractLsb' 5 1) (((congrArg (· ++ imm.extractLsb' 6 1) (((congrArg (· ++ imm.extractLsb' 7 2) (slice_join imm 9 1 (1))).trans (slice_join imm 7 2 (1 + 1))))).trans (slice_join imm 6 1 (1 + 1 + 2))))).trans (slice_join imm 5 1 (1 + 1 + 2 + 1))))).trans (slice_join imm 4 1 (1 + 1 + 2 + 1 + 1))))).trans (slice_join imm 3 1 (1 + 1 + 2 + 1 + 1 + 1))))).trans (slice_join imm 0 3 (1 + 1 + 2 + 1 + 1 + 1 + 1)))).trans (slice_whole imm)

end

end Sys2Proof
end

