-- ==== Sys2Proof/Laws/PerInstr.lean ====
section
/-! SUPPORT. Statements about every instruction as syntax, one lemma per constructor. -/

namespace Sys2Proof.Laws.Length

/-- The low two bits of the encoding give the instruction's length: 11 for 4 bytes, anything else for 2 (rules R200,
R480). -/
def Statement (i : Instr) : Prop :=
  match encode i with
  | .word w => (opcode w).extractLsb' 0 2 = 0b11 ∧ i.length = 4
  | .half h => cQuadrant h ≠ 0b11 ∧ i.length = 2

theorem add (rd rs1 rs2 : Reg) : Statement (.add rd rs1 rs2) := show _ ∧ _ from ⟨by simp, rfl⟩

theorem addi (rd rs1 : Reg) (imm : BitVec 12) : Statement (.addi rd rs1 imm) := show _ ∧ _ from ⟨by simp, rfl⟩

theorem sub (rd rs1 rs2 : Reg) : Statement (.sub rd rs1 rs2) := show _ ∧ _ from ⟨by simp, rfl⟩

theorem and (rd rs1 rs2 : Reg) : Statement (.and rd rs1 rs2) := show _ ∧ _ from ⟨by simp, rfl⟩

theorem andi (rd rs1 : Reg) (imm : BitVec 12) : Statement (.andi rd rs1 imm) := show _ ∧ _ from ⟨by simp, rfl⟩

theorem or (rd rs1 rs2 : Reg) : Statement (.or rd rs1 rs2) := show _ ∧ _ from ⟨by simp, rfl⟩

theorem ori (rd rs1 : Reg) (imm : BitVec 12) : Statement (.ori rd rs1 imm) := show _ ∧ _ from ⟨by simp, rfl⟩

theorem xor (rd rs1 rs2 : Reg) : Statement (.xor rd rs1 rs2) := show _ ∧ _ from ⟨by simp, rfl⟩

theorem xori (rd rs1 : Reg) (imm : BitVec 12) : Statement (.xori rd rs1 imm) := show _ ∧ _ from ⟨by simp, rfl⟩

theorem sll (rd rs1 rs2 : Reg) : Statement (.sll rd rs1 rs2) := show _ ∧ _ from ⟨by simp, rfl⟩

theorem slli (rd rs1 : Reg) (shamt : BitVec 5) : Statement (.slli rd rs1 shamt) := show _ ∧ _ from ⟨by simp, rfl⟩

theorem srl (rd rs1 rs2 : Reg) : Statement (.srl rd rs1 rs2) := show _ ∧ _ from ⟨by simp, rfl⟩

theorem srli (rd rs1 : Reg) (shamt : BitVec 5) : Statement (.srli rd rs1 shamt) := show _ ∧ _ from ⟨by simp, rfl⟩

theorem sra (rd rs1 rs2 : Reg) : Statement (.sra rd rs1 rs2) := show _ ∧ _ from ⟨by simp, rfl⟩

theorem srai (rd rs1 : Reg) (shamt : BitVec 5) : Statement (.srai rd rs1 shamt) := show _ ∧ _ from ⟨by simp, rfl⟩

theorem slt (rd rs1 rs2 : Reg) : Statement (.slt rd rs1 rs2) := show _ ∧ _ from ⟨by simp, rfl⟩

theorem sltu (rd rs1 rs2 : Reg) : Statement (.sltu rd rs1 rs2) := show _ ∧ _ from ⟨by simp, rfl⟩

theorem slti (rd rs1 : Reg) (imm : BitVec 12) : Statement (.slti rd rs1 imm) := show _ ∧ _ from ⟨by simp, rfl⟩

theorem sltiu (rd rs1 : Reg) (imm : BitVec 12) : Statement (.sltiu rd rs1 imm) := show _ ∧ _ from ⟨by simp, rfl⟩

theorem lui (rd : Reg) (imm : BitVec 20) : Statement (.lui rd imm) := show _ ∧ _ from ⟨by simp, rfl⟩

theorem auipc (rd : Reg) (imm : BitVec 20) : Statement (.auipc rd imm) := show _ ∧ _ from ⟨by simp, rfl⟩

theorem beq (rs1 rs2 : Reg) (imm : BitVec 12) : Statement (.beq rs1 rs2 imm) := show _ ∧ _ from ⟨by simp, rfl⟩

theorem bne (rs1 rs2 : Reg) (imm : BitVec 12) : Statement (.bne rs1 rs2 imm) := show _ ∧ _ from ⟨by simp, rfl⟩

theorem blt (rs1 rs2 : Reg) (imm : BitVec 12) : Statement (.blt rs1 rs2 imm) := show _ ∧ _ from ⟨by simp, rfl⟩

theorem bge (rs1 rs2 : Reg) (imm : BitVec 12) : Statement (.bge rs1 rs2 imm) := show _ ∧ _ from ⟨by simp, rfl⟩

theorem bltu (rs1 rs2 : Reg) (imm : BitVec 12) : Statement (.bltu rs1 rs2 imm) := show _ ∧ _ from ⟨by simp, rfl⟩

theorem bgeu (rs1 rs2 : Reg) (imm : BitVec 12) : Statement (.bgeu rs1 rs2 imm) := show _ ∧ _ from ⟨by simp, rfl⟩

theorem jal (rd : Reg) (imm : BitVec 20) : Statement (.jal rd imm) := show _ ∧ _ from ⟨by simp, rfl⟩

theorem jalr (rd rs1 : Reg) (imm : BitVec 12) : Statement (.jalr rd rs1 imm) := show _ ∧ _ from ⟨by simp, rfl⟩

theorem lb (rd rs1 : Reg) (imm : BitVec 12) : Statement (.lb rd rs1 imm) := show _ ∧ _ from ⟨by simp, rfl⟩

theorem lbu (rd rs1 : Reg) (imm : BitVec 12) : Statement (.lbu rd rs1 imm) := show _ ∧ _ from ⟨by simp, rfl⟩

theorem lh (rd rs1 : Reg) (imm : BitVec 12) : Statement (.lh rd rs1 imm) := show _ ∧ _ from ⟨by simp, rfl⟩

theorem lhu (rd rs1 : Reg) (imm : BitVec 12) : Statement (.lhu rd rs1 imm) := show _ ∧ _ from ⟨by simp, rfl⟩

theorem lw (rd rs1 : Reg) (imm : BitVec 12) : Statement (.lw rd rs1 imm) := show _ ∧ _ from ⟨by simp, rfl⟩

theorem sb (rs2 rs1 : Reg) (imm : BitVec 12) : Statement (.sb rs2 rs1 imm) := show _ ∧ _ from ⟨by simp, rfl⟩

theorem sh (rs2 rs1 : Reg) (imm : BitVec 12) : Statement (.sh rs2 rs1 imm) := show _ ∧ _ from ⟨by simp, rfl⟩

theorem sw (rs2 rs1 : Reg) (imm : BitVec 12) : Statement (.sw rs2 rs1 imm) := show _ ∧ _ from ⟨by simp, rfl⟩

theorem csrrw (rd rs1 : Reg) (csr : BitVec 12) : Statement (.csrrw rd rs1 csr) := show _ ∧ _ from ⟨by simp, rfl⟩

theorem csrrs (rd rs1 : Reg) (csr : BitVec 12) : Statement (.csrrs rd rs1 csr) := show _ ∧ _ from ⟨by simp, rfl⟩

theorem csrrc (rd rs1 : Reg) (csr : BitVec 12) : Statement (.csrrc rd rs1 csr) := show _ ∧ _ from ⟨by simp, rfl⟩

theorem csrrwi (rd : Reg) (uimm : BitVec 5) (csr : BitVec 12) : Statement (.csrrwi rd uimm csr) := show _ ∧ _ from ⟨by simp, rfl⟩

theorem csrrsi (rd : Reg) (uimm : BitVec 5) (csr : BitVec 12) : Statement (.csrrsi rd uimm csr) := show _ ∧ _ from ⟨by simp, rfl⟩

theorem csrrci (rd : Reg) (uimm : BitVec 5) (csr : BitVec 12) : Statement (.csrrci rd uimm csr) := show _ ∧ _ from ⟨by simp, rfl⟩

theorem wfi : Statement .wfi := show _ ∧ _ from ⟨by decide, rfl⟩

theorem mret : Statement .mret := show _ ∧ _ from ⟨by decide, rfl⟩

theorem fence (rd rs1 : Reg) (fm pred succ : BitVec 4) : Statement (.fence rd rs1 fm pred succ) := show _ ∧ _ from ⟨by simp, rfl⟩

theorem fenceI (rd rs1 : Reg) (imm : BitVec 12) : Statement (.fenceI rd rs1 imm) := show _ ∧ _ from ⟨by simp, rfl⟩

theorem ecall : Statement .ecall := show _ ∧ _ from ⟨by decide, rfl⟩

theorem ebreak : Statement .ebreak := show _ ∧ _ from ⟨by decide, rfl⟩

theorem mul (rd rs1 rs2 : Reg) : Statement (.mul rd rs1 rs2) := show _ ∧ _ from ⟨by simp, rfl⟩

theorem mulh (rd rs1 rs2 : Reg) : Statement (.mulh rd rs1 rs2) := show _ ∧ _ from ⟨by simp, rfl⟩

theorem mulhsu (rd rs1 rs2 : Reg) : Statement (.mulhsu rd rs1 rs2) := show _ ∧ _ from ⟨by simp, rfl⟩

theorem mulhu (rd rs1 rs2 : Reg) : Statement (.mulhu rd rs1 rs2) := show _ ∧ _ from ⟨by simp, rfl⟩

theorem div (rd rs1 rs2 : Reg) : Statement (.div rd rs1 rs2) := show _ ∧ _ from ⟨by simp, rfl⟩

theorem divu (rd rs1 rs2 : Reg) : Statement (.divu rd rs1 rs2) := show _ ∧ _ from ⟨by simp, rfl⟩

theorem rem (rd rs1 rs2 : Reg) : Statement (.rem rd rs1 rs2) := show _ ∧ _ from ⟨by simp, rfl⟩

theorem remu (rd rs1 rs2 : Reg) : Statement (.remu rd rs1 rs2) := show _ ∧ _ from ⟨by simp, rfl⟩

theorem amoaddW (aq rl : BitVec 1) (rd rs1 rs2 : Reg) : Statement (.amoaddW aq rl rd rs1 rs2) := show _ ∧ _ from ⟨by simp, rfl⟩

theorem amoandW (aq rl : BitVec 1) (rd rs1 rs2 : Reg) : Statement (.amoandW aq rl rd rs1 rs2) := show _ ∧ _ from ⟨by simp, rfl⟩

theorem amomaxW (aq rl : BitVec 1) (rd rs1 rs2 : Reg) : Statement (.amomaxW aq rl rd rs1 rs2) := show _ ∧ _ from ⟨by simp, rfl⟩

theorem amomaxuW (aq rl : BitVec 1) (rd rs1 rs2 : Reg) : Statement (.amomaxuW aq rl rd rs1 rs2) := show _ ∧ _ from ⟨by simp, rfl⟩

theorem amominW (aq rl : BitVec 1) (rd rs1 rs2 : Reg) : Statement (.amominW aq rl rd rs1 rs2) := show _ ∧ _ from ⟨by simp, rfl⟩

theorem amominuW (aq rl : BitVec 1) (rd rs1 rs2 : Reg) : Statement (.amominuW aq rl rd rs1 rs2) := show _ ∧ _ from ⟨by simp, rfl⟩

theorem amoorW (aq rl : BitVec 1) (rd rs1 rs2 : Reg) : Statement (.amoorW aq rl rd rs1 rs2) := show _ ∧ _ from ⟨by simp, rfl⟩

theorem amoswapW (aq rl : BitVec 1) (rd rs1 rs2 : Reg) : Statement (.amoswapW aq rl rd rs1 rs2) := show _ ∧ _ from ⟨by simp, rfl⟩

theorem amoxorW (aq rl : BitVec 1) (rd rs1 rs2 : Reg) : Statement (.amoxorW aq rl rd rs1 rs2) := show _ ∧ _ from ⟨by simp, rfl⟩

theorem scW (aq rl : BitVec 1) (rd rs1 rs2 : Reg) : Statement (.scW aq rl rd rs1 rs2) := show _ ∧ _ from ⟨by simp, rfl⟩

theorem lrW (aq rl : BitVec 1) (rd rs1 : Reg) : Statement (.lrW aq rl rd rs1) := show _ ∧ _ from ⟨by simp, rfl⟩

theorem faddS (rm : BitVec 3) (fd fs1 fs2 : Reg) : Statement (.faddS rm fd fs1 fs2) := show _ ∧ _ from ⟨by simp, rfl⟩

theorem fsubS (rm : BitVec 3) (fd fs1 fs2 : Reg) : Statement (.fsubS rm fd fs1 fs2) := show _ ∧ _ from ⟨by simp, rfl⟩

theorem fmulS (rm : BitVec 3) (fd fs1 fs2 : Reg) : Statement (.fmulS rm fd fs1 fs2) := show _ ∧ _ from ⟨by simp, rfl⟩

theorem fdivS (rm : BitVec 3) (fd fs1 fs2 : Reg) : Statement (.fdivS rm fd fs1 fs2) := show _ ∧ _ from ⟨by simp, rfl⟩

theorem fsqrtS (rm : BitVec 3) (fd fs1 : Reg) : Statement (.fsqrtS rm fd fs1) := show _ ∧ _ from ⟨by simp, rfl⟩

theorem fsgnjS (fd fs1 fs2 : Reg) : Statement (.fsgnjS fd fs1 fs2) := show _ ∧ _ from ⟨by simp, rfl⟩

theorem fsgnjnS (fd fs1 fs2 : Reg) : Statement (.fsgnjnS fd fs1 fs2) := show _ ∧ _ from ⟨by simp, rfl⟩

theorem fsgnjxS (fd fs1 fs2 : Reg) : Statement (.fsgnjxS fd fs1 fs2) := show _ ∧ _ from ⟨by simp, rfl⟩

theorem fminS (fd fs1 fs2 : Reg) : Statement (.fminS fd fs1 fs2) := show _ ∧ _ from ⟨by simp, rfl⟩

theorem fmaxS (fd fs1 fs2 : Reg) : Statement (.fmaxS fd fs1 fs2) := show _ ∧ _ from ⟨by simp, rfl⟩

theorem feqS (rd fs1 fs2 : Reg) : Statement (.feqS rd fs1 fs2) := show _ ∧ _ from ⟨by simp, rfl⟩

theorem fltS (rd fs1 fs2 : Reg) : Statement (.fltS rd fs1 fs2) := show _ ∧ _ from ⟨by simp, rfl⟩

theorem fleS (rd fs1 fs2 : Reg) : Statement (.fleS rd fs1 fs2) := show _ ∧ _ from ⟨by simp, rfl⟩

theorem fclassS (rd fs1 : Reg) : Statement (.fclassS rd fs1) := show _ ∧ _ from ⟨by simp, rfl⟩

theorem fmaddS (rm : BitVec 3) (fd fs1 fs2 fs3 : Reg) : Statement (.fmaddS rm fd fs1 fs2 fs3) := show _ ∧ _ from ⟨by simp, rfl⟩

theorem fmsubS (rm : BitVec 3) (fd fs1 fs2 fs3 : Reg) : Statement (.fmsubS rm fd fs1 fs2 fs3) := show _ ∧ _ from ⟨by simp, rfl⟩

theorem fnmsubS (rm : BitVec 3) (fd fs1 fs2 fs3 : Reg) : Statement (.fnmsubS rm fd fs1 fs2 fs3) := show _ ∧ _ from ⟨by simp, rfl⟩

theorem fnmaddS (rm : BitVec 3) (fd fs1 fs2 fs3 : Reg) : Statement (.fnmaddS rm fd fs1 fs2 fs3) := show _ ∧ _ from ⟨by simp, rfl⟩

theorem fcvtSW (rm : BitVec 3) (fd rs1 : Reg) : Statement (.fcvtSW rm fd rs1) := show _ ∧ _ from ⟨by simp, rfl⟩

theorem fcvtSWu (rm : BitVec 3) (fd rs1 : Reg) : Statement (.fcvtSWu rm fd rs1) := show _ ∧ _ from ⟨by simp, rfl⟩

theorem fcvtWS (rm : BitVec 3) (rd fs1 : Reg) : Statement (.fcvtWS rm rd fs1) := show _ ∧ _ from ⟨by simp, rfl⟩

theorem fcvtWuS (rm : BitVec 3) (rd fs1 : Reg) : Statement (.fcvtWuS rm rd fs1) := show _ ∧ _ from ⟨by simp, rfl⟩

theorem fmvWX (fd rs1 : Reg) : Statement (.fmvWX fd rs1) := show _ ∧ _ from ⟨by simp, rfl⟩

theorem fmvXW (rd fs1 : Reg) : Statement (.fmvXW rd fs1) := show _ ∧ _ from ⟨by simp, rfl⟩

theorem flw (fd rs1 : Reg) (imm : BitVec 12) : Statement (.flw fd rs1 imm) := show _ ∧ _ from ⟨by simp, rfl⟩

theorem fsw (fs2 rs1 : Reg) (imm : BitVec 12) : Statement (.fsw fs2 rs1 imm) := show _ ∧ _ from ⟨by simp, rfl⟩

theorem faddD (rm : BitVec 3) (fd fs1 fs2 : Reg) : Statement (.faddD rm fd fs1 fs2) := show _ ∧ _ from ⟨by simp, rfl⟩

theorem fsubD (rm : BitVec 3) (fd fs1 fs2 : Reg) : Statement (.fsubD rm fd fs1 fs2) := show _ ∧ _ from ⟨by simp, rfl⟩

theorem fmulD (rm : BitVec 3) (fd fs1 fs2 : Reg) : Statement (.fmulD rm fd fs1 fs2) := show _ ∧ _ from ⟨by simp, rfl⟩

theorem fdivD (rm : BitVec 3) (fd fs1 fs2 : Reg) : Statement (.fdivD rm fd fs1 fs2) := show _ ∧ _ from ⟨by simp, rfl⟩

theorem fsqrtD (rm : BitVec 3) (fd fs1 : Reg) : Statement (.fsqrtD rm fd fs1) := show _ ∧ _ from ⟨by simp, rfl⟩

theorem fsgnjD (fd fs1 fs2 : Reg) : Statement (.fsgnjD fd fs1 fs2) := show _ ∧ _ from ⟨by simp, rfl⟩

theorem fsgnjnD (fd fs1 fs2 : Reg) : Statement (.fsgnjnD fd fs1 fs2) := show _ ∧ _ from ⟨by simp, rfl⟩

theorem fsgnjxD (fd fs1 fs2 : Reg) : Statement (.fsgnjxD fd fs1 fs2) := show _ ∧ _ from ⟨by simp, rfl⟩

theorem fminD (fd fs1 fs2 : Reg) : Statement (.fminD fd fs1 fs2) := show _ ∧ _ from ⟨by simp, rfl⟩

theorem fmaxD (fd fs1 fs2 : Reg) : Statement (.fmaxD fd fs1 fs2) := show _ ∧ _ from ⟨by simp, rfl⟩

theorem feqD (rd fs1 fs2 : Reg) : Statement (.feqD rd fs1 fs2) := show _ ∧ _ from ⟨by simp, rfl⟩

theorem fltD (rd fs1 fs2 : Reg) : Statement (.fltD rd fs1 fs2) := show _ ∧ _ from ⟨by simp, rfl⟩

theorem fleD (rd fs1 fs2 : Reg) : Statement (.fleD rd fs1 fs2) := show _ ∧ _ from ⟨by simp, rfl⟩

theorem fclassD (rd fs1 : Reg) : Statement (.fclassD rd fs1) := show _ ∧ _ from ⟨by simp, rfl⟩

theorem fmaddD (rm : BitVec 3) (fd fs1 fs2 fs3 : Reg) : Statement (.fmaddD rm fd fs1 fs2 fs3) := show _ ∧ _ from ⟨by simp, rfl⟩

theorem fmsubD (rm : BitVec 3) (fd fs1 fs2 fs3 : Reg) : Statement (.fmsubD rm fd fs1 fs2 fs3) := show _ ∧ _ from ⟨by simp, rfl⟩

theorem fnmsubD (rm : BitVec 3) (fd fs1 fs2 fs3 : Reg) : Statement (.fnmsubD rm fd fs1 fs2 fs3) := show _ ∧ _ from ⟨by simp, rfl⟩

theorem fnmaddD (rm : BitVec 3) (fd fs1 fs2 fs3 : Reg) : Statement (.fnmaddD rm fd fs1 fs2 fs3) := show _ ∧ _ from ⟨by simp, rfl⟩

theorem fcvtDS (rm : BitVec 3) (fd fs1 : Reg) : Statement (.fcvtDS rm fd fs1) := show _ ∧ _ from ⟨by simp, rfl⟩

theorem fcvtDW (rm : BitVec 3) (fd rs1 : Reg) : Statement (.fcvtDW rm fd rs1) := show _ ∧ _ from ⟨by simp, rfl⟩

theorem fcvtDWu (rm : BitVec 3) (fd rs1 : Reg) : Statement (.fcvtDWu rm fd rs1) := show _ ∧ _ from ⟨by simp, rfl⟩

theorem fcvtSD (rm : BitVec 3) (fd fs1 : Reg) : Statement (.fcvtSD rm fd fs1) := show _ ∧ _ from ⟨by simp, rfl⟩

theorem fcvtWD (rm : BitVec 3) (rd fs1 : Reg) : Statement (.fcvtWD rm rd fs1) := show _ ∧ _ from ⟨by simp, rfl⟩

theorem fcvtWuD (rm : BitVec 3) (rd fs1 : Reg) : Statement (.fcvtWuD rm rd fs1) := show _ ∧ _ from ⟨by simp, rfl⟩

theorem fld (fd rs1 : Reg) (imm : BitVec 12) : Statement (.fld fd rs1 imm) := show _ ∧ _ from ⟨by simp, rfl⟩

theorem fsd (fs2 rs1 : Reg) (imm : BitVec 12) : Statement (.fsd fs2 rs1 imm) := show _ ∧ _ from ⟨by simp, rfl⟩

theorem cAddi4spn (rd : CReg) (nzuimm : BitVec 8) : Statement (.cAddi4spn rd nzuimm) := show _ ∧ _ from ⟨by simp, rfl⟩

theorem cLw (rd rs1 : CReg) (uimm : BitVec 5) : Statement (.cLw rd rs1 uimm) := show _ ∧ _ from ⟨by simp, rfl⟩

theorem cSw (rs2 rs1 : CReg) (uimm : BitVec 5) : Statement (.cSw rs2 rs1 uimm) := show _ ∧ _ from ⟨by simp, rfl⟩

theorem cNop : Statement .cNop := show _ ∧ _ from ⟨by decide, rfl⟩

theorem cAddi (rd : Reg) (imm : BitVec 6) : Statement (.cAddi rd imm) := show _ ∧ _ from ⟨by simp, rfl⟩

theorem cJal (imm : BitVec 11) : Statement (.cJal imm) := show _ ∧ _ from ⟨by simp, rfl⟩

theorem cLi (rd : Reg) (imm : BitVec 6) : Statement (.cLi rd imm) := show _ ∧ _ from ⟨by simp, rfl⟩

theorem cAddi16sp (nzimm : BitVec 6) : Statement (.cAddi16sp nzimm) := show _ ∧ _ from ⟨by simp, rfl⟩

theorem cLui (rd : Reg) (nzimm : BitVec 6) : Statement (.cLui rd nzimm) := show _ ∧ _ from ⟨by simp, rfl⟩

theorem cSrli (rd : CReg) (shamt : BitVec 5) : Statement (.cSrli rd shamt) := show _ ∧ _ from ⟨by simp, rfl⟩

theorem cSrai (rd : CReg) (shamt : BitVec 5) : Statement (.cSrai rd shamt) := show _ ∧ _ from ⟨by simp, rfl⟩

theorem cAndi (rd : CReg) (imm : BitVec 6) : Statement (.cAndi rd imm) := show _ ∧ _ from ⟨by simp, rfl⟩

theorem cSub (rd rs2 : CReg) : Statement (.cSub rd rs2) := show _ ∧ _ from ⟨by simp, rfl⟩

theorem cXor (rd rs2 : CReg) : Statement (.cXor rd rs2) := show _ ∧ _ from ⟨by simp, rfl⟩

theorem cOr (rd rs2 : CReg) : Statement (.cOr rd rs2) := show _ ∧ _ from ⟨by simp, rfl⟩

theorem cAnd (rd rs2 : CReg) : Statement (.cAnd rd rs2) := show _ ∧ _ from ⟨by simp, rfl⟩

theorem cJ (imm : BitVec 11) : Statement (.cJ imm) := show _ ∧ _ from ⟨by simp, rfl⟩

theorem cBeqz (rs1 : CReg) (imm : BitVec 8) : Statement (.cBeqz rs1 imm) := show _ ∧ _ from ⟨by simp, rfl⟩

theorem cBnez (rs1 : CReg) (imm : BitVec 8) : Statement (.cBnez rs1 imm) := show _ ∧ _ from ⟨by simp, rfl⟩

theorem cSlli (rd : Reg) (shamt : BitVec 5) : Statement (.cSlli rd shamt) := show _ ∧ _ from ⟨by simp, rfl⟩

theorem cLwsp (rd : Reg) (uimm : BitVec 6) : Statement (.cLwsp rd uimm) := show _ ∧ _ from ⟨by simp, rfl⟩

theorem cJr (rs1 : Reg) : Statement (.cJr rs1) := show _ ∧ _ from ⟨by simp, rfl⟩

theorem cMv (rd rs2 : Reg) : Statement (.cMv rd rs2) := show _ ∧ _ from ⟨by simp, rfl⟩

theorem cEbreak : Statement .cEbreak := show _ ∧ _ from ⟨by decide, rfl⟩

theorem cJalr (rs1 : Reg) : Statement (.cJalr rs1) := show _ ∧ _ from ⟨by simp, rfl⟩

theorem cAdd (rd rs2 : Reg) : Statement (.cAdd rd rs2) := show _ ∧ _ from ⟨by simp, rfl⟩

theorem cSwsp (rs2 : Reg) (uimm : BitVec 6) : Statement (.cSwsp rs2 uimm) := show _ ∧ _ from ⟨by simp, rfl⟩

theorem dcacheCall : Statement .dcacheCall := show _ ∧ _ from ⟨by decide, rfl⟩

theorem dcacheIall : Statement .dcacheIall := show _ ∧ _ from ⟨by decide, rfl⟩

theorem dcacheCiall : Statement .dcacheCiall := show _ ∧ _ from ⟨by decide, rfl⟩

theorem icacheIall : Statement .icacheIall := show _ ∧ _ from ⟨by decide, rfl⟩

theorem sync : Statement .sync := show _ ∧ _ from ⟨by decide, rfl⟩

theorem syncI : Statement .syncI := show _ ∧ _ from ⟨by decide, rfl⟩

theorem dcacheCsw (rs1 : Reg) : Statement (.dcacheCsw rs1) := show _ ∧ _ from ⟨by simp, rfl⟩

theorem dcacheIsw (rs1 : Reg) : Statement (.dcacheIsw rs1) := show _ ∧ _ from ⟨by simp, rfl⟩

theorem dcacheCisw (rs1 : Reg) : Statement (.dcacheCisw rs1) := show _ ∧ _ from ⟨by simp, rfl⟩

theorem dcacheCpa (rs1 : Reg) : Statement (.dcacheCpa rs1) := show _ ∧ _ from ⟨by simp, rfl⟩

theorem dcacheIpa (rs1 : Reg) : Statement (.dcacheIpa rs1) := show _ ∧ _ from ⟨by simp, rfl⟩

theorem dcacheCipa (rs1 : Reg) : Statement (.dcacheCipa rs1) := show _ ∧ _ from ⟨by simp, rfl⟩

theorem icacheIpa (rs1 : Reg) : Statement (.icacheIpa rs1) := show _ ∧ _ from ⟨by simp, rfl⟩

end Sys2Proof.Laws.Length
end

