-- ==== Sys2Proof/Laws/Statements.lean ====
section
/-! SUPPORT. The shared operations in the terms of Sys2Proof/Safety.lean: what statements about instructions cite. -/

namespace Sys2Proof.Machine

open Sys2Proof.Config

/-! ## The step -/

/-- A step that is neither a reset nor held runs the boundary on the awake state. -/
theorem step_eq_boundary {s u v : State} (hp : s.params.wf = true) (hu : u = s.sample) (hv : v = { u with asleep := false })
    (hr : u.pins.reset = false) (hl : u.lockedUp = false) (hw : u.asleep = true → u.wakes = true) :
    step s = v.boundary := by
  have e : (u.asleep && !u.wakes) = false := by
    cases ha : u.asleep
    · rfl
    · simp [hw ha]
  unfold step State.cycle State.afterSample
  rw [if_pos hp, ← hu, if_neg (by simp [hr]), if_neg (by simp [hl]), if_neg (by simp [e]), hv]

/-- A boundary where nothing of higher rank happens fetches and executes. -/
theorem boundary_eq_fetchExecute {s : State} (hn : s.takesNmi = false) (hi : s.takenInterrupt = none)
    (hb : s.reportedBusError = none) : s.boundary = s.fetchExecute := by
  simp [State.boundary, hn, hi, hb]

/-- Fetched bits that decode are executed. -/
theorem fetchExecute_ok {s : State} {c : Code} {i : Instr} (hf : s.fetchCode s.priv s.pc = .ok c)
    (hd : decodeCode c = .ok i) : s.fetchExecute = exec i s := by
  simp [State.fetchExecute, hf, State.executeCode, hd]

/-- The halfword at an address is its two bytes, the low one first. -/
theorem readHalf_eq (m : Memory) (a : Word) : m.readHalf a = m.read (a + 1).toNat ++ m.read a.toNat := by
  simp only [Memory.readHalf, Memory.readLE]
  generalize m.read (a + 1).toNat = x
  generalize m.read a.toNat = y
  apply BitVec.eq_of_getLsbD_eq
  intro k hk
  rw [BitVec.getLsbD_append]
  by_cases h : k < 8
  · simp [h, hk]
  · simp [h, hk, BitVec.getLsbD_of_ge y k (by omega)]

/-! ## Exceptions -/

/-- The handler's address is MTVEC with its low six bits cleared (rule R571). -/
theorem handler_eq (s : State) : s.handler = s.readCsr .mtvec &&& 0xFFFFFFC0 := by
  simp only [State.handler, State.readCsr]
  generalize s.mtvecBase = b
  apply BitVec.eq_of_getLsbD_eq
  intro k hk
  rw [BitVec.getLsbD_append, BitVec.getLsbD_and, BitVec.getLsbD_append, BitVec.getLsbD_extractLsb']
  by_cases h : k < 6
  · interval_cases k <;> simp
  · have e : 4 + (k - 6) = k - 2 := by omega
    have m : (0xFFFFFFC0 : Word).getLsbD k = true := by
      have : 6 ≤ k := by omega
      interval_cases k <;> rfl
    rw [m]
    simp [h, show ¬ k < 2 by omega, e, show k - 6 < 26 by omega]

/-- MINSTRET after a trapping instruction. -/
theorem countTrap_minstret (s : State) : s.countTrap.minstret = s.minstret ∨ s.countTrap.minstret = s.minstret + 1 := by
  unfold State.countTrap; simp only; split <;> simp

/-- Every exception but ECALL and EBREAK enters the handler or locks the core up (rules R570, R590). -/
theorem raise_trapped (s : State) (c : Cause) (info : Word) (b : Bool) (hc : c.neverLocks = false) :
    ∃ t, s.raise c info b = .next t ∧ s.trapped t c.code info := by
  refine ⟨_, raise_eq _ _ _ _, ?_⟩
  unfold State.trapped
  rcases takeException_cases s.countTrap c s.pc info b with ⟨h, _, e⟩ | ⟨h, e⟩
  · have h : s.mexstatus.exptVld = true ∨ s.mexstatus.nmi = true := h
    rw [if_pos h, e]
    exact ⟨rfl, rfl, rfl, countTrap_minstret s, rfl⟩
  · have h : s.mexstatus.exptVld = false ∧ s.mexstatus.nmi = false := by simpa [hc] using h
    rw [if_neg (by simp [h]), e]
    exact ⟨rfl, rfl, rfl, rfl, rfl, rfl, handler_eq s, countTrap_minstret s, rfl⟩

/-- ECALL and EBREAK enter the handler whatever is being handled (rules R570, R590). -/
theorem raise_inHandler (s : State) (c : Cause) (info : Word) (b : Bool) (hc : c.neverLocks = true) :
    ∃ t, s.raise c info b = .next t ∧ s.inHandler t c.code s.pc info := by
  refine ⟨_, raise_eq _ _ _ _, ?_⟩
  rcases takeException_cases s.countTrap c s.pc info b with ⟨_, h, _⟩ | ⟨_, e⟩
  · simp [hc] at h
  · rw [e]
    exact ⟨rfl, rfl, rfl, rfl, rfl, rfl, handler_eq s, countTrap_minstret s, rfl⟩

/-- An illegal instruction traps with its own bits. -/
theorem illegal_trapped (s : State) (i : Instr) :
    ∃ t, s.illegal i = .next t ∧ s.trapped t 2 (encode i).value :=
  raise_trapped s .illegalInstruction _ false rfl

/-! ## Results -/

/-- An integer result. -/
theorem writeRd_gaveX (s : State) (rd : Reg) (v len : Word) :
    ∃ t, s.writeRd rd v len = .next t ∧ s.gaveX t rd v len := by
  refine ⟨_, writeRd_eq _ _ _ _, fun r => ?_, ⟨by simp [State.advance, State.goto], ?_⟩, fun a => ?_, ?_⟩
  · rw [show ((s.setX rd v).advance len).readX r = (s.setX rd v).readX r from rfl, readX_setX]
  · show (s.setX rd v).retired = _
    simp [State.retired, State.counting, State.gated]
  · simp [State.advance, State.goto]
  · obtain ⟨x, hx⟩ := setX_frame s rd v
    rw [hx]; rfl

/-! ## Floating-point results -/

/-- A register and its flags. -/
theorem setF_raise_gaveF (s : State) (fd : Reg) (v : Dword) (fl : BitVec 5) :
    s.gaveF (((s.setF fd v).raiseFlags fl).advance 4) fd v fl := by
  unfold State.raiseFlags
  by_cases h : fl = 0
  · subst h
    refine ⟨fun r => readF_setF s fd r v, ⟨rfl, rfl⟩, fun _ => rfl, ?_, rfl, rfl⟩
    simp [State.advance, State.goto, State.setF, State.fsDirty]
  · rw [if_neg h]
    exact ⟨fun r => readF_setF s fd r v, ⟨rfl, rfl⟩, fun _ => rfl, rfl, rfl, rfl⟩

/-- A single-precision result. -/
theorem putS_gaveF (s : State) (fd : Reg) (r : FpResult) :
    ∃ t, s.putS fd r = .next t ∧ s.gaveF t fd (boxed s.params (BitVec.ofNat 32 r.bits)) r.flags :=
  ⟨_, rfl, setF_raise_gaveF s fd _ _⟩

/-- A double-precision result. -/
theorem putD_gaveF (s : State) (fd : Reg) (r : FpResult) :
    ∃ t, s.putD fd r = .next t ∧ s.gaveF t fd (BitVec.ofNat 64 r.bits) r.flags :=
  ⟨_, rfl, setF_raise_gaveF s fd _ _⟩

/-- An integer result with flags. -/
theorem putX_gaveXF (s : State) (rd : Reg) (v : Word) (fl : BitVec 5) :
    ∃ t, s.putX rd v fl = .next t ∧ s.gaveXF t rd v fl := by
  refine ⟨_, rfl, ?_⟩
  obtain ⟨x, hx⟩ := setX_frame s rd v
  have hr : ∀ r, (s.setX rd v).readX r = if r = 0 then 0 else if r = rd then v else s.readX r :=
    fun r => readX_setX s rd r v
  rw [hx] at hr ⊢
  unfold State.raiseFlags
  by_cases h : fl = 0
  · subst h
    refine ⟨hr, ⟨rfl, rfl⟩, fun _ => rfl, ?_, rfl, rfl⟩
    simp [State.advance, State.goto]
  · rw [if_neg h]
    refine ⟨hr, ⟨rfl, rfl⟩, fun _ => rfl, rfl, ?_, rfl⟩
    rw [if_neg h]; rfl

/-- An instruction with a rounding mode, enabled. -/
theorem fpRounded_on {s : State} {i : Instr} {rm : BitVec 3} {m : Rounding} {k : Rounding → Result}
    (h : s.rounding rm = some m) : s.fpRounded true i rm k = k m := by simp [State.fpRounded, State.fp, h]

/-- The single-precision unit is enabled. -/
theorem fpEnabled_on {s : State} (h : s.params.fpu ≠ .none) (h' : s.mstatus.fs ≠ 0) : s.fpEnabled = true := by
  have h' : ¬ s.mstatus.fs = 0#2 := h'
  simp [State.fpEnabled, h, h']

/-- The double-precision unit is enabled. -/
theorem fpEnabledD_on {s : State} (h : s.params.fpu = .double) (h' : s.mstatus.fs ≠ 0) : s.fpEnabledD = true := by
  have h' : ¬ s.mstatus.fs = 0#2 := h'
  simp [State.fpEnabledD, h, h']

/-! ## Accesses -/

/-- A plain access passes the checks. -/
theorem plainAccess_checks {s : State} {k : Access} {a : Word} {n : Nat} (h : s.plainAccess k a n) (hn : n ≠ 8) :
    misaligned a n = false ∧ s.trapsMisaligned k a n = false ∧ s.checkAccess k a n = .ok := by
  obtain ⟨h1, h2, h3, h4⟩ := h
  have m : misaligned a n = false := by simp [misaligned, h1]
  refine ⟨m, by simp [State.trapsMisaligned, m], ?_⟩
  refine checkAccess_ok_iff.mpr fun p hp => ?_
  rw [pieces, if_neg (by simp [m]), if_neg hn, List.mem_singleton] at hp
  simp [hp, m, State.checkPieceOf, State.checkPiece, h2, h3, h4]

/-- An aligned access whose first piece the PMP denies. -/
theorem denied_checks {s : State} {k : Access} {a : Word} {n : Nat} (h : a.toNat % n = 0)
    (hp : s.pmpAllows k.perm s.dataPriv a = false) :
    misaligned a n = false ∧ s.trapsMisaligned k a n = false ∧ s.checkAccess k a n = .denied a ∧
      s.earlierError k a n = none := by
  have m : misaligned a n = false := by simp [misaligned, h]
  refine ⟨m, by simp [State.trapsMisaligned, m], ?_⟩
  obtain ⟨l, e⟩ : ∃ l, s.checkPieces k a n = [] ++ .denied a :: l := by
    unfold State.checkPieces pieces
    rw [if_neg (by simp [m])]
    split <;> simp [State.checkPieceOf, m, State.checkPiece, hp]
  exact checkAccess_ends e (by simp) rfl

/-- A value with a byte before it. -/
theorem shiftLeft_or_byte {x : Nat} (hx : x < 2 ^ 56) (b : Byte) :
    (BitVec.ofNat 64 x) <<< 8 ||| b.setWidth 64 = BitVec.ofNat 64 (b.toNat + 256 * x) := by
  have hb := b.isLt
  apply BitVec.eq_of_toNat_eq
  simp only [BitVec.toNat_or, BitVec.toNat_shiftLeft, BitVec.toNat_setWidth, BitVec.toNat_ofNat]
  rw [Nat.shiftLeft_eq, Nat.mod_eq_of_lt (show x < 2 ^ 64 by omega), Nat.mod_eq_of_lt (by omega),
    Nat.mod_eq_of_lt (show b.toNat < 2 ^ 64 by omega), ← Nat.shiftLeft_eq, ← Nat.shiftLeft_add_eq_or_of_lt hb, Nat.shiftLeft_eq]
  omega

/-- The range of a sum of bytes. -/
theorem bytesOf_lt (g : Word → Byte) (a : Word) (n : Nat) : bytesOf g a n < 2 ^ (8 * n) := by
  induction n generalizing a with
  | zero => simp [bytesOf]
  | succ n ih =>
    have := ih (a + 1)
    have hb := (g a).isLt
    simp only [bytesOf]
    have : 2 ^ (8 * (n + 1)) = 2 ^ (8 * n) * 256 := by rw [Nat.mul_add, pow_add]; rfl
    omega

/-- The range of a sum of at most seven bytes. -/
theorem bytesOf_lt_56 (g : Word → Byte) (a : Word) {n : Nat} (hn : n ≤ 7) : bytesOf g a n < 2 ^ 56 :=
  lt_of_lt_of_le (bytesOf_lt g a n) (Nat.pow_le_pow_right (by norm_num) (by omega))

/-- Little-endian values are sums of bytes. -/
theorem readLE_bytesOf (m : Memory) (a : Word) (n : Nat) (hn : n ≤ 8) :
    m.readLE a n = BitVec.ofNat 64 (bytesOf (fun c => m.read c.toNat) a n) := by
  induction n generalizing a with
  | zero => rfl
  | succ n ih => rw [Memory.readLE, ih _ (by omega), shiftLeft_or_byte (bytesOf_lt_56 _ _ (by omega))]; rfl

/-- A load that is split into bytes is the sum of the bytes that its transfers read. -/
theorem readPieces_bytes (s : State) (a : Word) (n : Nat) (hn : n ≤ 8) :
    s.readPieces ((List.range n).map fun i => (a + BitVec.ofNat 32 i, 1)) =
      BitVec.ofNat 64 (bytesOf (fun c => (s.view c).read c.toNat) a n) := by
  induction n generalizing a with
  | zero => rfl
  | succ n ih =>
    have e : (List.range (n + 1)).map (fun i => (a + BitVec.ofNat 32 i, 1)) =
        (a, 1) :: (List.range n).map fun i => (a + 1 + BitVec.ofNat 32 i, 1) := by
      rw [List.range_succ_eq_map, List.map_cons, List.map_map]
      congr 1
      · simp
      · refine List.map_congr_left fun i _ => ?_
        show (a + BitVec.ofNat 32 (i + 1), 1) = _
        rw [BitVec.ofNat_add, BitVec.add_comm (BitVec.ofNat 32 i), ← BitVec.add_assoc]; rfl
    rw [e, State.readPieces, ih _ (by omega)]
    simp only [Memory.readLE]
    have z : (0 : Dword) <<< 8 ||| ((s.view a).read a.toNat).setWidth 64 = ((s.view a).read a.toNat).setWidth 64 := by simp
    rw [z, shiftLeft_or_byte (bytesOf_lt_56 _ _ (by omega))]; rfl

/-- What a load of one bus transfer reads. -/
theorem loadValue_found {s : State} (hw : s.mem.wf = true) {k : Access} {a : Word} {n : Nat} (h : s.plainAccess k a n)
    (h0 : 0 < n) (hn : n ≤ 4) :
    ∃ g, s.mayFind (touches a n) g ∧ s.loadValue a n = BitVec.ofNat 64 (bytesOf g a n) := by
  obtain ⟨h1, _⟩ := plainAccess_checks h (by omega)
  exact ⟨_, mayFind_view hw a h0, by rw [loadValue_memory s h.2.1 h1 (by omega), readLE_bytesOf _ _ _ (by omega)]⟩

/-- What a load of two bus transfers reads. -/
theorem loadValue_found_double {s : State} (hw : s.mem.wf = true) {a : Word} (ha : inTcip a = false) (h8 : a.toNat % 8 = 0) :
    ∃ g h, s.mayFind (touches a 4) g ∧ s.mayFind (touches (a + 4) 4) h ∧
      s.loadValue a 8 = BitVec.ofNat 32 (bytesOf h (a + 4) 4) ++ BitVec.ofNat 32 (bytesOf g a 4) := by
  refine ⟨_, _, mayFind_view hw a (n := 4) (by omega), mayFind_view hw (a + 4) (n := 4) (by omega), ?_⟩
  rw [loadValue_double s ha (by simp [misaligned, h8]), readLE_bytesOf _ _ _ (by omega), readLE_bytesOf _ _ _ (by omega)]
  have lo := bytesOf_lt (fun c => (s.view a).read c.toNat) a 4
  have hi := bytesOf_lt (fun c => (s.view (a + 4)).read c.toNat) (a + 4) 4
  generalize bytesOf _ a 4 = x at lo
  generalize bytesOf _ (a + 4) 4 = y at hi
  apply BitVec.eq_of_toNat_eq
  rw [BitVec.toNat_append]
  simp only [BitVec.toNat_or, BitVec.toNat_shiftLeft, BitVec.toNat_ofNat]
  rw [Nat.mod_eq_of_lt (show x < 2 ^ 64 by omega), Nat.mod_eq_of_lt (show y < 2 ^ 64 by omega),
    Nat.mod_eq_of_lt (show x < 2 ^ 32 by omega), Nat.mod_eq_of_lt (show y < 2 ^ 32 by omega),
    Nat.mod_eq_of_lt (show y <<< 32 < 2 ^ 64 by rw [Nat.shiftLeft_eq]; omega)]

/-- What a load that is split into bytes reads. -/
theorem loadValue_found_split {s : State} (hw : s.mem.wf = true) {a : Word} (ha : inTcip a = false) {n : Nat}
    (hm : misaligned a n = true) (hn : n ≤ 8) :
    ∃ g, (∀ c, ∃ h, s.mayFind (touches c 1) h ∧ g c = h c) ∧ s.loadValue a n = BitVec.ofNat 64 (bytesOf g a n) := by
  refine ⟨_, fun c => ⟨_, mayFind_view hw c (n := 1) (by omega), rfl⟩, ?_⟩
  rw [loadValue_pieces s ha, pieces, if_pos hm, readPieces_bytes s a n hn]

/-- An integer load that passes the checks. -/
theorem load_gaveX_of_checks {s : State} {rd : Reg} {a : Word} {n : Nat} {ext : Dword → Dword} {len : Word}
    (h2 : s.trapsMisaligned .load a n = false) (h3 : s.checkAccess .load a n = .ok) :
    ∃ t, s.load (.int rd) a n ext len = .next t ∧ s.gaveX t rd ((ext (s.loadValue a n)).setWidth 32) len := by
  have : s.load (.int rd) a n ext len = s.writeRd rd ((ext (s.loadValue a n)).setWidth 32) len := by
    unfold State.load
    rw [if_neg (by simp [h2]), h3]
    rfl
  rw [this]; exact writeRd_gaveX s rd _ len

/-- A plain integer load. -/
theorem load_gaveX {s : State} (hw : s.mem.wf = true) {rd : Reg} {a : Word} {n : Nat} {ext : Dword → Dword} {len : Word}
    {v : (Word → Byte) → Word} (h : s.plainAccess .load a n) (h0 : 0 < n) (hn : n ≤ 4)
    (hv : ∀ g, (ext (BitVec.ofNat 64 (bytesOf g a n))).setWidth 32 = v g) :
    ∃ t g, s.mayFind (touches a n) g ∧ s.load (.int rd) a n ext len = .next t ∧ s.gaveX t rd (v g) len := by
  obtain ⟨_, h2, h3⟩ := plainAccess_checks h (by omega)
  obtain ⟨g, hg, e⟩ := loadValue_found hw h h0 hn
  obtain ⟨t, ht, hx⟩ := load_gaveX_of_checks (rd := rd) (ext := ext) (len := len) h2 h3
  exact ⟨t, g, hg, ht, by rw [e, hv] at hx; exact hx⟩

/-- A floating-point load that passes the checks. -/
theorem load_gaveF {s : State} {fd : Reg} {a : Word} {n : Nat} {ext : Dword → Dword} {v w : Dword}
    (h2 : s.trapsMisaligned .load a n = false) (h3 : s.checkAccess .load a n = .ok) (hw : s.loadValue a n = w)
    (hv : (if s.params.fpu = .double then ext w else ((ext w).setWidth 32).setWidth 64) = v) :
    ∃ t, s.load (.float fd) a n ext 4 = .next t ∧ s.gaveF t fd v 0 := by
  unfold State.load
  rw [if_neg (by simp [h2]), h3]
  refine ⟨_, rfl, ?_⟩
  simp only [State.deliver, hw, hv]
  exact setF_raise_gaveF s fd v 0

/-- A store to memory that passes the checks. -/
theorem store_stored_of_checks {s : State} (hw : s.mem.wf = true) {a : Word} {n : Nat} {v : Dword} {len : Word}
    (hn : n = 1 ∨ n = 2 ∨ n = 4 ∨ n = 8) (ha : inTcip a = false) (h2 : s.trapsMisaligned .store a n = false)
    (h3 : s.checkAccess .store a n = .ok) :
    ∃ t, s.store a n v len = .next t ∧ s.stored t a n v len := by
  unfold State.store
  rw [if_neg (by simp [h2]), h3]
  refine ⟨_, rfl, ?_⟩
  obtain ⟨m, st, d, k, e⟩ := storePieces_frame a v (pieces a n) s
  obtain ⟨g, hg, hr⟩ := storeValue_wrote hw ha hn v
  rw [storeValue_pieces s ha, e] at hr ⊢
  exact ⟨⟨g, hg, hr⟩, ⟨rfl, rfl⟩, rfl, rfl⟩

/-- A plain store. -/
theorem store_stored {s : State} (hw : s.mem.wf = true) {a : Word} {n : Nat} {v : Dword} {len : Word}
    (h : s.plainAccess .store a n) (hn : n = 1 ∨ n = 2 ∨ n = 4) : ∃ t, s.store a n v len = .next t ∧ s.stored t a n v len := by
  obtain ⟨_, h2, h3⟩ := plainAccess_checks h (by omega)
  exact store_stored_of_checks hw (by omega) h.2.1 h2 h3

/-- A misaligned load with MM = 0. -/
theorem load_misaligned {s : State} {d : Dest} {a : Word} {n : Nat} {ext : Dword → Dword} {len : Word}
    (h : a.toNat % n ≠ 0) (hm : s.mxstatus.mm = false) : ∃ t, s.load d a n ext len = .next t ∧ s.trapped t 4 a := by
  unfold State.load; rw [if_pos (by simp [State.trapsMisaligned, misaligned, h, hm])]
  exact raise_trapped s .loadAddrMisaligned a false rfl

/-- A misaligned store with MM = 0. -/
theorem store_misaligned {s : State} {a : Word} {n : Nat} {v : Dword} {len : Word} (h : a.toNat % n ≠ 0)
    (hm : s.mxstatus.mm = false) : ∃ t, s.store a n v len = .next t ∧ s.trapped t 6 a := by
  unfold State.store; rw [if_pos (by simp [State.trapsMisaligned, misaligned, h, hm])]
  exact raise_trapped s .storeAddrMisaligned a false rfl

/-- An aligned load that the PMP denies. -/
theorem load_denied {s : State} {d : Dest} {a : Word} {n : Nat} {ext : Dword → Dword} {len : Word}
    (h : a.toNat % n = 0) (hp : s.pmpAllows .read s.dataPriv a = false) :
    ∃ t, s.load d a n ext len = .next t ∧ s.trapped t 5 a := by
  obtain ⟨_, h2, h3, h4⟩ := denied_checks (k := .load) h hp
  unfold State.load; rw [if_neg (by simp [h2]), h3, h4]
  exact raise_trapped s .loadAccessFault a false rfl

/-! ## Operand forms -/

/-- A 12-bit immediate as an integer. -/
theorem imm12Value_eq (imm : BitVec 12) : imm12Value imm = BitVec.ofInt 32 imm.toInt := rfl

/-- The address of a load or store. -/
theorem address_eq (s : State) (rs1 : Reg) (imm : BitVec 12) :
    s.address rs1 imm = s.readX rs1 + BitVec.ofInt 32 imm.toInt := rfl

/-- The registers of the compressed forms. -/
theorem wideReg_eq (d : CReg) : wideReg d = BitVec.ofNat 5 (8 + d.toNat) := by revert d; decide

/-- The offset of C.LW and C.SW. -/
theorem cWordOffset_eq (u : BitVec 5) : cWordOffset u = BitVec.ofNat 32 (4 * u.toNat) := by revert u; decide

/-- The offset of C.LWSP and C.SWSP. -/
theorem cSpOffset_eq (u : BitVec 6) : cSpOffset u = BitVec.ofNat 32 (4 * u.toNat) := by revert u; decide

end Sys2Proof.Machine
end

