-- ==== Sys2Proof/Tests/Slice0.lean ====
section
/-! SUPPORT. Tests: the well-formedness checks, the decoding of words written in the spec, single steps of its test vectors
(spec/95_test_vectors.md, whose row is named), and a witness for every statement that has hypotheses. -/

namespace Sys2Proof.Tests

set_option Elab.async false

open Sys2Proof.Machine Sys2Proof.Config

/-! ## Well-formedness: each check refuses an ill-formed term (rules R482, R223, R487, R488, R499) -/

theorem test_wf_cAddi4spn_zero : (Instr.cAddi4spn 0 0).wf = false := by decide
theorem test_wf_cAddi_x0_zero : (Instr.cAddi 0 0).wf = false := by decide
theorem test_wf_cAddi16sp_zero : (Instr.cAddi16sp 0).wf = false := by decide
theorem test_wf_cLui_x2 : (Instr.cLui 2 1).wf = false := by decide
theorem test_wf_cLui_zero : (Instr.cLui 5 0).wf = false := by decide
theorem test_wf_cLui_hint : (Instr.cLui 0 0).wf = true := by decide
theorem test_wf_cLwsp_x0 : (Instr.cLwsp 0 1).wf = false := by decide
theorem test_wf_cJr_x0 : (Instr.cJr 0).wf = false := by decide
theorem test_wf_cJalr_x0 : (Instr.cJalr 0).wf = false := by decide
theorem test_wf_cMv_x0 : (Instr.cMv 5 0).wf = false := by decide
theorem test_wf_cAdd_x0 : (Instr.cAdd 5 0).wf = false := by decide

/-! ## Decoding: words that the spec prints, with the assembler text beside them -/

/-- RV32I instructions, part 1. -/
theorem test_decode_i1 :
    decodeWord 0x002081B3 = .ok (.add 3 1 2) ∧ -- add x3, x1, x2
    decodeWord 0x00D50533 = .ok (.add 10 10 13) ∧ -- add x10,x10,x13
    decodeWord 0xFFF00293 = .ok (.addi 5 0 (-1)) ∧ -- addi x5, x0, -1
    decodeWord 0x00158593 = .ok (.addi 11 11 1) ∧ -- addi x11,x11,1
    decodeWord 0x402081B3 = .ok (.sub 3 1 2) ∧ -- sub x3, x1, x2
    decodeWord 0x407302B3 = .ok (.sub 5 6 7) ∧ -- sub x5,x6,x7
    decodeWord 0x0020F1B3 = .ok (.and 3 1 2) ∧ -- and x3, x1, x2
    decodeWord 0x007372B3 = .ok (.and 5 6 7) ∧ -- and x5,x6,x7
    decodeWord 0x01037293 = .ok (.andi 5 6 16) ∧ -- andi x5, x6, 0x10
    decodeWord 0x0FF37293 = .ok (.andi 5 6 255) ∧ -- andi x5,x6,0xff
    decodeWord 0x0020E1B3 = .ok (.or 3 1 2) ∧ -- or x3, x1, x2
    decodeWord 0x007362B3 = .ok (.or 5 6 7) ∧ -- or x5,x6,x7
    decodeWord 0x7FF06293 = .ok (.ori 5 0 2047) ∧ -- ori x5, x0, 0x7FF
    decodeWord 0xF0036293 = .ok (.ori 5 6 (-256)) ∧ -- ori x5,x6,-256
    decodeWord 0x0020C1B3 = .ok (.xor 3 1 2) ∧ -- xor x3, x1, x2
    decodeWord 0x007342B3 = .ok (.xor 5 6 7) ∧ -- xor x5,x6,x7
    decodeWord 0xFFF34293 = .ok (.xori 5 6 (-1)) ∧ -- xori x5, x6, -1
    decodeWord 0x002091B3 = .ok (.sll 3 1 2) ∧ -- sll x3, x1, x2
    decodeWord 0x007312B3 = .ok (.sll 5 6 7) ∧ -- sll x5,x6,x7
    decodeWord 0x00229293 = .ok (.slli 5 5 2) ∧ -- slli x5, x5, 2
    decodeWord 0x01F31293 = .ok (.slli 5 6 31) ∧ -- slli x5,x6,31
    decodeWord 0x0020D1B3 = .ok (.srl 3 1 2) ∧ -- srl x3, x1, x2
    decodeWord 0x007352B3 = .ok (.srl 5 6 7) ∧ -- srl x5,x6,x7
    decodeWord 0x01B2D293 = .ok (.srli 5 5 27) ∧ -- srli x5, x5, 27
    decodeWord 0x00435293 = .ok (.srli 5 6 4) ∧ -- srli x5,x6,4
    decodeWord 0x4020D1B3 = .ok (.sra 3 1 2) ∧ -- sra x3, x1, x2
    decodeWord 0x407352B3 = .ok (.sra 5 6 7) ∧ -- sra x5,x6,x7
    decodeWord 0x41F35293 = .ok (.srai 5 6 31) ∧ -- srai x5, x6, 31
    decodeWord 0x40435293 = .ok (.srai 5 6 4) ∧ -- srai x5,x6,4
    decodeWord 0x0020A1B3 = .ok (.slt 3 1 2) := by -- slt x3, x1, x2
  and_intros <;> rfl

/-- RV32I instructions, part 2. -/
theorem test_decode_i2 :
    decodeWord 0x007322B3 = .ok (.slt 5 6 7) ∧ -- slt x5,x6,x7
    decodeWord 0x0020B1B3 = .ok (.sltu 3 1 2) ∧ -- sltu x3, x1, x2
    decodeWord 0x007032B3 = .ok (.sltu 5 0 7) ∧ -- sltu x5,x0,x7
    decodeWord 0xFFF32293 = .ok (.slti 5 6 (-1)) ∧ -- slti x5, x6, -1
    decodeWord 0x00133293 = .ok (.sltiu 5 6 1) ∧ -- sltiu x5, x6, 1
    decodeWord 0xFFF33293 = .ok (.sltiu 5 6 (-1)) ∧ -- sltiu x5,x6,-1
    decodeWord 0xE08012B7 = .ok (.lui 5 919553) ∧ -- lui x5, 0xE0801
    decodeWord 0x40400337 = .ok (.lui 6 263168) ∧ -- lui x6,0x40400
    decodeWord 0x00001297 = .ok (.auipc 5 1) ∧ -- auipc x5, 1
    decodeWord 0xFFFFF297 = .ok (.auipc 5 1048575) ∧ -- auipc x5,0xfffff
    decodeWord 0x00208463 = .ok (.beq 1 2 4) ∧ -- beq x1, x2, +8
    decodeWord 0x00730463 = .ok (.beq 6 7 4) ∧ -- beq x6,x7,8
    decodeWord 0x80730063 = .ok (.beq 6 7 (-2048)) ∧ -- beq x6,x7,-4096
    decodeWord 0xFE029CE3 = .ok (.bne 5 0 (-4)) ∧ -- bne x5, x0, -8
    decodeWord 0x7E731FE3 = .ok (.bne 6 7 2047) ∧ -- bne x6,x7,4094
    decodeWord 0x0020C863 = .ok (.blt 1 2 8) ∧ -- blt x1, x2, +16
    decodeWord 0x00734463 = .ok (.blt 6 7 4) ∧ -- blt x6,x7,8
    decodeWord 0x0020D863 = .ok (.bge 1 2 8) ∧ -- bge x1, x2, +16
    decodeWord 0x00735463 = .ok (.bge 6 7 4) ∧ -- bge x6,x7,8
    decodeWord 0x0020E863 = .ok (.bltu 1 2 8) ∧ -- bltu x1, x2, +16
    decodeWord 0x00736463 = .ok (.bltu 6 7 4) ∧ -- bltu x6,x7,8
    decodeWord 0x0020F863 = .ok (.bgeu 1 2 8) ∧ -- bgeu x1, x2, +16
    decodeWord 0x00737463 = .ok (.bgeu 6 7 4) ∧ -- bgeu x6,x7,8
    decodeWord 0x001000EF = .ok (.jal 1 1024) ∧ -- jal x1, +2048
    decodeWord 0xFFFFF06F = .ok (.jal 0 (-1)) ∧ -- jal x0,-2
    decodeWord 0x800000EF = .ok (.jal 1 (-524288)) ∧ -- jal x1,-1048576
    decodeWord 0x000300E7 = .ok (.jalr 1 6 0) ∧ -- jalr x1, x6, 0
    decodeWord 0x00008067 = .ok (.jalr 0 1 0) ∧ -- jalr x0,x1,0
    decodeWord 0x00030283 = .ok (.lb 5 6 0) ∧ -- lb x5, 0(x6)
    decodeWord 0x00330283 = .ok (.lb 5 6 3) := by -- lb x5,3(x6)
  and_intros <;> rfl

/-- RV32I instructions, part 3. -/
theorem test_decode_i3 :
    decodeWord 0x00034283 = .ok (.lbu 5 6 0) ∧ -- lbu x5, 0(x6)
    decodeWord 0x00334283 = .ok (.lbu 5 6 3) ∧ -- lbu x5,3(x6)
    decodeWord 0x00231283 = .ok (.lh 5 6 2) ∧ -- lh x5, 2(x6)
    decodeWord 0x00331283 = .ok (.lh 5 6 3) ∧ -- lh x5,3(x6)
    decodeWord 0x00235283 = .ok (.lhu 5 6 2) ∧ -- lhu x5, 2(x6)
    decodeWord 0x0002A303 = .ok (.lw 6 5 0) ∧ -- lw x6, 0(x5)
    decodeWord 0x0005A683 = .ok (.lw 13 11 0) ∧ -- lw x13,0(x11)
    decodeWord 0x007300A3 = .ok (.sb 7 6 1) ∧ -- sb x7, 1(x6)
    decodeWord 0x00731123 = .ok (.sh 7 6 2) ∧ -- sh x7, 2(x6)
    decodeWord 0x0062A023 = .ok (.sw 6 5 0) ∧ -- sw x6, 0(x5)
    decodeWord 0x0074A023 = .ok (.sw 7 9 0) ∧ -- sw x7,0(x9)
    decodeWord 0x305E1073 = .ok (.csrrw 0 28 773) ∧ -- csrrw x0, mtvec, x28
    decodeWord 0x30001073 = .ok (.csrrw 0 0 768) ∧ -- csrrw x0,mstatus,x0
    decodeWord 0x30032073 = .ok (.csrrs 0 6 768) ∧ -- csrrs x0, mstatus, x6
    decodeWord 0x00102673 = .ok (.csrrs 12 0 1) ∧ -- csrrs x12,fflags,x0
    decodeWord 0x30033073 = .ok (.csrrc 0 6 768) ∧ -- csrrc x0, mstatus, x6
    decodeWord 0x340332F3 = .ok (.csrrc 5 6 832) ∧ -- csrrc x5,mscratch,x6
    decodeWord 0x00305073 = .ok (.csrrwi 0 0 3) ∧ -- csrrwi x0, fcsr, 0
    decodeWord 0x340FD2F3 = .ok (.csrrwi 5 31 832) ∧ -- csrrwi x5,mscratch,31
    decodeWord 0x30046073 = .ok (.csrrsi 0 8 768) ∧ -- csrrsi x0, mstatus, 8
    decodeWord 0x3402E2F3 = .ok (.csrrsi 5 5 832) ∧ -- csrrsi x5,mscratch,5
    decodeWord 0x30047073 = .ok (.csrrci 0 8 768) ∧ -- csrrci x0, mstatus, 8
    decodeWord 0x3402F2F3 = .ok (.csrrci 5 5 832) ∧ -- csrrci x5,mscratch,5
    decodeWord 0x10500073 = .ok (.wfi) ∧ -- wfi
    decodeWord 0x30200073 = .ok (.mret) ∧ -- mret
    decodeWord 0x0330000F = .ok (.fence 0 0 0 3 3) ∧ -- fence rw,rw
    decodeWord 0x0000100F = .ok (.fenceI 0 0 0) ∧ -- fence.i
    decodeWord 0x00000073 = .ok (.ecall) ∧ -- ecall
    decodeWord 0x00100073 = .ok (.ebreak) := by -- ebreak
  and_intros <;> rfl

/-- RV32M instructions. -/
theorem test_decode_m1 :
    decodeWord 0x022081B3 = .ok (.mul 3 1 2) ∧ -- mul x3, x1, x2
    decodeWord 0x02B50533 = .ok (.mul 10 10 11) ∧ -- mul x10,x10,x11
    decodeWord 0x022091B3 = .ok (.mulh 3 1 2) ∧ -- mulh x3, x1, x2
    decodeWord 0x0220A1B3 = .ok (.mulhsu 3 1 2) ∧ -- mulhsu x3, x1, x2
    decodeWord 0x0220B1B3 = .ok (.mulhu 3 1 2) ∧ -- mulhu x3, x1, x2
    decodeWord 0x0220C1B3 = .ok (.div 3 1 2) ∧ -- div x3, x1, x2
    decodeWord 0x0220D1B3 = .ok (.divu 3 1 2) ∧ -- divu x3, x1, x2
    decodeWord 0x02C556B3 = .ok (.divu 13 10 12) ∧ -- divu x13,x10,x12
    decodeWord 0x0220E1B3 = .ok (.rem 3 1 2) ∧ -- rem x3, x1, x2
    decodeWord 0x0220F1B3 = .ok (.remu 3 1 2) ∧ -- remu x3, x1, x2
    decodeWord 0x02C57733 = .ok (.remu 14 10 12) := by -- remu x14,x10,x12
  and_intros <;> rfl

/-- RV32A instructions. -/
theorem test_decode_a1 :
    decodeWord 0x0072A32F = .ok (.amoaddW 0 0 6 5 7) ∧ -- amoadd.w x6, x7, (x5)
    decodeWord 0x0073202F = .ok (.amoaddW 0 0 0 6 7) ∧ -- amoadd.w x0,x7,(x6)
    decodeWord 0x6072A32F = .ok (.amoandW 0 0 6 5 7) ∧ -- amoand.w x6, x7, (x5)
    decodeWord 0x607322AF = .ok (.amoandW 0 0 5 6 7) ∧ -- amoand.w x5,x7,(x6)
    decodeWord 0xA072A32F = .ok (.amomaxW 0 0 6 5 7) ∧ -- amomax.w x6, x7, (x5)
    decodeWord 0xA07322AF = .ok (.amomaxW 0 0 5 6 7) ∧ -- amomax.w x5,x7,(x6)
    decodeWord 0xE072A32F = .ok (.amomaxuW 0 0 6 5 7) ∧ -- amomaxu.w x6, x7, (x5)
    decodeWord 0xE07322AF = .ok (.amomaxuW 0 0 5 6 7) ∧ -- amomaxu.w x5,x7,(x6)
    decodeWord 0x8072A32F = .ok (.amominW 0 0 6 5 7) ∧ -- amomin.w x6, x7, (x5)
    decodeWord 0x807322AF = .ok (.amominW 0 0 5 6 7) ∧ -- amomin.w x5,x7,(x6)
    decodeWord 0xC072A32F = .ok (.amominuW 0 0 6 5 7) ∧ -- amominu.w x6, x7, (x5)
    decodeWord 0xC07322AF = .ok (.amominuW 0 0 5 6 7) ∧ -- amominu.w x5,x7,(x6)
    decodeWord 0x4072A32F = .ok (.amoorW 0 0 6 5 7) ∧ -- amoor.w x6, x7, (x5)
    decodeWord 0x407322AF = .ok (.amoorW 0 0 5 6 7) ∧ -- amoor.w x5,x7,(x6)
    decodeWord 0x087322AF = .ok (.amoswapW 0 0 5 6 7) ∧ -- amoswap.w x5, x7, (x6)
    decodeWord 0x0E7322AF = .ok (.amoswapW 1 1 5 6 7) ∧ -- amoswap.w.aqrl x5,x7,(x6)
    decodeWord 0x2072A32F = .ok (.amoxorW 0 0 6 5 7) ∧ -- amoxor.w x6, x7, (x5)
    decodeWord 0x207322AF = .ok (.amoxorW 0 0 5 6 7) ∧ -- amoxor.w x5,x7,(x6)
    decodeWord 0x1872A32F = .ok (.scW 0 0 6 5 7) ∧ -- sc.w x6, x7, (x5)
    decodeWord 0x187E22AF = .ok (.scW 0 0 5 28 7) ∧ -- sc.w x5,x7,(x28)
    decodeWord 0x1002A32F = .ok (.lrW 0 0 6 5) ∧ -- lr.w x6, (x5)
    decodeWord 0x100322AF = .ok (.lrW 0 0 5 6) := by -- lr.w x5,(x6)
  and_intros <;> rfl

/-- RV32F instructions, part 1. -/
theorem test_decode_f1 :
    decodeWord 0x0020F1D3 = .ok (.faddS 7 3 1 2) ∧ -- fadd.s f3, f1, f2
    decodeWord 0x002081D3 = .ok (.faddS 0 3 1 2) ∧ -- fadd.s f3,f1,f2,rne
    decodeWord 0x0820F1D3 = .ok (.fsubS 7 3 1 2) ∧ -- fsub.s f3, f1, f2
    decodeWord 0x1020F1D3 = .ok (.fmulS 7 3 1 2) ∧ -- fmul.s f3, f1, f2
    decodeWord 0x1021F253 = .ok (.fmulS 7 4 3 2) ∧ -- fmul.s f4,f3,f2
    decodeWord 0x1820F1D3 = .ok (.fdivS 7 3 1 2) ∧ -- fdiv.s f3, f1, f2
    decodeWord 0x5800F1D3 = .ok (.fsqrtS 7 3 1) ∧ -- fsqrt.s f3, f1
    decodeWord 0x202081D3 = .ok (.fsgnjS 3 1 2) ∧ -- fsgnj.s f3, f1, f2
    decodeWord 0x202091D3 = .ok (.fsgnjnS 3 1 2) ∧ -- fsgnjn.s f3, f1, f2
    decodeWord 0x2020A1D3 = .ok (.fsgnjxS 3 1 2) ∧ -- fsgnjx.s f3, f1, f2
    decodeWord 0x282081D3 = .ok (.fminS 3 1 2) ∧ -- fmin.s f3, f1, f2
    decodeWord 0x282091D3 = .ok (.fmaxS 3 1 2) ∧ -- fmax.s f3, f1, f2
    decodeWord 0xA020A2D3 = .ok (.feqS 5 1 2) ∧ -- feq.s x5, f1, f2
    decodeWord 0xA01225D3 = .ok (.feqS 11 4 1) ∧ -- feq.s x11,f4,f1
    decodeWord 0xA02092D3 = .ok (.fltS 5 1 2) ∧ -- flt.s x5, f1, f2
    decodeWord 0xA02082D3 = .ok (.fleS 5 1 2) ∧ -- fle.s x5, f1, f2
    decodeWord 0xE00092D3 = .ok (.fclassS 5 1) ∧ -- fclass.s x5, f1
    decodeWord 0x2020F1C3 = .ok (.fmaddS 7 3 1 2 4) ∧ -- fmadd.s f3, f1, f2, f4
    decodeWord 0x1820F243 = .ok (.fmaddS 7 4 1 2 3) ∧ -- fmadd.s f4,f1,f2,f3
    decodeWord 0x2020F1C7 = .ok (.fmsubS 7 3 1 2 4) ∧ -- fmsub.s f3, f1, f2, f4
    decodeWord 0x1820F247 = .ok (.fmsubS 7 4 1 2 3) ∧ -- fmsub.s f4,f1,f2,f3
    decodeWord 0x2020F1CB = .ok (.fnmsubS 7 3 1 2 4) ∧ -- fnmsub.s f3, f1, f2, f4
    decodeWord 0x1820F24B = .ok (.fnmsubS 7 4 1 2 3) ∧ -- fnmsub.s f4,f1,f2,f3
    decodeWord 0x2020F1CF = .ok (.fnmaddS 7 3 1 2 4) ∧ -- fnmadd.s f3, f1, f2, f4
    decodeWord 0x1820F24F = .ok (.fnmaddS 7 4 1 2 3) ∧ -- fnmadd.s f4,f1,f2,f3
    decodeWord 0xD002F1D3 = .ok (.fcvtSW 7 3 5) ∧ -- fcvt.s.w f3, x5
    decodeWord 0xD00370D3 = .ok (.fcvtSW 7 1 6) ∧ -- fcvt.s.w f1,x6 (dyn RM=0)
    decodeWord 0xD012F1D3 = .ok (.fcvtSWu 7 3 5) ∧ -- fcvt.s.wu f3, x5
    decodeWord 0xD01370D3 = .ok (.fcvtSWu 7 1 6) ∧ -- fcvt.s.wu f1,x6
    decodeWord 0xC000F2D3 = .ok (.fcvtWS 7 5 1) := by -- fcvt.w.s x5, f1
  and_intros <;> rfl

/-- RV32F instructions, part 2. -/
theorem test_decode_f2 :
    decodeWord 0xC0019553 = .ok (.fcvtWS 1 10 3) ∧ -- fcvt.w.s x10,f3,rtz
    decodeWord 0xC010F2D3 = .ok (.fcvtWuS 7 5 1) ∧ -- fcvt.wu.s x5, f1
    decodeWord 0xC01092D3 = .ok (.fcvtWuS 1 5 1) ∧ -- fcvt.wu.s x5,f1,rtz
    decodeWord 0xF00281D3 = .ok (.fmvWX 3 5) ∧ -- fmv.w.x f3, x5
    decodeWord 0xF0030153 = .ok (.fmvWX 2 6) ∧ -- fmv.w.x f2,x6
    decodeWord 0xE00082D3 = .ok (.fmvXW 5 1) ∧ -- fmv.x.w x5, f1
    decodeWord 0xE00186D3 = .ok (.fmvXW 13 3) ∧ -- fmv.x.w x13,f3
    decodeWord 0x0082A187 = .ok (.flw 3 5 8) ∧ -- flw f3, 8(x5)
    decodeWord 0x00232087 = .ok (.flw 1 6 2) ∧ -- flw f1,2(x6)
    decodeWord 0x0032A427 = .ok (.fsw 3 5 8) ∧ -- fsw f3, 8(x5)
    decodeWord 0x00132227 = .ok (.fsw 1 6 4) := by -- fsw f1,4(x6)
  and_intros <;> rfl

/-- RV32D instructions, part 1. -/
theorem test_decode_d1 :
    decodeWord 0x0220F1D3 = .ok (.faddD 7 3 1 2) ∧ -- fadd.d f3, f1, f2
    decodeWord 0x022091D3 = .ok (.faddD 1 3 1 2) ∧ -- fadd.d f3, f1, f2, rtz
    decodeWord 0x0A20F1D3 = .ok (.fsubD 7 3 1 2) ∧ -- fsub.d f3, f1, f2
    decodeWord 0x1220F1D3 = .ok (.fmulD 7 3 1 2) ∧ -- fmul.d f3, f1, f2
    decodeWord 0x1A20F1D3 = .ok (.fdivD 7 3 1 2) ∧ -- fdiv.d f3, f1, f2
    decodeWord 0x5A00F1D3 = .ok (.fsqrtD 7 3 1) ∧ -- fsqrt.d f3, f1
    decodeWord 0x222081D3 = .ok (.fsgnjD 3 1 2) ∧ -- fsgnj.d f3, f1, f2
    decodeWord 0x222091D3 = .ok (.fsgnjnD 3 1 2) ∧ -- fsgnjn.d f3, f1, f2
    decodeWord 0x2220A1D3 = .ok (.fsgnjxD 3 1 2) ∧ -- fsgnjx.d f3, f1, f2
    decodeWord 0x2A2081D3 = .ok (.fminD 3 1 2) ∧ -- fmin.d f3, f1, f2
    decodeWord 0x2A2091D3 = .ok (.fmaxD 3 1 2) ∧ -- fmax.d f3, f1, f2
    decodeWord 0xA220A2D3 = .ok (.feqD 5 1 2) ∧ -- feq.d x5, f1, f2
    decodeWord 0xA22092D3 = .ok (.fltD 5 1 2) ∧ -- flt.d x5, f1, f2
    decodeWord 0xA22082D3 = .ok (.fleD 5 1 2) ∧ -- fle.d x5, f1, f2
    decodeWord 0xE20092D3 = .ok (.fclassD 5 1) ∧ -- fclass.d x5, f1
    decodeWord 0x2220F1C3 = .ok (.fmaddD 7 3 1 2 4) ∧ -- fmadd.d f3, f1, f2, f4
    decodeWord 0x1A20F243 = .ok (.fmaddD 7 4 1 2 3) ∧ -- fmadd.d f4,f1,f2,f3
    decodeWord 0x2220F1C7 = .ok (.fmsubD 7 3 1 2 4) ∧ -- fmsub.d f3, f1, f2, f4
    decodeWord 0x2220F1CB = .ok (.fnmsubD 7 3 1 2 4) ∧ -- fnmsub.d f3, f1, f2, f4
    decodeWord 0x2220F1CF = .ok (.fnmaddD 7 3 1 2 4) ∧ -- fnmadd.d f3, f1, f2, f4
    decodeWord 0x420081D3 = .ok (.fcvtDS 0 3 1) ∧ -- fcvt.d.s f3, f1
    decodeWord 0xD20281D3 = .ok (.fcvtDW 0 3 5) ∧ -- fcvt.d.w f3, x5
    decodeWord 0xD20300D3 = .ok (.fcvtDW 0 1 6) ∧ -- fcvt.d.w f1,x6
    decodeWord 0xD21281D3 = .ok (.fcvtDWu 0 3 5) ∧ -- fcvt.d.wu f3, x5
    decodeWord 0xD21300D3 = .ok (.fcvtDWu 0 1 6) ∧ -- fcvt.d.wu f1,x6
    decodeWord 0x4010F1D3 = .ok (.fcvtSD 7 3 1) ∧ -- fcvt.s.d f3, f1
    decodeWord 0xC200F2D3 = .ok (.fcvtWD 7 5 1) ∧ -- fcvt.w.d x5, f1
    decodeWord 0xC20092D3 = .ok (.fcvtWD 1 5 1) ∧ -- fcvt.w.d x5,f1,rtz
    decodeWord 0xC210F2D3 = .ok (.fcvtWuD 7 5 1) ∧ -- fcvt.wu.d x5, f1
    decodeWord 0xC21092D3 = .ok (.fcvtWuD 1 5 1) := by -- fcvt.wu.d x5,f1,rtz
  and_intros <;> rfl

/-- RV32D instructions, part 2. -/
theorem test_decode_d2 :
    decodeWord 0x0082B187 = .ok (.fld 3 5 8) ∧ -- fld f3, 8(x5)
    decodeWord 0x00433087 = .ok (.fld 1 6 4) ∧ -- fld f1,4(x6)
    decodeWord 0x0032B427 = .ok (.fsd 3 5 8) ∧ -- fsd f3, 8(x5)
    decodeWord 0x00133427 = .ok (.fsd 1 6 8) := by -- fsd f1,8(x6)
  and_intros <;> rfl

/-- RVC instructions, part 1. -/
theorem test_decode_c1 :
    decodeHalf 0x0040 = .ok (.cAddi4spn 0 1) ∧ -- c.addi4spn x8,4
    decodeHalf 0x1FFC = .ok (.cAddi4spn 7 255) ∧ -- c.addi4spn x15,1020
    decodeHalf 0x4048 = .ok (.cLw 2 0 1) ∧ -- c.lw x10, 4(x8)
    decodeHalf 0x5FFC = .ok (.cLw 7 7 31) ∧ -- c.lw x15,124(x15)
    decodeHalf 0xC048 = .ok (.cSw 2 0 1) ∧ -- c.sw x10, 4(x8)
    decodeHalf 0x0001 = .ok (.cNop) ∧ -- c.nop
    decodeHalf 0x157D = .ok (.cAddi 10 (-1)) ∧ -- c.addi x10, -1
    decodeHalf 0x15FD = .ok (.cAddi 11 (-1)) ∧ -- c.addi x11,-1
    decodeHalf 0x2019 = .ok (.cJal 3) ∧ -- c.jal +6
    decodeHalf 0x3FF5 = .ok (.cJal (-2)) ∧ -- c.jal -4
    decodeHalf 0x2FFD = .ok (.cJal 1023) ∧ -- c.jal 2046
    decodeHalf 0x3001 = .ok (.cJal (-1024)) ∧ -- c.jal -2048
    decodeHalf 0x557D = .ok (.cLi 10 (-1)) ∧ -- c.li x10, -1
    decodeHalf 0x45A9 = .ok (.cLi 11 10) ∧ -- c.li x11,10
    decodeHalf 0x6141 = .ok (.cAddi16sp 1) ∧ -- c.addi16sp 16
    decodeHalf 0x7101 = .ok (.cAddi16sp (-32)) ∧ -- c.addi16sp -512
    decodeHalf 0x617D = .ok (.cAddi16sp 31) ∧ -- c.addi16sp 496
    decodeHalf 0x6505 = .ok (.cLui 10 1) ∧ -- c.lui x10, 1
    decodeHalf 0x62FD = .ok (.cLui 5 31) ∧ -- c.lui x5,31
    decodeHalf 0x800D = .ok (.cSrli 0 3) ∧ -- c.srli x8, 3
    decodeHalf 0x8005 = .ok (.cSrli 0 1) ∧ -- c.srli x8,1
    decodeHalf 0x840D = .ok (.cSrai 0 3) ∧ -- c.srai x8, 3
    decodeHalf 0x847D = .ok (.cSrai 0 31) ∧ -- c.srai x8,31
    decodeHalf 0x9841 = .ok (.cAndi 0 (-16)) ∧ -- c.andi x8, -16
    decodeHalf 0x987D = .ok (.cAndi 0 (-1)) ∧ -- c.andi x8,-1
    decodeHalf 0x8C05 = .ok (.cSub 0 1) ∧ -- c.sub x8, x9
    decodeHalf 0x8C25 = .ok (.cXor 0 1) ∧ -- c.xor x8, x9
    decodeHalf 0x8C45 = .ok (.cOr 0 1) ∧ -- c.or x8, x9
    decodeHalf 0x8ED9 = .ok (.cOr 5 6) ∧ -- c.or x13,x14
    decodeHalf 0x8C65 = .ok (.cAnd 0 1) := by -- c.and x8, x9
  and_intros <;> rfl

/-- RVC instructions, part 2. -/
theorem test_decode_c2 :
    decodeHalf 0xA019 = .ok (.cJ 3) ∧ -- c.j +6
    decodeHalf 0xB001 = .ok (.cJ (-1024)) ∧ -- c.j -2048
    decodeHalf 0xAFFD = .ok (.cJ 1023) ∧ -- c.j +2046
    decodeHalf 0xBFFD = .ok (.cJ (-1)) ∧ -- c.j -2
    decodeHalf 0xC401 = .ok (.cBeqz 0 4) ∧ -- c.beqz x8, +8
    decodeHalf 0xD381 = .ok (.cBeqz 7 (-128)) ∧ -- c.beqz x15, -256
    decodeHalf 0xC011 = .ok (.cBeqz 0 2) ∧ -- c.beqz x8,4
    decodeHalf 0xD001 = .ok (.cBeqz 0 (-128)) ∧ -- c.beqz x8,-256
    decodeHalf 0xFC75 = .ok (.cBnez 0 (-2)) ∧ -- c.bnez x8, -4
    decodeHalf 0xEC7D = .ok (.cBnez 0 127) ∧ -- c.bnez x8,254
    decodeHalf 0x0512 = .ok (.cSlli 10 4) ∧ -- c.slli x10, 4
    decodeHalf 0x06C2 = .ok (.cSlli 13 16) ∧ -- c.slli x13,16
    decodeHalf 0x4522 = .ok (.cLwsp 10 2) ∧ -- c.lwsp x10, 8(sp)
    decodeHalf 0x4782 = .ok (.cLwsp 15 0) ∧ -- c.lwsp x15,0(sp)
    decodeHalf 0x8082 = .ok (.cJr 1) ∧ -- c.jr x1
    decodeHalf 0x852E = .ok (.cMv 10 11) ∧ -- c.mv x10, x11
    decodeHalf 0x829A = .ok (.cMv 5 6) ∧ -- c.mv x5,x6
    decodeHalf 0x9002 = .ok (.cEbreak) ∧ -- c.ebreak
    decodeHalf 0x9502 = .ok (.cJalr 10) ∧ -- c.jalr x10
    decodeHalf 0x9282 = .ok (.cJalr 5) ∧ -- c.jalr x5
    decodeHalf 0x952E = .ok (.cAdd 10 11) ∧ -- c.add x10, x11
    decodeHalf 0x929A = .ok (.cAdd 5 6) ∧ -- c.add x5,x6
    decodeHalf 0xC42A = .ok (.cSwsp 10 2) ∧ -- c.swsp x10, 8(sp)
    decodeHalf 0xC036 = .ok (.cSwsp 13 0) := by -- c.swsp x13,0(sp)
  and_intros <;> rfl

/-- T-Head instructions. -/
theorem test_decode_xthead1 :
    decodeWord 0x0010000B = .ok (.dcacheCall) ∧ -- dcache.call
    decodeWord 0x0020000B = .ok (.dcacheIall) ∧ -- dcache.iall
    decodeWord 0x0030000B = .ok (.dcacheCiall) ∧ -- dcache.ciall
    decodeWord 0x0100000B = .ok (.icacheIall) ∧ -- icache.iall
    decodeWord 0x0180000B = .ok (.sync) ∧ -- sync
    decodeWord 0x01A0000B = .ok (.syncI) ∧ -- sync.i
    decodeWord 0x0215000B = .ok (.dcacheCsw 10) ∧ -- dcache.csw x10
    decodeWord 0x0225000B = .ok (.dcacheIsw 10) ∧ -- dcache.isw x10
    decodeWord 0x0235000B = .ok (.dcacheCisw 10) ∧ -- dcache.cisw x10
    decodeWord 0x0285000B = .ok (.dcacheCpa 10) ∧ -- dcache.cpa x10
    decodeWord 0x0283000B = .ok (.dcacheCpa 6) ∧ -- dcache.cpa x6
    decodeWord 0x02A5000B = .ok (.dcacheIpa 10) ∧ -- dcache.ipa x10
    decodeWord 0x02B5000B = .ok (.dcacheCipa 10) ∧ -- dcache.cipa x10
    decodeWord 0x0385000B = .ok (.icacheIpa 10) ∧ -- icache.ipa x10
    decodeWord 0x0383000B = .ok (.icacheIpa 6) := by -- icache.ipa x6
  and_intros <;> rfl
/-! ## Bits that are no instruction (rules R210, R482, R525) -/

theorem test_undefined_words : -- V-S-38, V-S-39, V-T-9, V-T-10
    ∀ n ∈ ([0xFFFFFFFF, 0x02031293, 0x0040000B, 0x0010008B] : List Nat),
      decodeWord (BitVec.ofNat 32 n) = .error (.undefinedWord (BitVec.ofNat 32 n)) := by
  decide +kernel

theorem test_undefined_halves : -- V-C-3, V-C-17, V-C-23, V-C-35, V-C-37
    ∀ n ∈ ([0x0000, 0x6101, 0x9005, 0x4002, 0x8002] : List Nat),
      decodeHalf (BitVec.ofNat 16 n) = .error (.undefinedHalf (BitVec.ofNat 16 n)) := by
  decide +kernel

theorem test_float_slot : decodeHalf 0x2000 = .error (.compressedFloat 0x2000) := by decide -- V-C-44

/-! ## Single steps -/

/-- Machine mode at 0x100, the T-Head instructions and the floating-point unit enabled. -/
def base : State :=
  { State.reset with
    pc := 0x100, mxstatus := { State.reset.mxstatus with thead := true }, mstatus := { State.reset.mstatus with fs := 1 } }

/-- The base state with some registers. -/
def regs (l : List (Reg × Word)) : State := l.foldl (fun s p => s.setX p.1 p.2) base

/-- The base state with some floating-point registers, single values boxed. -/
def fregs (l : List (Reg × Dword)) : State :=
  { base with f := (l.foldl (fun s p => s.setF p.1 p.2) base).f }

/-- A boxed single. -/
def bx (w : Word) : Dword := BitVec.allOnes 32 ++ w

/-- The memory of section 2.3. -/
def mem8 : Memory :=
  [(0x100, 0x80), (0x101, 0x91), (0x102, 0xA2), (0x103, 0xB3), (0x104, 0x04), (0x105, 0x15), (0x106, 0x26), (0x107, 0x37)]

/-- What decoding and executing some bits gives. -/
def ran (c : Code) (s : State) : Option State :=
  match decodeCode c with
  | .ok i => match exec i s with
    | .next t => some t
    | _ => none
  | .error _ => none

/-- A register after a 32-bit instruction. -/
def xOf (w : Word) (s : State) (rd : Reg) : Option Word := (ran (.word w) s).map (·.readX rd)

/-- A register after a 16-bit instruction. -/
def xOfHalf (h : Half) (s : State) (rd : Reg) : Option Word := (ran (.half h) s).map (·.readX rd)

/-- The next pc. -/
def pcOf (c : Code) (s : State) : Option Word := (ran c s).map (·.pc)

/-- A floating-point register and the flags after a 32-bit instruction. -/
def fOf (w : Word) (s : State) (fd : Reg) : Option (Dword × BitVec 5) :=
  (ran (.word w) s).map fun t => (t.readF fd, t.fcsr.flags)

/-- A register and the flags. -/
def xfOf (w : Word) (s : State) (rd : Reg) : Option (Word × BitVec 5) :=
  (ran (.word w) s).map fun t => (t.readX rd, t.fcsr.flags)

/-- The word at an address afterwards. -/
def wordOf (c : Code) (s : State) (a : Word) : Option Word := (ran c s).map fun t => (t.mem.readLE a 4).setWidth 32

/-! ### RV32I -/

theorem test_add : xOf 0x007302B3 (regs [(6, 0x80000001), (7, 0x7FFFFFFF)]) 5 = some 0 := by decide +kernel -- V-I-1
theorem test_add_x0 : xOf 0x00730033 (regs [(6, 0x80000001), (7, 0x7FFFFFFF)]) 0 = some 0 := by decide +kernel -- V-I-2
theorem test_addi : xOf 0x80030293 (regs [(6, 0x00000800)]) 5 = some 0 := by decide +kernel -- V-I-5
theorem test_sub : xOf 0x407302B3 (regs [(6, 0x80000001), (7, 0x7FFFFFFF)]) 5 = some 2 := by decide +kernel -- V-I-6
theorem test_and : xOf 0x007372B3 (regs [(6, 0xF0F0F0F0), (7, 0x0FF00FF0)]) 5 = some 0x00F000F0 := by decide +kernel -- V-I-7
theorem test_andi : xOf 0xFF037293 (regs [(6, 0x12345678)]) 5 = some 0x12345670 := by decide +kernel -- V-I-8
theorem test_or : xOf 0x007362B3 (regs [(6, 0xF0F0F0F0), (7, 0x0FF00FF0)]) 5 = some 0xFFF0FFF0 := by decide +kernel -- V-I-10
theorem test_ori : xOf 0xF0036293 (regs [(6, 0x12)]) 5 = some 0xFFFFFF12 := by decide +kernel -- V-I-11
theorem test_xor : xOf 0x007342B3 (regs [(6, 0xF0F0F0F0), (7, 0x0FF00FF0)]) 5 = some 0xFF00FF00 := by decide +kernel -- V-I-12
theorem test_xori : xOf 0xFFF34293 (regs [(6, 0x12345678)]) 5 = some 0xEDCBA987 := by decide +kernel -- V-I-13
theorem test_sll : xOf 0x007312B3 (regs [(6, 1), (7, 0x21)]) 5 = some 2 := by decide +kernel -- V-I-14
theorem test_slli : xOf 0x01F31293 (regs [(6, 3)]) 5 = some 0x80000000 := by decide +kernel -- V-I-15
theorem test_srl : xOf 0x007352B3 (regs [(6, 0x80000000), (7, 0xFFFFFFE4)]) 5 = some 0x08000000 := by decide +kernel -- V-I-16
theorem test_srli : xOf 0x00435293 (regs [(6, 0x80000000)]) 5 = some 0x08000000 := by decide +kernel -- V-I-17
theorem test_sra : xOf 0x407352B3 (regs [(6, 0x80000000), (7, 4)]) 5 = some 0xF8000000 := by decide +kernel -- V-I-18
theorem test_srai : xOf 0x40435293 (regs [(6, 0x7FFFFFFF)]) 5 = some 0x07FFFFFF := by decide +kernel -- V-I-20
theorem test_slt : xOf 0x007322B3 (regs [(6, 0x80000001), (7, 0x7FFFFFFF)]) 5 = some 1 := by decide +kernel -- V-I-21
theorem test_sltu : xOf 0x007332B3 (regs [(6, 0x80000001), (7, 0x7FFFFFFF)]) 5 = some 0 := by decide +kernel -- V-I-22
theorem test_slti : xOf 0xFFF32293 (regs [(6, 0xFFFFFFFE)]) 5 = some 1 := by decide +kernel -- V-I-24
theorem test_sltiu : xOf 0xFFF33293 (regs [(6, 0xFFFFFFFF)]) 5 = some 0 := by decide +kernel -- V-I-25
theorem test_lui : xOf 0xFFFFF2B7 (regs []) 5 = some 0xFFFFF000 := by decide +kernel -- V-I-27
theorem test_auipc : xOf 0xFFFFF297 { base with pc := 0x1000 } 5 = some 0 := by decide +kernel -- V-I-30
theorem test_beq : pcOf (.word 0x80730063) { regs [(6, 5), (7, 5)] with pc := 0x2000 } = some 0x1000 := by decide +kernel -- V-B-3
theorem test_beq_not :
    pcOf (.word 0x00730463) { regs [(6, 5), (7, 6)] with pc := 0x100 } = some 0x104 := by decide +kernel -- V-B-2
theorem test_bne : pcOf (.word 0x7E731FE3) { regs [(6, 5), (7, 6)] with pc := 0x100 } = some 0x10FE := by decide +kernel -- V-B-4
theorem test_blt : pcOf (.word 0x00734463) { regs [(6, 0xFFFFFFFF)] with pc := 0x100 } = some 0x108 := by decide +kernel -- V-B-5
theorem test_bge :
    pcOf (.word 0x00735463) { regs [(6, 0x80000000), (7, 0x80000000)] with pc := 0x100 } = some 0x108 := by decide +kernel -- V-B-6
theorem test_bltu : pcOf (.word 0x00736463) { regs [(6, 0xFFFFFFFF)] with pc := 0x100 } = some 0x104 := by decide +kernel -- V-B-7
theorem test_bgeu : pcOf (.word 0x00737463) { regs [(6, 0xFFFFFFFF)] with pc := 0x100 } = some 0x108 := by decide +kernel -- V-B-8
theorem test_jal : pcOf (.word 0x800000EF) { regs [] with pc := 0x00100000 } = some 0 := by decide +kernel -- V-B-11
theorem test_jalr : pcOf (.word 0x003300E7) { regs [(6, 0x2000)] with pc := 0x100 } = some 0x2002 := by decide +kernel -- V-B-12
theorem test_jalr_same : xOf 0x00030367 (regs [(6, 0x2000)]) 6 = some 0x104 := by decide +kernel -- V-B-13
theorem test_lb : xOf 0x00330283 { regs [(6, 0x100)] with mem := mem8 } 5 = some 0xFFFFFFB3 := by decide +kernel -- V-L-1
theorem test_lbu : xOf 0x00334283 { regs [(6, 0x100)] with mem := mem8 } 5 = some 0xB3 := by decide +kernel -- V-L-2
theorem test_lh : xOf 0x00231283 { regs [(6, 0x100)] with mem := mem8 } 5 = some 0xFFFFB3A2 := by decide +kernel -- V-L-3
theorem test_lhu : xOf 0x00235283 { regs [(6, 0x100)] with mem := mem8 } 5 = some 0xB3A2 := by decide +kernel -- V-L-4
theorem test_lw : xOf 0xFFC32283 { regs [(6, 0x108)] with mem := mem8 } 5 = some 0x37261504 := by decide +kernel -- V-L-6
theorem test_lw_split : xOf 0x00132283 { regs [(6, 0x100)] with mem := mem8 } 5 = some 0x04B3A291 := by decide +kernel -- V-L-8
theorem test_lh_split : xOf 0x00331283 { regs [(6, 0x100)] with mem := mem8 } 5 = some 0x4B3 := by decide +kernel -- V-L-10
theorem test_sb :
    wordOf (.word 0x007300A3) { regs [(6, 0x100), (7, 0x123456EE)] with mem := mem8 } 0x100 = some 0xB3A2EE80 := by decide +kernel -- V-L-11
theorem test_sh :
    wordOf (.word 0x00731123) { regs [(6, 0x100), (7, 0x1234BEEF)] with mem := mem8 } 0x100 = some 0xBEEF9180 := by decide +kernel -- V-L-12
theorem test_sw :
    wordOf (.word 0x00732023) { regs [(6, 0x100), (7, 0xDEADBEEF)] with mem := mem8 } 0x100 = some 0xDEADBEEF := by decide +kernel -- V-L-13
theorem test_sw_split :
    wordOf (.word 0x00732123) { regs [(6, 0x100), (7, 0xDEADBEEF)] with mem := mem8 } 0x104 = some 0x3726DEAD := by decide +kernel -- V-L-14
theorem test_sw_wraps :
    wordOf (.word 0xFE732E23) { regs [(7, 0xDEADBEEF)] with mem := mem8 } 0xFFFFFFFC = some 0xDEADBEEF := by decide +kernel -- V-L-16

/-- What a trap leaves: MEPC, code, MTVAL. -/
def trapOf (c : Code) (s : State) : Option (Word × BitVec 12 × Word) :=
  (ran c s).map fun t => (t.mepc, t.mcause.code, t.mtval)

/-- Misaligned accesses trap. -/
def noSplit (s : State) : State := { s with mxstatus := { s.mxstatus with mm := false } }

theorem test_lw_misaligned :
    trapOf (.word 0x00132283) (noSplit (regs [(6, 0x100)])) = some (0x100, 4, 0x101) := by decide +kernel -- V-L-9
theorem test_sw_misaligned :
    trapOf (.word 0x00732123) (noSplit (regs [(6, 0x100)])) = some (0x100, 6, 0x102) := by decide +kernel -- V-L-15
theorem test_device_user :
    trapOf (.word 0x00032283) { regs [(6, 0xE000BFF8)] with priv := .user, pmp := [{ cfg := 0x1F, addr := 0xFFFFFFFF }] } = some (0x100, 5, 0xE000BFF8) := by decide +kernel -- V-L-18

/-! ### System instructions and CSRs -/

/-- MSCRATCH afterwards. -/
def scratchOf (w : Word) (l : List (Reg × Word)) (m : Word) : Option (Word × Word) :=
  (ran (.word w) { regs l with mscratch := m }).map fun t => (t.readX 5, t.mscratch)

/-- A CSR afterwards. -/
def csrOf (w : Word) (s : State) (c : Csr) : Option Word := (ran (.word w) s).map (·.readCsr c)

theorem test_csrrw : scratchOf 0x340312F3 [(6, 0x12345678)] 0xF0F0 = some (0xF0F0, 0x12345678) := by decide +kernel -- V-S-1
theorem test_csrrs : scratchOf 0x340322F3 [(6, 0xF)] 0xF0F0 = some (0xF0F0, 0xF0FF) := by decide +kernel -- V-S-2
theorem test_csrrc : scratchOf 0x340332F3 [(6, 0xF0)] 0xF0F0 = some (0xF0F0, 0xF000) := by decide +kernel -- V-S-3
theorem test_csrrwi : scratchOf 0x340FD2F3 [] 0xF0F0 = some (0xF0F0, 0x1F) := by decide +kernel -- V-S-4
theorem test_csrrsi : scratchOf 0x3402E2F3 [] 0xF0F0 = some (0xF0F0, 0xF0F5) := by decide +kernel -- V-S-5
theorem test_csrrci : scratchOf 0x3402F2F3 [] 0xF0F7 = some (0xF0F7, 0xF0F2) := by decide +kernel -- V-S-6
theorem test_misa : xOf 0x301022F3 base 5 = some 0x40901105 := by decide +kernel -- V-S-7
theorem test_mclicbase : xOf 0x350022F3 base 5 = some 0xE0800000 := by decide +kernel -- V-S-28
theorem test_write_mvendorid : trapOf (.word 0xF1131073) base = some (0x100, 2, 0xF1131073) := by decide +kernel -- V-S-10
theorem test_set_mvendorid : trapOf (.word 0xF1132073) base = some (0x100, 2, 0xF1132073) := by decide +kernel -- V-S-11
theorem test_write_mtvec : csrOf 0x30531073 (regs [(6, 0x1FFC)]) .mtvec = some 0x1FFF := by decide +kernel -- V-S-16
theorem test_write_mstatus : csrOf 0x30031073 (regs [(6, 0xFFFFFFFF)]) .mstatus = some 0x80027888 := by decide +kernel -- V-S-18
theorem test_write_mpp_01 :
    csrOf 0x30031073 { regs [(6, 0x800)] with mstatus := { base.mstatus with mpp := .machine } } .mstatus = some 0x1800 := by decide +kernel -- V-S-19
theorem test_write_mcounteren :
    csrOf 0x30631073 (regs [(6, 0xFFFFFFFF)]) .mcounteren = some 0x0003E31F := by decide +kernel -- V-S-20
theorem test_write_mcountinhibit :
    csrOf 0x32031073 (regs [(6, 0xFFFFFFFF)]) .mcountinhibit = some 0x0003E31D := by decide +kernel -- V-S-21
theorem test_cycle_user :
    trapOf (.word 0xC00022F3) { base with priv := .user } = some (0x100, 2, 0xC00022F3) := by decide +kernel -- V-S-22
theorem test_fcsr_off :
    trapOf (.word 0x003022F3) { base with mstatus := { base.mstatus with fs := 0 } } = some (0x100, 2, 0x003022F3) := by decide +kernel -- V-S-25
theorem test_csr_missing : trapOf (.word 0x7FF022F3) base = some (0x100, 2, 0x7FF022F3) := by decide +kernel -- V-S-26
theorem test_ecall_machine : trapOf (.word 0x00000073) base = some (0x100, 11, 0) := by decide +kernel -- V-S-29
theorem test_ecall_user :
    trapOf (.word 0x00000073) { base with priv := .user } = some (0x100, 8, 0) := by decide +kernel -- V-S-30
theorem test_ebreak : trapOf (.word 0x00100073) base = some (0x100, 3, 0) := by decide +kernel -- V-S-31
theorem test_wfi_user :
    trapOf (.word 0x10500073) { base with priv := .user } = some (0x100, 2, 0x10500073) := by decide +kernel -- V-S-32
theorem test_wfi_machine :
    (ran (.word 0x10500073) base).map (fun t => (t.pc, t.asleep)) = some (0x104, true) ∧
    (ran (.word 0x10500073) { base with pins := { Pins.idle with extEvent := true } }).map (fun t => (t.pc, t.asleep)) =
      some (0x104, false) := by decide +kernel -- R720
theorem test_mret_user :
    trapOf (.word 0x30200073) { base with priv := .user } = some (0x100, 2, 0x30200073) := by decide +kernel -- V-S-34
theorem test_fence : pcOf (.word 0x0330000F) base = some 0x104 := by decide +kernel -- V-S-36
theorem test_fenceI : pcOf (.word 0x0000100F) base = some 0x104 := by decide +kernel -- V-S-35

/-! ### RV32M -/

theorem test_mul : xOf 0x027302B3 (regs [(6, 0x12345678), (7, 0x9ABCDEF0)]) 5 = some 0x242D2080 := by decide +kernel -- V-M-1
theorem test_mulh : xOf 0x027312B3 (regs [(6, 0x80000000), (7, 0x7FFFFFFF)]) 5 = some 0xC0000000 := by decide +kernel -- V-M-4
theorem test_mulh2 : xOf 0x027312B3 (regs [(6, 0x12345678), (7, 0x9ABCDEF0)]) 5 = some 0xF8CC93D6 := by decide +kernel -- V-M-5
theorem test_mulhsu : xOf 0x027322B3 (regs [(6, 0x12345678), (7, 0x9ABCDEF0)]) 5 = some 0x0B00EA4E := by decide +kernel -- V-M-8
theorem test_mulhsu2 : xOf 0x027322B3 (regs [(6, 0x80000000), (7, 0xFFFFFFFF)]) 5 = some 0x80000000 := by decide +kernel -- V-M-6
theorem test_mulhu : xOf 0x027332B3 (regs [(6, 0xFFFFFFFF), (7, 0xFFFFFFFF)]) 5 = some 0xFFFFFFFE := by decide +kernel -- V-M-9
theorem test_div : xOf 0x027342B3 (regs [(6, 0xFFFFFFF9), (7, 2)]) 5 = some 0xFFFFFFFD := by decide +kernel -- V-M-11
theorem test_div_overflow :
    xOf 0x027342B3 (regs [(6, 0x80000000), (7, 0xFFFFFFFF)]) 5 = some 0x80000000 := by decide +kernel -- V-M-14
theorem test_divu : xOf 0x027352B3 (regs [(6, 0xFFFFFFF9), (7, 2)]) 5 = some 0x7FFFFFFC := by decide +kernel -- V-M-15
theorem test_divu_zero : xOf 0x027352B3 (regs [(6, 7), (7, 0)]) 5 = some 0xFFFFFFFF := by decide +kernel -- V-M-16
theorem test_rem : xOf 0x027362B3 (regs [(6, 0xFFFFFFF9), (7, 2)]) 5 = some 0xFFFFFFFF := by decide +kernel -- V-M-17
theorem test_rem_overflow : xOf 0x027362B3 (regs [(6, 0x80000000), (7, 0xFFFFFFFF)]) 5 = some 0 := by decide +kernel -- V-M-20
theorem test_remu : xOf 0x027372B3 (regs [(6, 0xFFFFFFF9), (7, 2)]) 5 = some 1 := by decide +kernel -- V-M-21
theorem test_remu_zero : xOf 0x027372B3 (regs [(6, 0x80000000), (7, 0)]) 5 = some 0x80000000 := by decide +kernel -- V-M-22

/-! ### RV32A -/

/-- The destination and the word at 0x800 afterwards. -/
def amoOf (w : Word) (old src : Word) (rd : Reg) : Option (Word × Word) :=
  (ran (.word w) { regs [(6, 0x800), (7, src)] with mem := Memory.writeLE [] 0x800 4 (old.setWidth 64) }).map
    fun t => (t.readX rd, (t.mem.readLE 0x800 4).setWidth 32)

theorem test_amoadd : amoOf 0x007322AF 0xFFFFFFFF 1 5 = some (0xFFFFFFFF, 0) := by decide +kernel -- V-A-1
theorem test_amoand : amoOf 0x607322AF 0xF0F0F0F0 0x0FF00FF0 5 = some (0xF0F0F0F0, 0x00F000F0) := by decide +kernel -- V-A-2
theorem test_amoor : amoOf 0x407322AF 0xF0F0F0F0 0x0FF00FF0 5 = some (0xF0F0F0F0, 0xFFF0FFF0) := by decide +kernel -- V-A-3
theorem test_amoxor : amoOf 0x207322AF 0xF0F0F0F0 0x0FF00FF0 5 = some (0xF0F0F0F0, 0xFF00FF00) := by decide +kernel -- V-A-4
theorem test_amomax : amoOf 0xA07322AF 0x80000000 1 5 = some (0x80000000, 1) := by decide +kernel -- V-A-5
theorem test_amomaxu : amoOf 0xE07322AF 0x80000000 1 5 = some (0x80000000, 0x80000000) := by decide +kernel -- V-A-6
theorem test_amomin : amoOf 0x807322AF 0x80000000 1 5 = some (0x80000000, 0x80000000) := by decide +kernel -- V-A-7
theorem test_amominu : amoOf 0xC07322AF 0x80000000 1 5 = some (0x80000000, 1) := by decide +kernel -- V-A-8
theorem test_amoswap : amoOf 0x0E7322AF 0x11111111 0x22222222 5 = some (0x11111111, 0x22222222) := by decide +kernel -- V-A-10
theorem test_amoadd_rd_rs2 : amoOf 0x007323AF 0x10 5 7 = some (0x10, 0x15) := by decide +kernel -- V-A-11
theorem test_amo_misaligned :
    trapOf (.word 0x007322AF) (regs [(6, 0x802)]) = some (0x100, 6, 0x802) := by decide +kernel -- V-A-14
theorem test_lr :
    (ran (.word 0x100322AF) { regs [(6, 0x100)] with mem := mem8 }).map (fun t => (t.readX 5, t.reservation)) = some (0xB3A29180, some 0x100) := by decide +kernel -- V-A-16
theorem test_sc_unreserved :
    (ran (.word 0x187322AF) (regs [(6, 0x800), (7, 0x22)])).map (fun t => (t.readX 5, t.mem)) = some (1, []) := by decide +kernel -- V-A-17

/-! ### RV32F -/

theorem test_faddS :
    fOf 0x0020F1D3 (fregs [(1, bx 0x3DCCCCCD), (2, bx 0x3E4CCCCD)]) 3 = some (bx 0x3E99999A, 1) := by decide +kernel -- V-F-2
theorem test_faddS_overflow :
    fOf 0x002081D3 (fregs [(1, bx 0x7F7FFFFF), (2, bx 0x7F7FFFFF)]) 3 = some (bx 0x7F800000, 5) := by decide +kernel -- V-F-5
theorem test_fsubS_rdn :
    fOf 0x0820A1D3 (fregs [(1, bx 0x3F800000), (2, bx 0x3F800000)]) 3 = some (bx 0x80000000, 0) := by decide +kernel -- V-F-9
theorem test_fmulS : fOf 0x102081D3 (fregs [(1, bx 1), (2, bx 0x3F000000)]) 3 = some (bx 0, 3) := by decide +kernel -- V-F-10
theorem test_fmulS_invalid :
    fOf 0x102081D3 (fregs [(1, bx 0), (2, bx 0x7F800000)]) 3 = some (bx 0x7FC00000, 0x10) := by decide +kernel -- V-F-12
theorem test_fdivS :
    fOf 0x1820F1D3 (fregs [(1, bx 0x3F800000), (2, bx 0x40400000)]) 3 = some (bx 0x3EAAAAAB, 1) := by decide +kernel -- V-F-13
theorem test_fdivS_zero :
    fOf 0x1820F1D3 (fregs [(1, bx 0x3F800000), (2, bx 0x80000000)]) 3 = some (bx 0xFF800000, 8) := by decide +kernel -- V-F-14
theorem test_fsqrtS : fOf 0x5800F1D3 (fregs [(1, bx 0x40000000)]) 3 = some (bx 0x3FB504F3, 1) := by decide +kernel -- V-F-16
theorem test_fsqrtS_neg :
    fOf 0x5800F1D3 (fregs [(1, bx 0xBF800000)]) 3 = some (bx 0x7FC00000, 0x10) := by decide +kernel -- V-F-18
theorem test_fmaddS :
    fOf 0x1820F243 (fregs [(1, bx 0x3F800800), (2, bx 0x3F800800), (3, bx 0xBF801000)]) 4 = some (bx 0x33800000, 0) := by decide +kernel -- V-F-20
theorem test_fmsubS :
    fOf 0x1820F247 (fregs [(1, bx 0x40000000), (2, bx 0x40400000), (3, bx 0x3F800000)]) 4 = some (bx 0x40A00000, 0) := by decide +kernel -- V-F-21
theorem test_fnmsubS :
    fOf 0x1820F24B (fregs [(1, bx 0x40000000), (2, bx 0x40400000), (3, bx 0x3F800000)]) 4 = some (bx 0xC0A00000, 0) := by decide +kernel -- V-F-22
theorem test_fnmaddS :
    fOf 0x1820F24F (fregs [(1, bx 0x40000000), (2, bx 0x40400000), (3, bx 0x3F800000)]) 4 = some (bx 0xC0E00000, 0) := by decide +kernel -- V-F-23
theorem test_fminS :
    fOf 0x282081D3 (fregs [(1, bx 0x7F800001), (2, bx 0x3F800000)]) 3 = some (bx 0x3F800000, 0x10) := by decide +kernel -- V-F-27
theorem test_fmaxS : fOf 0x282091D3 (fregs [(1, bx 0x80000000), (2, bx 0)]) 3 = some (bx 0, 0) := by decide +kernel -- V-F-26
theorem test_feqS : xfOf 0xA020A2D3 (fregs [(1, bx 0x80000000), (2, bx 0)]) 5 = some (1, 0) := by decide +kernel -- V-F-29
theorem test_fltS :
    xfOf 0xA02092D3 (fregs [(1, bx 0x7FC00000), (2, bx 0x3F800000)]) 5 = some (0, 0x10) := by decide +kernel -- V-F-32
theorem test_fleS : xfOf 0xA02082D3 (fregs [(1, bx 0x80000000), (2, bx 0)]) 5 = some (1, 0) := by decide +kernel -- V-F-34
theorem test_fclassS : xfOf 0xE00092D3 (fregs [(1, bx 0x7F800001)]) 5 = some (0x100, 0) := by decide +kernel -- V-F-35
theorem test_fsgnjS :
    fOf 0x202081D3 (fregs [(1, bx 0x3F800000), (2, bx 0xC0000000)]) 3 = some (bx 0xBF800000, 0) := by decide +kernel -- V-F-36
theorem test_fsgnjnS :
    fOf 0x202091D3 (fregs [(1, bx 0x7FC00001), (2, bx 0x3F800000)]) 3 = some (bx 0xFFC00001, 0) := by decide +kernel -- V-F-37
theorem test_fsgnjxS :
    fOf 0x2020A1D3 (fregs [(1, bx 0xBF800000), (2, bx 0xC0000000)]) 3 = some (bx 0x3F800000, 0) := by decide +kernel -- V-F-38
theorem test_fcvtWS : xfOf 0xC000A2D3 (fregs [(1, bx 0xC0200000)]) 5 = some (0xFFFFFFFD, 1) := by decide +kernel -- V-F-40
theorem test_fcvtWS_large :
    xfOf 0xC00092D3 (fregs [(1, bx 0x4F32D05E)]) 5 = some (0x7FFFFFFF, 0x10) := by decide +kernel -- V-F-41
theorem test_fcvtWuS : xfOf 0xC01092D3 (fregs [(1, bx 0x4F32D05E)]) 5 = some (0xB2D05E00, 0) := by decide +kernel -- V-F-44
theorem test_fcvtWuS_half : xfOf 0xC01092D3 (fregs [(1, bx 0xBF000000)]) 5 = some (0, 1) := by decide +kernel -- V-F-46
theorem test_fcvtSW : fOf 0xD00370D3 (regs [(6, 0x01000001)]) 1 = some (bx 0x4B800000, 1) := by decide +kernel -- V-F-49
theorem test_fcvtSWu : fOf 0xD01370D3 (regs [(6, 0xFFFFFFFF)]) 1 = some (bx 0x4F800000, 1) := by decide +kernel -- V-F-51
theorem test_fmvXW : xfOf 0xE00082D3 (fregs [(1, bx 0x7F800001)]) 5 = some (0x7F800001, 0) := by decide +kernel -- V-F-52
theorem test_fmvWX : fOf 0xF00300D3 (regs [(6, 0x7F800001)]) 1 = some (bx 0x7F800001, 0) := by decide +kernel -- V-F-53
theorem test_flw :
    fOf 0x00032087 { regs [(6, 0x100)] with mem := mem8 } 1 = some (bx 0xB3A29180, 0) := by decide +kernel -- V-F-54
theorem test_fsw :
    wordOf (.word 0x00132227) ({ regs [(6, 0x100)] with mem := mem8 }.setF 1 0x40490FDB) 0x104 = some 0x40490FDB := by decide +kernel -- V-F-56
theorem test_fadd_unboxed :
    fOf 0x002081D3 (fregs [(1, 0x3F800000), (2, bx 0x3F800000)]) 3 = some (bx 0x7FC00000, 0) := by decide +kernel -- V-F-57
theorem test_fadd_off :
    trapOf (.word 0x0020F1D3) { base with mstatus := { base.mstatus with fs := 0 } } = some (0x100, 2, 0x0020F1D3) := by decide +kernel -- V-F-58
theorem test_fadd_rm5 : trapOf (.word 0x0020D1D3) base = some (0x100, 2, 0x0020D1D3) := by decide +kernel -- V-F-59

/-! ### RV32D -/

theorem test_faddD :
    fOf 0x0220F1D3 (fregs [(1, 0x3FB999999999999A), (2, 0x3FC999999999999A)]) 3 = some (0x3FD3333333333334, 1) := by decide +kernel -- V-D-1
theorem test_fsubD :
    fOf 0x0A20F1D3 (fregs [(1, 0x7FF0000000000000), (2, 0x7FF0000000000000)]) 3 = some (0x7FF8000000000000, 0x10) := by decide +kernel -- V-D-2
theorem test_fmulD :
    fOf 0x1220F1D3 (fregs [(1, 0x4000000000000000), (2, 0x400C000000000000)]) 3 = some (0x401C000000000000, 0) := by decide +kernel -- V-D-3
theorem test_fdivD :
    fOf 0x1A20F1D3 (fregs [(1, 0x3FF0000000000000), (2, 0x4008000000000000)]) 3 = some (0x3FD5555555555555, 1) := by decide +kernel -- V-D-4
theorem test_fsqrtD :
    fOf 0x5A00F1D3 (fregs [(1, 0x4000000000000000)]) 3 = some (0x3FF6A09E667F3BCD, 1) := by decide +kernel -- V-D-6
theorem test_fmaddD :
    fOf 0x1A20F243 (fregs [(1, 0x3FF0000000000001), (2, 0x3FF0000000000001), (3, 0xBFF0000000000002)]) 4 = some (0x3970000000000000, 0) := by decide +kernel -- V-D-7
theorem test_fmsubD :
    fOf 0x1A20F247 (fregs [(1, 0x4000000000000000), (2, 0x4008000000000000), (3, 0x3FF0000000000000)]) 4 = some (0x4014000000000000, 0) := by decide +kernel -- V-D-8
theorem test_fnmsubD :
    fOf 0x1A20F24B (fregs [(1, 0x4000000000000000), (2, 0x4008000000000000), (3, 0x3FF0000000000000)]) 4 = some (0xC014000000000000, 0) := by decide +kernel -- V-D-8
theorem test_fnmaddD :
    fOf 0x1A20F24F (fregs [(1, 0x4000000000000000), (2, 0x4008000000000000), (3, 0x3FF0000000000000)]) 4 = some (0xC01C000000000000, 0) := by decide +kernel -- V-D-8
theorem test_fminD :
    fOf 0x2A2081D3 (fregs [(1, 0x7FF0000000000001), (2, 0x3FF0000000000000)]) 3 = some (0x3FF0000000000000, 0x10) := by decide +kernel -- V-D-10
theorem test_fmaxD : fOf 0x2A2091D3 (fregs [(1, 0x8000000000000000), (2, 0)]) 3 = some (0, 0) := by decide +kernel -- V-D-9
theorem test_feqD :
    xfOf 0xA220A2D3 (fregs [(1, 0x7FF8000000000000), (2, 0x3FF0000000000000)]) 5 = some (0, 0) := by decide +kernel -- V-D-11
theorem test_fltD :
    xfOf 0xA22092D3 (fregs [(1, 0x7FF8000000000000), (2, 0x3FF0000000000000)]) 5 = some (0, 0x10) := by decide +kernel -- V-D-11
theorem test_fleD :
    xfOf 0xA22082D3 (fregs [(1, 0x7FF8000000000000), (2, 0x3FF0000000000000)]) 5 = some (0, 0x10) := by decide +kernel -- V-D-11
theorem test_fclassD : xfOf 0xE20092D3 (fregs [(1, 0x8000000000000001)]) 5 = some (4, 0) := by decide +kernel -- V-D-12
theorem test_fsgnjD :
    fOf 0x222081D3 (fregs [(1, 0xBFF0000000000000), (2, 0xC000000000000000)]) 3 = some (0xBFF0000000000000, 0) := by decide +kernel -- V-D-13
theorem test_fsgnjnD :
    fOf 0x222091D3 (fregs [(1, 0xBFF0000000000000), (2, 0xC000000000000000)]) 3 = some (0x3FF0000000000000, 0) := by decide +kernel -- V-D-13
theorem test_fsgnjxD :
    fOf 0x2220A1D3 (fregs [(1, 0xBFF0000000000000), (2, 0xC000000000000000)]) 3 = some (0x3FF0000000000000, 0) := by decide +kernel -- V-D-13
theorem test_fcvtWD : xfOf 0xC20092D3 (fregs [(1, 0xC004000000000000)]) 5 = some (0xFFFFFFFE, 1) := by decide +kernel -- V-D-14
theorem test_fcvtWD_rne :
    xfOf 0xC20082D3 (fregs [(1, 0x41DFFFFFFFE00000)]) 5 = some (0x7FFFFFFF, 0x10) := by decide +kernel -- V-D-16
theorem test_fcvtWuD : xfOf 0xC21092D3 (fregs [(1, 0x41E65A0BC0000000)]) 5 = some (0xB2D05E00, 0) := by decide +kernel -- V-D-18
theorem test_fcvtDW : fOf 0xD20300D3 (regs [(6, 0xFFFFFFFF)]) 1 = some (0xBFF0000000000000, 0) := by decide +kernel -- V-D-20
theorem test_fcvtDWu : fOf 0xD21300D3 (regs [(6, 0xFFFFFFFF)]) 1 = some (0x41EFFFFFFFE00000, 0) := by decide +kernel -- V-D-21
theorem test_fcvtSD : fOf 0x4010F1D3 (fregs [(1, 0x483D6329F1C35CA5)]) 3 = some (bx 0x7F800000, 5) := by decide +kernel -- V-D-23
theorem test_fcvtDS : fOf 0x420081D3 (fregs [(1, bx 0x3EAAAAAB)]) 3 = some (0x3FD5555560000000, 0) := by decide +kernel -- V-D-26
theorem test_fld :
    fOf 0x00033087 { regs [(6, 0x100)] with mem := mem8 } 1 = some (0x37261504B3A29180, 0) := by decide +kernel -- V-D-28
theorem test_fld_misaligned :
    trapOf (.word 0x00433087) (noSplit (regs [(6, 0x100)])) = some (0x100, 4, 0x104) := by decide +kernel -- V-D-29
theorem test_fsd :
    (ran (.word 0x00133427) ((regs [(6, 0x100)]).setF 1 0x0123456789ABCDEF)).map (fun t => t.mem.readLE 0x108 8) = some 0x0123456789ABCDEF := by decide +kernel -- V-D-30

/-! ### Compressed -/

theorem test_cAddi4spn : xOfHalf 0x1FFC (regs [(2, 0x1000)]) 15 = some 0x13FC := by decide +kernel -- V-C-2
theorem test_cLw : xOfHalf 0x4048 { regs [(8, 0x100)] with mem := mem8 } 10 = some 0x37261504 := by decide +kernel -- V-C-4
theorem test_cSw :
    wordOf (.half 0xC048) { regs [(8, 0x100), (10, 0xCAFEF00D)] with mem := mem8 } 0x104 = some 0xCAFEF00D := by decide +kernel -- V-C-6
theorem test_cNop : pcOf (.half 0x0001) base = some 0x102 := by decide +kernel -- V-C-7
theorem test_cAddi : xOfHalf 0x12FD (regs []) 5 = some 0xFFFFFFFF := by decide +kernel -- V-C-8
theorem test_cJal : pcOf (.half 0x3001) { regs [] with pc := 0x1000 } = some 0x800 := by decide +kernel -- V-C-11
theorem test_cJal_link : xOfHalf 0x2FFD (regs []) 1 = some 0x102 := by decide +kernel -- V-C-10
theorem test_cLi : xOfHalf 0x5281 (regs []) 5 = some 0xFFFFFFE0 := by decide +kernel -- V-C-12
theorem test_cAddi16sp : xOfHalf 0x7101 (regs [(2, 0x1000)]) 2 = some 0xE00 := by decide +kernel -- V-C-15
theorem test_cAddi16sp_max : xOfHalf 0x617D (regs [(2, 0x1000)]) 2 = some 0x11F0 := by decide +kernel -- V-C-16
theorem test_cLui : xOfHalf 0x7281 (regs []) 5 = some 0xFFFE0000 := by decide +kernel -- V-C-19
theorem test_cLui_hint :
    decodeHalf 0x6001 = .ok (.cLui 0 0) ∧ pcOf (.half 0x6001) base = some 0x102 := by decide +kernel -- R482, hint row
theorem test_cSrli : xOfHalf 0x8005 (regs [(8, 0x80000001)]) 8 = some 0x40000000 := by decide +kernel -- V-C-21
theorem test_cSrai : xOfHalf 0x847D (regs [(8, 0x80000000)]) 8 = some 0xFFFFFFFF := by decide +kernel -- V-C-22
theorem test_cAndi : xOfHalf 0x883D (regs [(8, 0x12345678)]) 8 = some 8 := by decide +kernel -- V-C-24
theorem test_cSub : xOfHalf 0x8C05 (regs [(8, 5), (9, 7)]) 8 = some 0xFFFFFFFE := by decide +kernel -- V-C-26
theorem test_cXor : xOfHalf 0x8C25 (regs [(8, 0xF0F0F0F0), (9, 0x0FF00FF0)]) 8 = some 0xFF00FF00 := by decide +kernel -- V-C-27
theorem test_cOr : xOfHalf 0x8C45 (regs [(8, 0xF0F0F0F0), (9, 0x0FF00FF0)]) 8 = some 0xFFF0FFF0 := by decide +kernel -- V-C-27
theorem test_cAnd : xOfHalf 0x8C65 (regs [(8, 0xF0F0F0F0), (9, 0x0FF00FF0)]) 8 = some 0x00F000F0 := by decide +kernel -- V-C-27
theorem test_cJ : pcOf (.half 0xBFFD) { regs [] with pc := 0x1000 } = some 0xFFE := by decide +kernel -- V-C-28
theorem test_cBeqz : pcOf (.half 0xD001) { regs [] with pc := 0x1000 } = some 0xF00 := by decide +kernel -- V-C-31
theorem test_cBnez : pcOf (.half 0xEC7D) { regs [(8, 1)] with pc := 0x1000 } = some 0x10FE := by decide +kernel -- V-C-32
theorem test_cSlli : xOfHalf 0x02FE (regs [(5, 1)]) 5 = some 0x80000000 := by decide +kernel -- V-C-33
theorem test_cLwsp :
    xOfHalf 0x52FE { regs [(2, 0x8)] with mem := mem8 } 5 = some 0x37261504 := by decide +kernel -- V-C-34, moved to the memory of 2.3
theorem test_cJr : pcOf (.half 0x8082) { regs [(1, 0x2001)] with pc := 0x100 } = some 0x2000 := by decide +kernel -- V-C-36
theorem test_cMv : xOfHalf 0x829A (regs [(6, 0xABCD)]) 5 = some 0xABCD := by decide +kernel -- V-C-38
theorem test_cEbreak : trapOf (.half 0x9002) base = some (0x100, 3, 0) := by decide +kernel -- V-C-39
theorem test_cJalr : pcOf (.half 0x9282) { regs [(5, 0x2000)] with pc := 0x1000 } = some 0x2000 := by decide +kernel -- V-C-40
theorem test_cAdd : xOfHalf 0x929A (regs [(5, 1), (6, 2)]) 5 = some 3 := by decide +kernel -- V-C-41
theorem test_cSwsp :
    wordOf (.half 0xDF9A) { regs [(2, 0x1000), (6, 0x55)] with mem := mem8 } 0x10FC = some 0x55 := by decide +kernel -- V-C-42

theorem test_fetch_devices : -- R142, R679, R671: IP and IE of interrupt 3, then its ATTR and CTL; CLICCFG as a word
    base.fetchHalf .machine 0xE080100C = .ok 0 ∧ base.fetchHalf .machine 0xE080100E = .ok 0x1FC0 ∧
    base.fetchHalf .machine 0xE0000000 = .refused (.deviceFetch 0xE0000000) ∧
    base.fetchTable 0xE0800000 = .ok 1 := by decide +kernel

/-! ### T-Head -/

theorem test_dcacheCall_off : trapOf (.word 0x0010000B) State.reset = some (0, 2, 0x0010000B) := by decide +kernel -- V-T-1
theorem test_dcacheCall_user :
    trapOf (.word 0x0010000B) { base with priv := .user } = some (0x100, 2, 0x0010000B) := by decide +kernel -- V-T-3
theorem test_dcacheCall :
    pcOf (.word 0x0010000B) (regs [(6, 0xFFFFFFF1)]) = some 0x104 := by decide +kernel -- V-T-2, V-T-6 to V-T-8
theorem test_dcacheIall :
    pcOf (.word 0x0020000B) (regs [(6, 0xFFFFFFF1)]) = some 0x104 := by decide +kernel -- V-T-2, V-T-6 to V-T-8
theorem test_dcacheCiall :
    pcOf (.word 0x0030000B) (regs [(6, 0xFFFFFFF1)]) = some 0x104 := by decide +kernel -- V-T-2, V-T-6 to V-T-8
theorem test_icacheIall :
    pcOf (.word 0x0100000B) (regs [(6, 0xFFFFFFF1)]) = some 0x104 := by decide +kernel -- V-T-2, V-T-6 to V-T-8
theorem test_dcacheCpa :
    pcOf (.word 0x0283000B) (regs [(6, 0xFFFFFFF1)]) = some 0x104 := by decide +kernel -- V-T-2, V-T-6 to V-T-8
theorem test_dcacheIpa :
    pcOf (.word 0x02A3000B) (regs [(6, 0xFFFFFFF1)]) = some 0x104 := by decide +kernel -- V-T-2, V-T-6 to V-T-8
theorem test_dcacheCipa :
    pcOf (.word 0x02B3000B) (regs [(6, 0xFFFFFFF1)]) = some 0x104 := by decide +kernel -- V-T-2, V-T-6 to V-T-8
theorem test_dcacheCsw :
    pcOf (.word 0x0213000B) (regs [(6, 0xFFFFFFF1)]) = some 0x104 := by decide +kernel -- V-T-2, V-T-6 to V-T-8
theorem test_dcacheCsw_line : -- way 1, set 511 of a 32 KiB cache (R532, default index bits 13:5)
    let s : State := { regs [(6, 0x80003FE0)] with dirty := [⟨0x1FF, true, []⟩, ⟨0x3FF, false, []⟩, ⟨0x0FF, true, []⟩] }
    (ran (.word 0x0213000B) s).map (·.dirty) = some [⟨0x3FF, false, []⟩, ⟨0x0FF, true, []⟩] := by decide +kernel
theorem test_dcacheIsw :
    pcOf (.word 0x0223000B) (regs [(6, 0xFFFFFFF1)]) = some 0x104 := by decide +kernel -- V-T-2, V-T-6 to V-T-8
theorem test_dcacheCisw :
    pcOf (.word 0x0233000B) (regs [(6, 0xFFFFFFF1)]) = some 0x104 := by decide +kernel -- V-T-2, V-T-6 to V-T-8
theorem test_icacheIpa :
    pcOf (.word 0x0383000B) (regs [(6, 0xFFFFFFF1)]) = some 0x104 := by decide +kernel -- V-T-2, V-T-6 to V-T-8
theorem test_sync : pcOf (.word 0x0180000B) { base with priv := .user } = some 0x104 := by decide +kernel -- V-T-4
theorem test_syncI_off : trapOf (.word 0x01A0000B) State.reset = some (0, 2, 0x01A0000B) := by decide +kernel -- V-T-5
theorem test_syncI : pcOf (.word 0x01A0000B) base = some 0x104 := by decide +kernel -- R542

/-! ### Exceptions, returns, NMI -/

/-- The state of V-X-1. -/
def vx1 : State :=
  { noSplit (regs [(6, 0x100)]) with pc := 0x200, mstatus := { base.mstatus with mie := true, fs := 0 }, mtvecBase := 0x400 }

/-- The state of V-N-1. -/
def vn1 : State :=
  { base with
    priv := .user, pc := 0x510, mstatus := { mie := true, mpie := true, mpp := .user, fs := 0, mprv := false }
    mepc := 0x50C, mcause := { interrupt := false, minhv := false, mpil := 0, code := 2 }, mtval := 0x300025F3
    mtvecBase := 0x400 }

theorem test_exception_entry :
    (ran (.word 0x00331283) vx1).map (fun t => (t.mepc, t.readCsr .mstatus, t.readCsr .mcause, t.mtval, t.mexstatus.exptVld, t.pc)) = some (0x200, 0x1880, 0x38000004, 0x103, true, 0x1000) := by decide +kernel -- V-X-1
theorem test_mret :
    (ran (.word 0x30200073) { (vx1.takeException .loadAddrMisaligned 0x200 0x103 false) with mepc := 0x204 }).map (fun t => (t.pc, t.readCsr .mstatus, t.readCsr .mcause, t.mexstatus.exptVld)) = some (0x204, 0x88, 0x08000004, false) := by decide +kernel -- V-X-3
theorem test_lockup :
    (fun t : State => (t.mexstatus.lockup, t.lockedUp, t.pc)) ({ base with mexstatus := { base.mexstatus with exptVld := true } }.takeException .loadAccessFault 0x1010 0 false) = (true, true, 0x1010) := by decide +kernel -- V-X-6
theorem test_nmi_entry :
    (fun t : State => (t.mnmipc, t.mepc, t.readCsr .mnmicause, t.readCsr .mstatus, t.readCsr .mcause, t.mexstatus.nmi)) vn1.nmiEntry = (0x50C, 0x510, 0x08000002, 0x80, 0x08000018, true) := by decide +kernel -- V-N-1
theorem test_nmi_return :
    (ran (.word 0x30200073) vn1.nmiEntry).map (fun t => (t.pc, t.mepc, t.readCsr .mstatus, t.readCsr .mcause, t.priv, t.mexstatus.nmi)) = some (0x510, 0x50C, 0x88, 0x08000002, .user, false) := by decide +kernel -- V-N-2

/-! ### CLIC, PMP, reset -/

theorem test_level :
    [0, 1, 2, 3, 8].map (fun n => levelOf Params.default n 0x5F) = [0xFF, 0x7F, 0x7F, 0x5F, 0x5F] := by decide +kernel -- V-Q-4

/-- The PMP of section 1.1: entries 0 to 3. -/
def pmp4 : State :=
  { base with pmp := [⟨0x9F, 0x3FFF⟩, ⟨0x1B, 0x40000F⟩, ⟨0x8E, 0x440000⟩, ⟨0x1D, 0x4803FF⟩] }

theorem test_pmp :
    [pmp4.pmpAllows .write .machine 0x1000, pmp4.pmpAllows .execute .user 0x01000040, pmp4.pmpAllows .read .machine 0x01000080, pmp4.pmpAllows .write .machine 0x010FFFFC, pmp4.pmpAllows .read .machine 0x01100000, pmp4.pmpAllows .write .user 0x01200000] = [true, false, false, true, true, false] := by decide +kernel -- V-PMP-1, 5, 7, 8, 9, 10
theorem test_pmp_locked_cfg : csrOf 0x3A001073 pmp4 (.pmpcfg 0) = some 0x008E009F := by decide +kernel -- V-PMP-18
theorem test_reset_csrs :
    [State.reset.readCsr .misa, State.reset.readCsr .mtvec, State.reset.readCsr .mclicbase, State.reset.readCsr .mcause] = [0x40901105, 3, 0xE0800000, 0] := by decide +kernel -- V-R-4, V-R-5, V-R-9

/-! ## Witnesses: a state and operands that meet the hypotheses of each statement, clause by clause -/

/-- The reset state with an instruction at pc. -/
def placed (w : Nat) : State := State.reset.withFetchWord 32 w

/-- The next step's inputs. -/
def State.given (s : State) (p : Pins) : State := { s with env := [p] }

/-- Nothing of higher rank is due. -/
abbrev quiet (s u : State) : Prop :=
  s.params.wf = true ∧ u.pins.reset = false ∧ u.lockedUp = false ∧ (u.asleep = true → u.wakes = true) ∧
    u.takesNmi = false ∧ u.takenInterrupt = none ∧ u.reportedBusError = none

theorem witness_DecodeInvertsEncode :
    ∀ i ∈ [Instr.add 31 31 31, .csrrw 31 31 0xFFF, .jal 0 0x80000, .cAddi4spn 7 0xFF, .cAddi 0 1, .cLui 31 0x20],
      i.wf = true := by decide +kernel

theorem witness_EncodeInvertsDecode :
    decodeCode (.word 0xFFFFF2B7) = .ok (.lui 5 0xFFFFF) ∧ decodeCode (.half 0x1FFC) = .ok (.cAddi4spn 7 0xFF) := by
  decide +kernel

theorem witness_StepRunsDecodedInstruction :
    quiet (placed 0x007302B3) (placed 0x007302B3).sample ∧
    (placed 0x007302B3).sample.fetchCode .machine 0 = .ok (.word 0x007302B3) ∧
    decodeCode (.word 0x007302B3) = .ok (.add 5 6 7) := by decide +kernel

theorem witness_StepRunsDecodedInstruction_waking :
    let s := State.given { placed 0x007302B3 with asleep := true } { Pins.idle with extEvent := true }
    quiet s s.sample ∧ s.sample.asleep = true := by decide +kernel

theorem witness_FetchReadsMemoryBytes_half :
    ∀ n ∈ ([0, 0xDFFFFFFE, 0xF0000000, 0xFFFFFFFE] : List Nat),
      let b : Word := BitVec.ofNat 32 n
      base.pmpAllows .execute .machine b = true ∧ inTcip b = false ∧ fetchError base.params b = false ∧
        base.staleAt b = [] ∧ (base.mem.read b.toNat).extractLsb' 0 2 ≠ 0b11 := by decide +kernel

theorem witness_FetchReadsMemoryBytes_word :
    let s : State := { base with mem := [(0xFFFFFFFE, 0x03)] }
    ∀ n ∈ ([0xFFFFFFFE, 0] : List Nat),
      let b : Word := BitVec.ofNat 32 n
      s.pmpAllows .execute .machine b = true ∧ inTcip b = false ∧ fetchError s.params b = false ∧ s.staleAt b = [] ∧
        (s.mem.read 0xFFFFFFFE).extractLsb' 0 2 = 0b11 := by decide +kernel

/-- User mode at 0x7E, the last halfword of an executable region. -/
def userEdge : State :=
  { State.reset with priv := .user, pc := 0x7E, pmp := [{ cfg := 0x0F, addr := 0x20 }], mem := [(0x7E, 0x03)] }

theorem witness_FetchReadsMemoryBytes_devices :
    ∀ n ∈ ([0xE0000000, 0xE0800FFE, 0xE0801000, 0xE0804FFE, 0xE0805000, 0xEFFFFFFE] : List Nat),
      let a : Word := BitVec.ofNat 32 n
      inTcip a = true ∧ base.pmpAllows .execute .machine a = true ∧ a.toNat % 2 = 0 ∧
        ((base.sourceWord ((a.toNat - 0xE0801000) / 4) >>> (8 * (a.toNat % 4))).setWidth 16 : Half).extractLsb' 0 2 ≠
          0b11 := by decide +kernel

theorem witness_FetchOrDecodeTraps_first :
    let s : State := { State.reset with priv := .user }
    quiet s s.sample ∧ s.sample.fetchHalf .user 0 = .denied 0 := by decide +kernel

theorem witness_FetchOrDecodeTraps_second :
    quiet userEdge userEdge.sample ∧ userEdge.sample.fetchHalf .user 0x7E = .ok 0x0003 ∧ isLong 0x0003 = true ∧
      userEdge.sample.fetchHalf .user (0x7E + 2) = .denied 0x80 := by decide +kernel

theorem witness_FetchOrDecodeTraps_undefined :
    quiet State.reset State.reset.sample ∧ State.reset.sample.fetchCode .machine 0 = .ok (.half 0) ∧
      decodeCode (.half 0) = .error (.undefinedHalf 0) := by decide +kernel

theorem witness_FetchOrDecodeTraps_slot :
    let s : State := { State.reset with params := { Params.default with fpu := .none }, mem := [(1, 0x20)] }
    quiet s s.sample ∧ s.sample.fetchCode .machine 0 = .ok (.half 0x2000) ∧
      decodeCode (.half 0x2000) = .error (.compressedFloat 0x2000) ∧ s.sample.params.fpu = .none := by decide +kernel

theorem witness_ResetMeetsInvariant : Params.default.wf = true ∧
    { Params.default with pmpEntries := 0, clicNumInt := 240, clicIntCtlBits := 5, fpu := .none }.wf = true ∧
    { Params.default with clicNumInt := 1, clicIntCtlBits := 2, fpu := .single }.wf = true := by decide +kernel

theorem witness_StepKeepsInvariant : State.reset.Inv ∧ ∃ t, step State.reset = .next t := by
  refine ⟨?_, _, rfl⟩
  unfold State.Inv
  decide +kernel

/-- The base state with two dirty lines in one set, the lowest and one with the highest address below the devices. -/
def dirtied : State :=
  { base with dirty := [{ line := 0, way := false, older := List.replicate 32 1 },
                        { line := 0x6FFFE00, way := true, older := List.replicate 32 2 }] }

/-- The base state with the data cache on in write-back mode and with the lowest and the highest line kept from before, which
memory has left behind. -/
def keeping : State :=
  { base with
    mhcr := { base.mhcr with de := true, wb := true }
    kept := [{ line := 0, way := false, older := List.replicate 32 0x55 },
             { line := 0x7FFFFFF, way := false, older := List.replicate 32 0xAA }] }

/-- A hit on a kept line finds its contents, and no access does while the data cache is off (rules R180, R184). -/
theorem test_kept_line :
    (keeping.kept.map fun d => ((keeping.withLine d).readLE 0 4, (keeping.withLine d).readLE 0xFFFFFFFC 4)) =
      [(0x55555555, 0), (0, 0xAAAAAAAA)] ∧
    { keeping with mhcr := base.mhcr }.loadValue 0 4 = 0 := by decide +kernel

theorem witness_ResetEventResets :
    let s := State.given dirtied { Pins.idle with reset := true }
    s.params.wf = true ∧ s.mem.wf = true ∧ s.dirtyShape = true ∧ s.sample.pins.reset = true ∧ s.dirty ≠ [] := by
  decide +kernel

theorem witness_NmiEntryAndReturn :
    ∀ s ∈ [State.given vn1 { Pins.idle with nmi := true },
        State.given { base with lockedUp := true, mexstatus := { base.mexstatus with lockup := true } }
          { Pins.idle with nmi := true }],
      s.params.wf = true ∧ s.sample.pins.reset = false ∧ s.sample.pins.nmi = true ∧ s.sample.mexstatus.nmi = false := by
  decide +kernel

theorem witness_HeldHartWaits_locked :
    let s : State := { State.reset with lockedUp := true }
    s.params.wf = true ∧ s.sample.pins.reset = false ∧ s.sample.lockedUp = true ∧ s.sample.pins.nmi = false := by
  decide +kernel

theorem witness_HeldHartWaits_locked_nmi :
    let s := State.given { State.reset with lockedUp := true, mexstatus := { State.reset.mexstatus with nmi := true } }
      { Pins.idle with nmi := true }
    s.params.wf = true ∧ s.sample.pins.reset = false ∧ s.sample.lockedUp = true ∧ s.sample.mexstatus.nmi = true := by
  decide +kernel

theorem witness_HeldHartWaits_asleep :
    let s : State := { State.reset with asleep := true }
    s.params.wf = true ∧ s.sample.pins.reset = false ∧ s.sample.lockedUp = false ∧ s.sample.asleep = true ∧
      s.sample.pins.nmi = false ∧ s.sample.pins.extEvent = false ∧ s.sample.presented = none := by decide +kernel

/-- Interrupt 16 pending and enabled at level 0xFF. -/
def pending16 (shv : Bool) : State :=
  State.given
    { base with
      mstatus := { base.mstatus with mie := true }
      clic := { base.clic with
                sources := base.clic.sources.map fun c =>
                  if c.id = 16 then { c with ie := true, ctl := 0xFF, shv := shv, ip := true } else c } }
    { Pins.idle with intVld := 1 }

theorem witness_HeldHartWaits_masked :
    let s : State := { pending16 false with asleep := true, mil := 0xFF, mexstatus := { base.mexstatus with wfe := false } }
    s.params.wf = true ∧ s.sample.pins.reset = false ∧ s.sample.lockedUp = false ∧ s.sample.asleep = true ∧
      s.sample.pins.nmi = false ∧ s.sample.mexstatus.wfe = false ∧
      s.sample.presented = some { id := 16, level := 0xFF, shv := false } ∧ s.sample.mil = 0xFF := by decide +kernel

theorem witness_ExceptionEntry : base.mexstatus.exptVld = false ∧ base.mexstatus.nmi = false := by decide +kernel

theorem witness_LockupInsteadOfEntry :
    { base with mexstatus := { base.mexstatus with exptVld := true } }.mexstatus.exptVld = true ∧
    { base with mexstatus := { base.mexstatus with nmi := true } }.mexstatus.nmi = true ∧
    Cause.instrAccessFault ≠ .breakpoint ∧ Cause.instrAccessFault ≠ .ecallFromU ∧ Cause.instrAccessFault ≠ .ecallFromM := by
  decide +kernel

theorem witness_MretReturns :
    base.priv = .machine ∧ ¬ (base.mexstatus.nmi = true ∧ base.mcause.interrupt = false ∧ base.mcause.code = 24) ∧
    vn1.nmiEntry.priv = .machine ∧ vn1.nmiEntry.mexstatus.nmi = true ∧ vn1.nmiEntry.mcause.interrupt = false ∧
    vn1.nmiEntry.mcause.code = 24 ∧ base.mexstatus.exptVld = false ∧ base.mexstatus.nmi = false := by decide +kernel

/-- The base state in user mode. -/
def user : State := { base with priv := .user }

theorem witness_MachineOnlyIllegal : user.priv = .user ∧ State.reset.mxstatus.thead = false := by decide +kernel

theorem witness_InterruptEntryNonVectored :
    let s := pending16 false
    let u := s.sample
    s.params.wf = true ∧ u.pins.reset = false ∧ u.lockedUp = false ∧ (u.asleep = true → u.wakes = true) ∧
      u.takesNmi = false ∧ u.takenInterrupt = some { id := 16, level := 0xFF, shv := false } := by decide +kernel

theorem witness_InterruptEntryVectored_ready :
    let s := pending16 true
    let u := s.sample
    s.params.wf = true ∧ u.pins.reset = false ∧ u.lockedUp = false ∧ (u.asleep = true → u.wakes = true) ∧
      u.takesNmi = false ∧ u.takenInterrupt = some { id := 16, level := 0xFF, shv := true } ∧ u.readCsr .mtvt = 0 ∧
      (∀ n ∈ ([64, 66] : List Nat), let b : Word := BitVec.ofNat 32 n; u.pmpAllows .execute .machine b = true ∧ inTcip b = false ∧
        fetchError u.params b = false ∧ u.staleAt b = []) := by decide +kernel

theorem witness_InterruptEntryVectored_denied :
    let s : State := { pending16 true with pmp := [{ cfg := 0x98, addr := 0xFFFFFFFF }] }
    let u := s.sample
    s.params.wf = true ∧ u.pins.reset = false ∧ u.lockedUp = false ∧ (u.asleep = true → u.wakes = true) ∧
      u.takesNmi = false ∧ u.takenInterrupt = some { id := 16, level := 0xFF, shv := true } ∧ u.readCsr .mtvt = 0 ∧
      u.pmpAllows .execute .machine 64 = false ∧ u.mexstatus.exptVld = false := by decide +kernel

theorem witness_UserMachineBoundary_enters :
    ∃ t, exec .ecall user = .next t ∧ user.priv = .user ∧ t.priv = .machine := ⟨_, rfl, rfl, rfl⟩

theorem witness_UserMachineBoundary_leaves :
    ∃ t, exec .mret base = .next t ∧ base.priv = .machine ∧ t.priv = .user := ⟨_, rfl, rfl, rfl⟩

theorem witness_UserMachineBoundary_step :
    ∃ t, step (placed 0x30200073) = .next t ∧ (placed 0x30200073).sample.priv = .machine ∧ t.priv = .user :=
  ⟨_, rfl, rfl, rfl⟩

theorem witness_UserKeepsMachineState :
    ∃ t, exec (.add 5 6 7) user = .next t ∧ user.priv = .user ∧ user.dataPriv = .user ∧ t.priv = .user :=
  ⟨_, rfl, rfl, rfl, rfl⟩

theorem witness_PmpFirstMatchDecides_match :
    pmp4.pmp[1]? = some ⟨0x1B, 0x40000F⟩ ∧ (⟨0x1B, 0x40000F⟩ : PmpEntry).matches (pmp4.pmpBelow 1) 0x0100007F = true ∧
    pmp4.pmp[0]? = some ⟨0x9F, 0x3FFF⟩ ∧ (⟨0x9F, 0x3FFF⟩ : PmpEntry).matches (pmp4.pmpBelow 0) 0x0100007F = false := by
  decide +kernel

theorem witness_PmpFirstMatchDecides_none :
    ∀ i ∈ [0, 1, 2, 3], ∃ e, pmp4.pmp[i]? = some e ∧ e.matches (pmp4.pmpBelow i) 0x02000000 = false := by
  intro i hi
  simp only [List.mem_cons, List.not_mem_nil, or_false] at hi
  rcases hi with rfl | rfl | rfl | rfl <;> exact ⟨_, rfl, by decide +kernel⟩

theorem witness_PmpRegions_modes :
    (0x07 : Byte).extractLsb' 3 2 = 0b00 ∧ (0x17 : Byte).extractLsb' 3 2 = 0b10 ∧ (0x8E : Byte).extractLsb' 3 2 = 0b01 ∧
    (0x9F : Byte).extractLsb' 3 2 = 0b11 := by decide +kernel

theorem witness_PmpRegions_napot :
    ∀ p ∈ ([(0x40000F, 4), (0x3FFF, 14), (0x1FFFFFFF, 29), (0x7FFFFFFF, 31)] : List (Word × Nat)),
      4 ≤ p.2 ∧ p.2 ≤ 31 ∧ (∀ k ∈ List.range 32, 4 ≤ k → k < p.2 → p.1.getLsbD k = true) ∧ p.1.getLsbD p.2 = false := by
  decide +kernel

theorem witness_PmpRegions_all : ∀ k ∈ List.range 32, (0xFFFFFFFF : Word).getLsbD k = true := by decide +kernel

theorem witness_LockedPmpEntriesStay_step :
    (∃ t, step pmp4 = .next t) ∧ pmp4.sample.pins.reset = false ∧ pmp4.pmp[2]? = some ⟨0x8E, 0x440000⟩ ∧
      (0x8E : Byte).getLsbD 7 = true ∧ (0x8E : Byte).extractLsb' 3 2 = 0b01 := ⟨⟨_, rfl⟩, by decide +kernel⟩

theorem witness_LockedPmpEntriesStay_writes :
    pmp4.priv = .machine ∧ pmp4.pmp[3]? = some ⟨0x1D, 0x4803FF⟩ ∧ (0x1D : Byte).getLsbD 7 = false ∧ pmp4.pmp[4]? = none ∧
      base.priv = .machine ∧ base.pmp[15]? = some ⟨0, 0⟩ := by decide +kernel

theorem witness_LockedPmpEntriesStay_reset :
    let s := State.given pmp4 { Pins.idle with reset := true }
    s.sample.pins.reset = true ∧ ∃ t, step s = .next t := ⟨by decide +kernel, _, rfl⟩

theorem witness_PmpDeniedAccessTraps :
    let s := { user with x := (regs [(6, 0x02000000)]).x }
    let a := s.readX 6 + (0 : BitVec 12).signExtend 32
    s.pmpAllows .read s.dataPriv a = false ∧ s.pmpAllows .write s.dataPriv a = false ∧ a.toNat % 4 = 0 ∧
      (s.readX 6).toNat % 4 = 0 := by decide +kernel

theorem witness_PmpProtectsMemory :
    ∃ t, exec (.sw 7 6 0) user = .next t ∧ user.mem.wf = true ∧ user.pmpAllows .write user.dataPriv 0 = false :=
  ⟨_, rfl, by decide +kernel⟩

theorem witness_CsrPureReads :
    csrAt 0x340 = some .mscratch ∧ base.csrAllowed .mscratch false = true ∧
    csrAt 0xFC0 = some .mcpuid ∧ base.csrAllowed .mcpuid false = true ∧
    csrAt 0x001 = some .fflags ∧ user.csrAllowed .fflags false = true := by decide +kernel

theorem witness_CsrFormsOnMscratch : base.priv = .machine ∧ base.fsTied = true := by decide +kernel

theorem witness_CsrIllegalAccess :
    csrAt 0x000 = none ∧ csrAt 0xFFF = none ∧ user.priv = .user ∧ (0x300 / 0x100 % 4 = 3) ∧ (0xFFF / 0x100 % 4 = 3) ∧
    user.mcounteren.getLsbD (0xC91 % 0x80) = false ∧ State.reset.mstatus.fs = 0 := by decide +kernel

theorem witness_CsrReadback :
    base.priv = .machine ∧ base.fsTied = true ∧ base.dirty = [] ∧ base.params.mhintAee < 32 ∧
    base.params.mexstatus = Params.default.mexstatus ∧ base.params.mxstatus = Params.default.mxstatus ∧
    ((regs [(6, 0xC0000000)]).readX 6).extractLsb' 30 2 = 3 ∧ ((regs [(6, 0x80000000)]).readX 6).extractLsb' 30 2 ≠ 3 ∧
    base.params.fpu ≠ .none ∧ base.mstatus.fs ≠ 0 ∧ base.findHpm 3 ≠ none ∧ base.findHpm 17 ≠ none ∧
    base.hpmShape = true ∧ dirtied.dirty ≠ [] ∧ (regs [(6, 4)]).readX 6 ≠ 0 ∧
    ((regs [(6, 4)]).readX 6).getLsbD 2 ≠ dirtied.mhcr.wb ∧ (base.readX 6).getLsbD 2 = dirtied.mhcr.wb ∧
    (base.readX 6).getLsbD 3 = dirtied.mhcr.wa ∧ dirtied.mhcr.de = false := by decide +kernel

/-- Four entries of which the first and the third are locked, the third TOR; twelve do not exist. -/
def pmpLocks : State :=
  { base with
    params := { Params.default with pmpEntries := 4 }
    pmp := [{ cfg := 0x80, addr := 1 }, { cfg := 0x1F, addr := 2 }, { cfg := 0x89, addr := 3 }, { cfg := 0x0F, addr := 4 }] }

theorem witness_CsrReadback_pmp :
    pmpLocks.priv = .machine ∧ pmpLocks.fsTied = true ∧ pmpLocks.pmpShape = true ∧ pmpLocks.params.wf = true ∧
    pmpLocks.readCsr (.pmpcfg 0) = 0x0F891F80 ∧ pmpLocks.readCsr (.pmpcfg 1) = 0 ∧
    pmpLocks.readCsr (.pmpaddr 3) = 4 ∧ pmpLocks.readCsr (.pmpaddr 4) = 0 := by decide +kernel

theorem witness_MscratchcswSwaps :
    (base.readCsr .mcause).extractLsb' 28 2 ≠ 0b11 ∧
    ({ base with mstatus := { base.mstatus with mpp := .machine } }.readCsr .mcause).extractLsb' 28 2 = 0b11 ∧
    (base.readCsr .mcause).extractLsb' 16 8 = 0 ∧ (base.readCsr .mintstatus).extractLsb' 24 8 = 0 ∧
    ({ base with mil := 0x9F }.readCsr .mintstatus).extractLsb' 24 8 ≠ 0 := by decide +kernel

theorem witness_MnxtiClaims_claim :
    (pending16 false).priv = .machine ∧ (pending16 false).presented = some { id := 16, level := 0xFF, shv := false } ∧
      (pending16 false).mcause.mpil < 0xFF := by decide +kernel

theorem witness_MnxtiClaims_nothing :
    base.presented = none ∧ (pending16 true).presented = some { id := 16, level := 0xFF, shv := true } ∧
    { pending16 false with mcause := { base.mcause with mpil := 0xFF } }.presented =
      some { id := 16, level := 0xFF, shv := false } := by decide +kernel

theorem witness_UserCounterImages :
    user.priv = .user ∧ (∀ k ∈ [0, 1, 2, 3, 17], user.mcounteren.getLsbD k = false) ∧
    (∀ k ∈ [0, 2, 3, 17], { user with mcounteren := 0x0003E31F }.mcounteren.getLsbD k = true) := by decide +kernel

theorem witness_DivideResults :
    (regs [(6, 0x80000000)]).readX 7 = 0 ∧ (regs [(6, 0x80000000), (7, 0xFFFFFFFF)]).readX 7 = 0xFFFFFFFF ∧
    (regs [(6, 0x80000000), (7, 0xFFFFFFFF)]).readX 6 = 0x80000000 ∧ (regs [(7, 1)]).readX 7 ≠ 0 := by decide +kernel

theorem witness_BranchResults :
    let s := regs [(6, 0x80000000), (7, 0x7FFFFFFF)]
    s.readX 6 = s.readX 6 ∧ s.readX 6 ≠ s.readX 7 ∧ (s.readX 6).toInt < (s.readX 7).toInt ∧
      (s.readX 7).toNat < (s.readX 6).toNat ∧ ¬ (s.readX 7).toInt < (s.readX 6).toInt ∧
      ¬ (s.readX 6).toNat < (s.readX 7).toNat := by decide +kernel

theorem witness_CompressedResults : base.readX 8 = 0 ∧ (regs [(8, 1)]).readX 8 ≠ 0 := by decide +kernel

theorem witness_CompressedEqualsExpansion :
    let mis := noSplit (regs [(8, 0x102)])
    mis.trapsMisaligned .load 0x102 4 = true ∧ mis.trapsMisaligned .store 0x102 4 = true ∧
    base.trapsMisaligned .load 0xFFFFFFFC 4 = false ∧ base.checkAccess .load 0xFFFFFFFC 4 = .ok ∧
    base.checkAccess .store 0xFFFFFFFC 4 = .ok ∧ base.checkAccess .load 0xEFFFFFFC 4 = .refused (.deviceAccess 0xEFFFFFFC) ∧
    base.checkAccess .store 0xEFFFFFFC 4 = .refused (.deviceAccess 0xEFFFFFFC) ∧
    user.checkAccess .load 0x100 4 = .denied 0x100 ∧ user.checkAccess .store 0x100 4 = .denied 0x100 ∧
    base.readX 8 = 0 ∧ (regs [(8, 1)]).readX 8 ≠ 0 := by decide +kernel

theorem witness_LoadResults :
    base.mem.wf = true ∧ keeping.mem.wf = true ∧ keeping.plainAccess .load 0 4 ∧ keeping.plainAccess .load 0xFFFFFFFC 4 ∧
    base.plainAccess .load 0xFFFFFFFF 1 ∧ base.plainAccess .load 0xFFFFFFFE 2 ∧ base.plainAccess .load 0xFFFFFFFC 4 ∧
    base.plainAccess .load 0 4 ∧ base.plainAccess .load 0xDFFFFFFC 4 ∧ base.plainAccess .load 0xF0000000 4 := by
  unfold State.plainAccess; decide +kernel

theorem witness_StoreResults :
    base.mem.wf = true ∧ keeping.mem.wf = true ∧ keeping.plainAccess .store 0 4 ∧ keeping.plainAccess .store 0xFFFFFFFC 4 ∧
    base.plainAccess .store 0xFFFFFFFF 1 ∧ base.plainAccess .store 0xFFFFFFFE 2 ∧
    base.plainAccess .store 0xFFFFFFFC 4 ∧ base.plainAccess .store 0 4 := by
  unfold State.plainAccess; decide +kernel

theorem witness_MisalignedAccess_traps :
    (noSplit base).mem.wf = true ∧ (noSplit base).mxstatus.mm = false ∧ (0x101 : Word).toNat % 2 ≠ 0 ∧
    (0x103 : Word).toNat % 4 ≠ 0 := by decide +kernel

theorem witness_MisalignedAccess_splits :
    base.mxstatus.mm = true ∧ ∀ k ∈ [Access.load, .store], ∀ i ∈ List.range 4,
      let b : Word := 0xFFFFFFFF + BitVec.ofNat 32 i
      base.pmpAllows k.perm base.dataPriv b = true ∧ inTcip b = false ∧ dataError base.params k b = false ∧
        (attrOf base.params.sysmap b).strongOrder = false := by decide +kernel

/-- A platform with a strong-order region below 0x1000000 and one above it that answers data accesses with errors. -/
def roughParams : Params :=
  { Params.default with
    sysmap := { bound := 0x1000, attr := { strongOrder := true, cacheable := false, bufferable := false } } ::
      Params.default.sysmap
    busErrors := [{ lo := 0x01000000, hi := 0x0100000F, fetch := true, load := true, store := true }] }

/-- The base state on that platform. -/
def rough : State := { regs [(6, 0x01000000)] with params := roughParams }

theorem witness_MisalignedAccess_refused :
    roughParams.wf = true ∧ rough.mxstatus.mm = true ∧ rough.pmpAllows .read rough.dataPriv 1 = true ∧
    rough.pmpAllows .write rough.dataPriv 1 = true ∧ inTcip 1 = false ∧
    (attrOf rough.params.sysmap 1).strongOrder = true := by decide +kernel

/-- The inputs that make a bus error wait, or get lost. -/
def latePins (lose : Bool) : Pins := { Pins.idle with deferBusError := true, loseBusError := lose }

theorem witness_BusErrorAccess :
    ∀ s ∈ [{ rough with aee := true }, rough, { rough with pins := latePins false }, { rough with pins := latePins true }],
      ∀ k ∈ [Access.load, .store, .amo, .loadReserved, .storeConditional], ∀ n ∈ [1, 2, 4],
        (0x01000000 : Word).toNat % n = 0 ∧ inTcip 0x01000000 = false ∧
        s.pmpAllows k.perm s.dataPriv 0x01000000 = true ∧ dataError s.params k 0x01000000 = true ∧
        s.readX 6 = 0x01000000 ∧ s.mem.wf = true ∧ s.mexstatus.exptVld = false ∧ s.mexstatus.nmi = false := by
  decide +kernel

/-- Three bytes that the platform answers with errors, before one that the PMP denies, at 0x01000080. -/
def walled (lose : Bool) : State :=
  { regs [(6, 0x0100007D)] with
    params := { Params.default with
                busErrors := [{ lo := 0x0100007D, hi := 0x0100007F, fetch := false, load := true, store := true }] }
    pmp := { cfg := 0x98, addr := 0x0040002F } :: base.pmp.tail
    pins := latePins lose }

theorem witness_MisalignedAccess_ends :
    (walled false).params.wf = true ∧ (walled false).mem.wf = true ∧ (walled false).mxstatus.mm = true ∧
    (walled false).aee = false ∧ (walled false).readX 6 = 0x0100007D ∧
    ∀ k ∈ [Access.load, .store], (walled false).pmpAllows k.perm (walled false).dataPriv 0x01000080 = false ∧
      ∀ i ∈ List.range 3, let b : Word := 0x0100007D + BitVec.ofNat 32 i
        (walled false).pmpAllows k.perm (walled false).dataPriv b = true ∧ inTcip b = false ∧
        (attrOf (walled false).params.sysmap b).strongOrder = false ∧
        (attrOf (walled false).params.sysmap b).bufferable = true ∧ dataError (walled false).params k b = true := by
  decide +kernel

/-- A misaligned access whose earlier bytes get bus errors that are lost, or that wait, still takes the PMP's access fault
(rules R147, R160). -/
theorem test_denial_behind_bus_error :
    ([true, false].map fun lose =>
      match execSw 0 6 0 (walled lose) with
      | .next t => (t.mcause.code.toNat, t.mtval, t.mexstatus.buserr, t.busErrors.map BusError.addr)
      | _ => (0, 0, false, [])) = [(7, 0x01000080, false, []), (7, 0x01000080, false, [0x0100007D])] := by decide +kernel

theorem witness_BusErrorAccess_modes :
    { rough with aee := true }.aee = true ∧ rough.aee = false ∧ rough.pins.deferBusError = false ∧
    (latePins false).deferBusError = true ∧ (latePins false).loseBusError = false ∧ (latePins true).loseBusError = true ∧
    (attrOf rough.params.sysmap 0x01000000).bufferable = true ∧
    (attrOf rough.params.sysmap 0x01000000).strongOrder = false := by decide +kernel

theorem witness_BusErrorAccess_fetch :
    ∀ s ∈ [{ rough with pc := 0x01000000 }, { rough with pc := 0x00FFFFFE, mem := [(0x00FFFFFE, 0x03)] }],
      let u := s.sample
      quiet s u ∧ u.pmpAllows .execute u.priv 0x01000000 = true ∧ inTcip 0x01000000 = false ∧
        fetchError u.params 0x01000000 = true ∧ u.asleep = false ∧
        (u.pc = 0x00FFFFFE → u.fetchHalf u.priv u.pc = .ok 0x0003 ∧ isLong 0x0003 = true) := by decide +kernel

/-- A platform that answers only the upper word of the 8 bytes at 0x01000008 with an error. -/
def halfRough : State :=
  { rough with
    params := { roughParams with
                busErrors := [{ lo := 0x0100000C, hi := 0x0100000F, fetch := false, load := true, store := true }] } }

theorem witness_BusErrorAtomicsAndFloats :
    rough.params.fpu = .double ∧ rough.mstatus.fs ≠ 0 ∧ rough.reservation ≠ some 0x01000000 ∧
    { rough with reservation := some 0x01000000 }.reservation = some (rough.readX 6) ∧
    (0x01000008 : Word).toNat % 8 = 0 ∧ halfRough.params.wf = true ∧ halfRough.mem.wf = true ∧
    ∀ k ∈ [Access.load, .store], halfRough.pmpAllows k.perm halfRough.dataPriv 0x01000008 = true ∧
      halfRough.pmpAllows k.perm halfRough.dataPriv (0x01000008 + 4) = true ∧
      dataError halfRough.params k 0x01000008 = false ∧ dataError halfRough.params k (0x01000008 + 4) = true := by
  decide +kernel

theorem witness_BusErrorAccess_reported :
    let s : State := { base with busErrors := [{ store := true, addr := 0x01000000 }] }
    let u := s.sample
    s.params.wf = true ∧ u.pins.reset = false ∧ u.lockedUp = false ∧ (u.asleep = true → u.wakes = true) ∧
      u.takesNmi = false ∧ u.takenInterrupt = none ∧ u.pins.deferBusError = false ∧
      u.busErrors = [{ store := true, addr := 0x01000000 }] ∧ u.mexstatus.exptVld = false ∧ u.mexstatus.nmi = false ∧
      { s with mexstatus := { s.mexstatus with exptVld := true } }.sample.mexstatus.exptVld = true := by
  decide +kernel

theorem witness_AmoResults :
    base.mem.wf = true ∧ base.plainAccess .amo 0xFFFFFFFC 4 ∧ keeping.mem.wf = true ∧ keeping.plainAccess .amo 0 4 ∧
    (0xFFFFFFFE : Word).toNat % 4 ≠ 0 := by
  unfold State.plainAccess; decide +kernel

theorem witness_LoadReservedStoreConditional :
    let s : State := { base with reservation := some 0xFFFFFFFC }
    s.mem.wf = true ∧ s.plainAccess .loadReserved 0xFFFFFFFC 4 ∧ s.plainAccess .storeConditional 0xFFFFFFFC 4 ∧
      s.reservation = some 0xFFFFFFFC ∧ base.reservation ≠ some 0xFFFFFFFC ∧ (0xFFFFFFFD : Word).toNat % 4 ≠ 0 := by
  unfold State.plainAccess; decide +kernel

theorem witness_DeviceRegisters_machine :
    base.dataPriv = .machine ∧ ∀ n ∈ ([0xE0000000, 0xE0004000, 0xE0004004, 0xE000BFF8, 0xE000BFFC, 0xE0800000, 0xE0800004,
        0xE0800008, 0xE0801000, 0xE0801001, 0xE0801002, 0xE0801003, 0xE0804FFD, 0xE0804FFE, 0xE0804FFC, 0xE0804FFF] : List Nat),
      let a : Word := BitVec.ofNat 32 n
      base.pmpAllows .write .machine a = true ∧ base.pmpAllows .read .machine a = true ∧
        (regs [(5, a)]).readX 5 + BitVec.ofInt 32 (0 : BitVec 12).toInt = a := by decide +kernel

theorem witness_DeviceRegisters_user :
    (∀ n ∈ ([0xE0000000, 0xEFFFFFF8] : List Nat), inTcip (BitVec.ofNat 32 n) = true ∧ n % 8 = 0) ∧
    inTcip 0xEFFFFFFF = true ∧ user.dataPriv = .user ∧ user.fpEnabled = true ∧ user.fpEnabledD = true := by
  decide +kernel

/-- The base state with a single-precision unit. -/
def single : State := { base with params := { base.params with fpu := .single } }

theorem witness_SingleResults :
    ∀ s ∈ [base, single], s.params.fpu ≠ .none ∧ s.mstatus.fs ≠ 0 ∧ s.rounding 0 = some .rne ∧ s.rounding 4 = some .rmm ∧
      s.rounding 7 = some .rne := by decide +kernel

theorem witness_DoubleResults :
    base.params.fpu = .double ∧ base.mstatus.fs ≠ 0 ∧ base.rounding 4 = some .rmm ∧ base.rounding 7 = some .rne := by
  decide +kernel

theorem witness_FloatLoadsAndStores :
    base.mem.wf = true ∧ base.params.fpu = .double ∧ base.mstatus.fs ≠ 0 ∧
    base.plainAccess .load 0xFFFFFFFC 4 ∧ base.plainAccess .store 0xFFFFFFFC 4 ∧
    base.plainAccess .load 0xFFFFFFF8 8 ∧ dataError base.params .load (0xFFFFFFF8 + 4) = false ∧
    base.plainAccess .store 0xFFFFFFF8 8 ∧ dataError base.params .store (0xFFFFFFF8 + 4) = false := by
  unfold State.plainAccess; decide +kernel

theorem witness_FloatLoadsAndStores_traps :
    (noSplit base).mxstatus.mm = false ∧ (0x102 : Word).toNat % 4 ≠ 0 ∧ (0x104 : Word).toNat % 8 ≠ 0 ∧
    user.pmpAllows .read user.dataPriv 0x100 = false ∧ user.pmpAllows .write user.dataPriv 0x100 = false ∧
    (0x100 : Word).toNat % 8 = 0 ∧ user.params.fpu = .double ∧ user.mstatus.fs ≠ 0 := by decide +kernel

theorem witness_FloatIllegal :
    State.reset.mstatus.fs = 0 ∧ single.params.fpu ≠ .double ∧
    { base with params := { base.params with fpu := .none } }.params.fpu = .none ∧ (5 : BitVec 3).toNat = 5 ∧
    (7 : BitVec 3).toNat = 7 ∧ 5 ≤ { base with fcsr := { base.fcsr with frm := 5 } }.fcsr.frm.toNat ∧
    ¬ 5 ≤ { base with fcsr := { base.fcsr with frm := 4 } }.fcsr.frm.toNat := by decide +kernel

theorem witness_FloatSpecialValues :
    (∀ F ∈ [b32, b64], F.isPattern 0 ∧ F.isPattern (2 * F.signBit - 1) ∧ F.nanPattern (2 * F.signBit - 1) ∧
      F.signalling (F.infBits + 1) ∧ ¬ F.signalling F.nan ∧ F.isInf F.infBits ∧ F.isInf (F.signBit + F.infBits) ∧
      F.isFinite (F.infBits - 1) ∧ F.isFinite F.signBit ∧ F.signBit % F.signBit = 0 ∧ 1 % F.signBit ≠ 0) := by
  unfold Fmt.signalling Fmt.nanPattern Fmt.isInf Fmt.isFinite Fmt.isPattern; decide +kernel

theorem witness_FloatSpecialValues_sum :
    b32.value 0x3F800000 + b32.value 0xBF800000 = 0 ∧ b32.value 0 = b32.value 0x80000000 ∧
    b64.value 1 + b64.value 0x8000000000000001 = 0 ∧
    (if false then -1 else 1) * (b32.value 0x3F800000 * b32.value 0x3F800000) +
      (if true then -1 else 1) * b32.value 0x3F800000 = 0 := by decide +kernel

theorem witness_FloatRoundsExactResult :
    b32.isFinite 0 ∧ b32.isFinite 0x7F7FFFFF ∧ b32.isFinite 0xFF7FFFFF ∧ b64.isFinite 1 ∧
    b64.isFinite 0xFFEFFFFFFFFFFFFF ∧ b32.value 1 ≠ 0 ∧ 0 ≤ b32.value 0x80000000 ∧ 0 ≤ b64.value 1 := by
  unfold Fmt.isFinite Fmt.isPattern; decide +kernel

theorem witness_FloatComparesByValue :
    ∀ F ∈ [b32, b64], ¬ F.nanPattern F.infBits ∧ F.nanPattern (F.infBits + 1) ∧ F.signalling (F.infBits + 1) ∧
      2 ^ F.fracBits ≤ 2 ^ F.fracBits % F.signBit ∧ 1 % F.signBit < 2 ^ F.fracBits ∧ 1 % F.signBit ≠ 0 := by
  unfold Fmt.signalling Fmt.nanPattern Fmt.isPattern; decide +kernel

theorem witness_FloatConversions :
    b32.isFinite 0x4F000000 ∧ b64.isFinite 0x41E0000000000000 ∧ b32.nanPattern 0x7FC00000 ∧ b32.isInf 0xFF800000 ∧
    b32.signalling 0x7F800001 ∧ b64.signalling 0x7FF0000000000001 ∧ b64.isInf 0x7FF0000000000000 ∧
    |(4294967296 : ℤ)| ≤ 2 ^ 32 := by
  unfold Fmt.signalling Fmt.nanPattern Fmt.isInf Fmt.isFinite Fmt.isPattern; decide +kernel

theorem witness_CacheInstructions :
    dirtied.params.wf = true ∧ dirtied.mem.wf = true ∧ dirtied.dirtyShape = true ∧ dirtied.mxstatus.thead = true ∧
    dirtied.priv = .machine ∧ dirtied.dirty.length = 2 := by decide +kernel

theorem witness_CacheInstructions_kept :
    keeping.params.wf = true ∧ keeping.mem.wf = true ∧ keeping.dirtyShape = true ∧ keeping.keptShape = true ∧
    keeping.mxstatus.thead = true ∧ keeping.priv = .machine ∧ keeping.dirty = [] ∧ keeping.kept.length = 2 ∧
    keeping.mhcr.de = true ∧ (keeping.readX 0).getLsbD 1 = false ∧ base.mhcr.de = false := by decide +kernel

theorem witness_FencesAndSleep :
    base.mxstatus.thead = true ∧ base.priv = .machine ∧ base.dirty = [] ∧ inTcip 0xFFFFFFFE = false ∧
    base.fetchHalf .machine 0xFFFFFFFE = .ok 0 := by decide +kernel

theorem witness_LevelsAndArbitration :
    (pending16 false).clicShape = true ∧ (pending16 false).sample.takenInterrupt ≠ none ∧ base.presented = none := by
  decide +kernel

/-- The timer line rises with MTIME = MTIMECMP, MSIP is line 3, and a falling edge of line 16 is latched (rules R663, R685). -/
theorem test_lines_sampled :
    let src := fun (i : Nat) (trig : BitVec 2) (line : Bool) =>
      { id := i, ip := false, ie := false, trig := trig, shv := false, ctl := 0x1F, line := line, edge := false : ClicSource }
    let s : State :=
      { State.given base { Pins.idle with sysCntAdvance := 5 } with
        mtime := 5, clint := { msip := true, mtimecmp := 10 }
        clic := { base.clic with sources := [src 3 0 false, src 7 0 false, src 11 1 true, src 16 3 true] } }
    s.sample.clic.sources.map (fun c => (c.id, c.ip, c.line)) =
      [(3, true, true), (7, true, true), (11, false, false), (16, true, false)] := by decide +kernel

end Sys2Proof.Tests
end

section
/-! SUPPORT. What one instruction can do to the state: it retires or traps with its data changed, or it is one of the few
that change machine state (CSR instructions, WFI, MRET). -/

namespace Sys2Proof.Machine

open Sys2Proof.Config

/-! ## Even addresses (rule R23) -/

theorem even_add {v w : Word} (hv : v.getLsbD 0 = false) (hw : w.getLsbD 0 = false) : (v + w).getLsbD 0 = false := by
  simp only [BitVec.getLsbD, Nat.testBit_zero, decide_eq_false_iff_not, BitVec.toNat_add] at *
  omega

theorem even_evenTarget (v : Word) : (evenTarget v).getLsbD 0 = false := by simp [evenTarget]

/-- A field scaled by 2 and sign-extended. -/
theorem even_scaled {n : Nat} (v : BitVec n) : ((v ++ (0 : BitVec 1)).signExtend 32).getLsbD 0 = false := by
  simp [BitVec.getElem_signExtend, BitVec.getElem_append]

theorem even_handler (s : State) : s.handler.getLsbD 0 = false := by
  rw [State.handler, BitVec.getLsbD_append]; simp

theorem even_mtvt (s : State) : s.mtvt.getLsbD 0 = false := by
  rw [State.mtvt, BitVec.getLsbD_append]; simp

/-! ## The CLIC's sources keep their shape (rules R677, R685) -/

theorem clicShape_iff {s : State} : s.clicShape = true ↔
    s.clic.sources.map ClicSource.id = sourceIds s.params ∧
      ∀ c ∈ s.clic.sources, c.ctl ||| ctlTied s.params = c.ctl := by
  simp only [State.clicShape, Bool.and_eq_true, List.all_eq_true, beq_iff_eq]

/-- The source keeps its number, and the tied bits of its control value if they were 1. -/
structure ClicSource.KeepsShape (p : Params) (c d : ClicSource) : Prop where
  id  : d.id = c.id
  ctl : c.ctl ||| ctlTied p = c.ctl → d.ctl ||| ctlTied p = d.ctl

theorem ClicSource.KeepsShape.refl (p : Params) (c : ClicSource) : c.KeepsShape p c := ⟨rfl, fun h => h⟩

theorem ClicSource.KeepsShape.trans {p : Params} {c d e : ClicSource} (h : c.KeepsShape p d) (k : d.KeepsShape p e) :
    c.KeepsShape p e := ⟨k.id.trans h.id, fun hc => k.ctl (h.ctl hc)⟩

theorem ClicSource.clear_keepsShape (p : Params) (ctr : Nat) (c : ClicSource) : c.KeepsShape p (c.clear ctr) := by
  unfold ClicSource.clear; split <;> exact ⟨rfl, fun h => h⟩

theorem ClicSource.writeByte_keepsShape (p : Params) (ctr k : Nat) (v : Byte) (c : ClicSource) :
    c.KeepsShape p (c.writeByte p ctr k v) := by
  unfold ClicSource.writeByte
  split
  · unfold ClicSource.writeIp
    split
    · split
      · exact ⟨rfl, fun h => h⟩
      · exact c.clear_keepsShape p ctr
    · exact ClicSource.KeepsShape.refl p c
  · exact ⟨rfl, fun h => h⟩
  · exact ⟨rfl, fun h => h⟩
  · exact ⟨rfl, fun _ => by simp [ClicSource.writeCtl, BitVec.or_assoc]⟩

theorem ClicSource.writeBytes_keepsShape (p : Params) (ctr n k : Nat) (v : Word) (c : ClicSource) :
    c.KeepsShape p (c.writeBytes p ctr n k v) := by
  induction n generalizing k v c with
  | zero => exact ClicSource.KeepsShape.refl p c
  | succ n ih => exact (c.writeByte_keepsShape p ctr k _).trans (ih _ _ _)

theorem mapSources_clicShape {s : State} {g : ClicSource → ClicSource} (hg : ∀ c : ClicSource, c.KeepsShape s.params (g c))
    (h : s.clicShape = true) : (s.mapSources g).clicShape = true := by
  obtain ⟨hid, hctl⟩ := clicShape_iff.mp h
  refine clicShape_iff.mpr ⟨?_, fun c hc => ?_⟩
  · rw [← mapSources_params s g] at hid
    rw [← hid]
    show List.map _ (List.map g _) = _
    rw [List.map_map]
    exact List.map_congr_left fun c _ => (hg c).id
  · obtain ⟨d, hd, rfl⟩ := List.mem_map.mp hc
    exact (hg d).ctl (hctl d hd)

theorem clearPending_clicShape {s : State} (i : Nat) (h : s.clicShape = true) : (s.clearPending i).clicShape = true :=
  mapSources_clicShape (fun c => by
    split
    · exact c.clear_keepsShape _ _
    · exact ClicSource.KeepsShape.refl _ c) h

theorem sampleClic_clicShape {s : State} (h : s.clicShape = true) : s.sampleClic.clicShape = true :=
  mapSources_clicShape (fun _ => ⟨rfl, fun h => h⟩) h

theorem deviceWrite_clicShape {s : State} (a : Word) (n : Nat) (v : Word) (h : s.clicShape = true) :
    (s.deviceWrite a n v).clicShape = true := by
  unfold State.deviceWrite
  split
  · refine mapSources_clicShape (fun c => ?_) h
    split
    · exact c.writeBytes_keepsShape _ _ _ _ _
    · exact ClicSource.KeepsShape.refl _ c
  · split
    · rename_i r _
      cases r <;> exact h
    · exact h

/-! ## Event counters (rule R61) -/

/-- What an event counter is apart from its count. -/
def Hpm.config (h : Hpm) : Nat × BitVec 5 × Bool := (h.index, h.event, h.ready)

theorem Hpm.add_config (h : Hpm) (running : Bool) (k : Nat) : (h.add running k).config = h.config := by
  unfold Hpm.add; split <;> rfl

/-- Counting changes no counter but in its count. -/
theorem countEvent_hpmConfig (s : State) (n k : Nat) :
    (s.countEvent n k).hpm.map Hpm.config = s.hpm.map Hpm.config := by
  show List.map _ (List.map _ _) = _
  rw [List.map_map]
  refine List.map_congr_left fun h _ => ?_
  rw [Function.comp_apply]
  split
  · exact h.add_config _ _
  · rfl

theorem hpmShape_of_config {s t : State} (h : t.hpm.map Hpm.config = s.hpm.map Hpm.config) (hs : s.hpmShape = true) :
    t.hpmShape = true := by
  have index : ∀ l : List Hpm, l.map Hpm.index = (l.map Hpm.config).map Prod.fst := fun l => by
    rw [List.map_map]; rfl
  unfold State.hpmShape at hs ⊢
  rwa [index, h, ← index]

/-! ## Data steps: the part of an instruction's effect that needs no privilege -/

/-- `s` with the data of `t`: registers, memory with its overlays, devices, FS, event counts and waiting bus errors. -/
def State.withData (s t : State) : State :=
  { s with
    x := t.x, f := t.f, fcsr := t.fcsr, mstatus := { s.mstatus with fs := t.mstatus.fs }, mem := t.mem,
    reservation := t.reservation, clint := t.clint, clic := t.clic, dirty := t.dirty, kept := t.kept, stale := t.stale,
    busErrors := t.busErrors, hpm := t.hpm }

/-- From `s` to `u` only data has changed, and every part of it has kept its form; with user mode as the effective privilege the
devices have not changed (rules R665, R679). -/
structure DataStep (s u : State) : Prop where
  frame : u = s.withData u
  fs    : u.mstatus.fs = s.mstatus.fs ∨ s.fpEnabled = true
  mem   : s.mem.wf = true → u.mem.wf = true
  dirty : s.dirtyShape = true → u.dirtyShape = true
  kept  : s.keptShape = true → u.keptShape = true
  hpm   : u.hpm.map Hpm.config = s.hpm.map Hpm.config
  clic  : s.clicShape = true → u.clicShape = true
  user  : s.dataPriv = .user → u.clint = s.clint ∧ u.clic = s.clic

namespace DataStep

variable {s u t : State}

theorem params (h : DataStep s u) : u.params = s.params := (congrArg State.params h.frame :)
theorem pc (h : DataStep s u) : u.pc = s.pc := (congrArg State.pc h.frame :)
theorem mepc (h : DataStep s u) : u.mepc = s.mepc := (congrArg State.mepc h.frame :)
theorem mnmipc (h : DataStep s u) : u.mnmipc = s.mnmipc := (congrArg State.mnmipc h.frame :)
theorem pmp (h : DataStep s u) : u.pmp = s.pmp := (congrArg State.pmp h.frame :)
theorem mcounteren (h : DataStep s u) : u.mcounteren = s.mcounteren := (congrArg State.mcounteren h.frame :)
theorem mcountinhibit (h : DataStep s u) : u.mcountinhibit = s.mcountinhibit := (congrArg State.mcountinhibit h.frame :)
theorem dataPriv (h : DataStep s u) : u.dataPriv = s.dataPriv := (congrArg State.dataPriv h.frame :)

theorem refl (s : State) : DataStep s s := ⟨rfl, .inl rfl, id, id, id, rfl, id, fun _ => ⟨rfl, rfl⟩⟩

theorem trans (h : DataStep s u) (k : DataStep u t) : DataStep s t where
  frame := k.frame.trans (congrArg (·.withData t) h.frame)
  fs := by
    have hp := h.params
    rcases h.fs with e | e
    · exact k.fs.imp (·.trans e) fun en => by
        unfold State.fpEnabled at en ⊢
        rwa [hp, e] at en
    · exact .inr e
  mem := k.mem ∘ h.mem
  dirty := k.dirty ∘ h.dirty
  kept := k.kept ∘ h.kept
  hpm := k.hpm.trans h.hpm
  clic := k.clic ∘ h.clic
  user := fun hu => by
    obtain ⟨c, d⟩ := h.user hu
    obtain ⟨e, f⟩ := k.user (h.dataPriv.trans hu)
    exact ⟨e.trans c, f.trans d⟩

theorem setX (s : State) (r : Reg) (v : Word) : DataStep s (s.setX r v) := by
  obtain ⟨x, e⟩ := setX_frame s r v
  rw [e]; exact ⟨rfl, .inl rfl, id, id, id, rfl, id, fun _ => ⟨rfl, rfl⟩⟩

theorem fsDirty (he : s.fpEnabled = true) : DataStep s s.fsDirty :=
  ⟨rfl, .inr he, id, id, id, rfl, id, fun _ => ⟨rfl, rfl⟩⟩

theorem setF (he : s.fpEnabled = true) (r : Reg) (v : Dword) : DataStep s (s.setF r v) :=
  ⟨rfl, .inr he, id, id, id, rfl, id, fun _ => ⟨rfl, rfl⟩⟩

theorem raiseFlags (he : s.fpEnabled = true) (fl : BitVec 5) : DataStep s (s.raiseFlags fl) := by
  unfold State.raiseFlags
  split
  · exact refl s
  · exact ⟨rfl, .inr he, id, id, id, rfl, id, fun _ => ⟨rfl, rfl⟩⟩

theorem setFcsr (he : s.fpEnabled = true) (c : Fcsr) : DataStep s { s with fcsr := c }.fsDirty :=
  ⟨rfl, .inr he, id, id, id, rfl, id, fun _ => ⟨rfl, rfl⟩⟩

theorem setReservation (s : State) (r : Option Word) : DataStep s { s with reservation := r } :=
  ⟨rfl, .inl rfl, id, id, id, rfl, id, fun _ => ⟨rfl, rfl⟩⟩

theorem setStale (s : State) (l : List StaleHalf) : DataStep s { s with stale := l } :=
  ⟨rfl, .inl rfl, id, id, id, rfl, id, fun _ => ⟨rfl, rfl⟩⟩

theorem countEvent (s : State) (n k : Nat) : DataStep s (s.countEvent n k) :=
  ⟨rfl, .inl rfl, id, id, id, countEvent_hpmConfig s n k, id, fun _ => ⟨rfl, rfl⟩⟩

theorem countAtomic (s : State) : DataStep s s.countAtomic := countEvent s 13 _

theorem queueError (s : State) (k : Access) (a : Word) : DataStep s (s.queueError k a) :=
  ⟨rfl, .inl rfl, id, id, id, rfl, id, fun _ => ⟨rfl, rfl⟩⟩

theorem queueEarlier (s : State) (k : Access) (e : Option Word) : DataStep s (s.queueEarlier k e) := by
  unfold State.queueEarlier
  split
  · exact queueError s k _
  · exact refl s

theorem deliver {d : Dest} (hd : ∀ fd, d = .float fd → s.fpEnabled = true) (v : Dword) : DataStep s (s.deliver d v) := by
  cases d with
  | int rd => exact setX s rd _
  | float fd => exact setF (hd fd rfl) fd _

theorem deliverUnstated {d : Dest} (hd : ∀ fd, d = .float fd → s.fpEnabled = true) : DataStep s (s.deliverUnstated d) := by
  unfold State.deliverUnstated
  split
  · exact deliver hd _
  · exact refl s

theorem storeBytes (s : State) (a : Word) (n : Nat) (v : Dword) : DataStep s (s.storeBytes a n v) where
  frame := by rw [storeBytes_frame]; rfl
  fs := .inl (by simp)
  mem := fun h => storeBytes_wf h a n v
  dirty := fun h => storeBytes_dirtyShape h a n v
  kept := fun h => storeBytes_keptShape h a n v
  hpm := by simp
  clic := fun h => by simpa [State.clicShape] using h
  user := fun _ => by simp

theorem storePieces (a : Word) (v : Dword) (ps : List (Word × Nat)) (s : State) :
    DataStep s (ps.foldl (State.storePiece a v) s) := by
  induction ps generalizing s with
  | nil => exact refl s
  | cons p ps ih => exact (storeBytes s _ _ _).trans (ih _)

/-- A write to the devices, with machine mode as the effective privilege. -/
theorem deviceWrite (hm : s.dataPriv ≠ .user) (a : Word) (n : Nat) (v : Word) : DataStep s (s.deviceWrite a n v) := by
  have hc := deviceWrite_clicShape (s := s) a n v
  rw [deviceWrite_frame] at hc ⊢
  exact ⟨rfl, .inl rfl, id, id, id, rfl, hc, fun hu => absurd hu hm⟩

/-- Pieces written to memory and, with machine mode as the effective privilege, to the devices. -/
theorem writePieces (a : Word) (v : Dword) (ps : List (Word × Nat)) (s : State)
    (hp : s.dataPriv = .user → ∀ p ∈ ps, inTcip p.1 = false) : DataStep s (ps.foldl (State.writePiece a v) s) := by
  induction ps generalizing s with
  | nil => exact refl s
  | cons p ps ih =>
    have first : DataStep s (s.writePiece a v p) := by
      unfold State.writePiece
      split
      · refine deviceWrite (fun hu => ?_) _ _ _
        have := hp hu p (List.mem_cons_self ..)
        simp_all
      · exact storeBytes s _ _ _
    exact first.trans (ih _ fun hu q hq => hp (first.dataPriv.symm.trans hu) q (List.mem_cons_of_mem _ hq))

theorem storeValue {a : Word} (ha : s.dataPriv = .user → inTcip a = false) (n : Nat) (v : Dword) :
    DataStep s (s.storeValue a n v) := by
  unfold State.storeValue
  split
  · rename_i ht
    have hm : s.dataPriv ≠ .user := fun hu => by simp [ha hu] at ht
    split
    · have first := deviceWrite hm a 4 (v.setWidth 32)
      exact first.trans (deviceWrite (first.dataPriv ▸ hm) _ _ _)
    · exact deviceWrite hm _ _ _
  · exact storePieces a v _ s

theorem cleanLines (s : State) (sel : CacheLine → Bool) : DataStep s (s.cleanLines sel) :=
  ⟨rfl, .inl rfl, id, (cleanLines_dirtyShape · sel), id, rfl, id, fun _ => ⟨rfl, rfl⟩⟩

theorem dropKept (s : State) (sel : CacheLine → Bool) : DataStep s (s.dropKept sel) :=
  ⟨rfl, .inl rfl, id, id, (dropKept_keptShape · sel), rfl, id, fun _ => ⟨rfl, rfl⟩⟩

theorem discardLines (s : State) (sel : CacheLine → Bool) : DataStep s (s.discardLines sel) := by
  have hw := fun h => discardLines_wf (s := s) h sel
  obtain ⟨m, st, e⟩ := discardLines_frame s sel
  rw [e] at hw ⊢
  exact ⟨rfl, .inl rfl, hw, (linesShape_filter · _), (linesShape_filter · _), rfl, id, fun _ => ⟨rfl, rfl⟩⟩

theorem flushLines (s : State) (sel : CacheLine → Bool) : DataStep s (s.flushLines sel) :=
  (cleanLines s sel).trans (dropKept _ sel)

end DataStep

/-! ## Accesses with user mode as the effective privilege do not reach the devices (rules R665, R679; D66) -/

/-- A piece that passes its check lies outside the device window. -/
theorem checkPiece_user {s : State} {k : Access} {split : Bool} {info a : Word} {n : Nat} (hu : s.dataPriv = .user)
    (h : s.checkPiece k split info a n = .ok) : inTcip a = false := by
  unfold State.checkPiece at h
  cases ht : inTcip a with
  | false => rfl
  | true =>
    simp only [ht, hu, if_true] at h
    split at h <;> cases h

/-- The first byte of an access is the first byte of one of its pieces. -/
theorem pieces_first (a : Word) {n : Nat} (hn : n ≠ 0) : ∃ m, (a, m) ∈ pieces a n := by
  unfold pieces
  split
  · exact ⟨1, List.mem_map.mpr ⟨0, List.mem_range.mpr (by omega), by simp⟩⟩
  · split
    · exact ⟨4, List.mem_cons_self ..⟩
    · exact ⟨n, List.mem_cons_self ..⟩

theorem checkAccess_user {s : State} {k : Access} {a : Word} {n : Nat} (hn : n ≠ 0) (hu : s.dataPriv = .user)
    (h : s.checkAccess k a n = .ok) : inTcip a = false := by
  obtain ⟨m, hm⟩ := pieces_first a hn
  exact checkPiece_user hu (checkAccess_ok_iff.mp h _ hm)

theorem DataStep.partialStore (s : State) (a : Word) (n : Nat) (v : Dword) : DataStep s (s.partialStore a n v) := by
  rw [partialStore_pieces]
  refine DataStep.writePieces a v _ s fun hu p hp => ?_
  obtain ⟨q, hq, rfl⟩ := List.mem_map.mp hp
  have hw := (List.mem_filter.mp hq).2
  simp only [State.mayBeWritten, Bool.and_eq_true, beq_iff_eq] at hw
  obtain ⟨⟨hok, _⟩, _⟩ := hw
  exact checkPiece_user hu hok

/-! ## CSR instructions -/

/-- What a CSR instruction does to the state before it retires: it reads, writes an ordinary register, claims an interrupt
through MNXTI, or exchanges MSCRATCH. -/
inductive CsrEffect (s : State) : Csr → State → Prop
  | read (c : Csr) : CsrEffect s c s
  | write {c : Csr} {v : Word} {u : State} : s.writeCsr v c = .ok u → CsrEffect s c u
  | writeStatus (v : Word) : CsrEffect s .mnxti (s.writeMstatus v)
  | claim (p : Presented) (v : Word) : CsrEffect s .mnxti
      (({ s with mil := p.level,
                 mcause := { s.mcause with code := BitVec.ofNat 12 p.id, interrupt := true } }.clearPending p.id).writeMstatus v)
  | swap {c : Csr} (v : Word) : c.right = .mrw → CsrEffect s c { s with mscratch := v }

theorem accessPlain_effect {s t : State} {c : Csr} {op : CsrOp} {write : Bool} {rd : Reg} {v : Word}
    (h : s.accessPlain c op write rd v = .next t) :
    ∃ u w old, CsrEffect s c u ∧ s.csrDone u c w rd old = .next t := by
  rcases accessPlain_cases h with ⟨_, u, hu, ht⟩ | ⟨_, ht⟩
  · exact ⟨u, _, _, .write hu, ht⟩
  · exact ⟨s, _, _, .read c, ht⟩

theorem accessMnxti_effect {s t : State} {op : CsrOp} {rd : Reg} {v : Word} (h : s.accessMnxti op rd v = .next t) :
    ∃ u w old, CsrEffect s .mnxti u ∧ s.csrDone u .mnxti w rd old = .next t := by
  unfold State.accessMnxti at h
  dsimp only at h
  split at h
  · exact ⟨_, _, _, .claim _ _, h⟩
  · exact ⟨_, _, _, .writeStatus _, h⟩

theorem swapScratch_effect {s t : State} {c : Csr} {sw : Bool} {rd : Reg} {v : Word} (hc : c.right = .mrw)
    (h : s.swapScratch c sw rd v = .next t) :
    ∃ u w old, CsrEffect s c u ∧ s.csrDone u c w rd old = .next t := by
  unfold State.swapScratch at h
  split at h
  · exact ⟨_, _, _, .swap v hc, h⟩
  · exact ⟨_, _, _, .read c, h⟩

/-- A CSR instruction is illegal, or it has an effect on a register that it may access, and retires. -/
theorem csrInstr_effect {s t : State} {i : Instr} {a : BitVec 12} {op : CsrOp} {write imm : Bool} {rd : Reg} {v : Word}
    (h : s.csrInstr i a op write imm rd v = .next t) :
    s.illegal i = .next t ∨
    ∃ c u w old, s.csrAllowed c write = true ∧ CsrEffect s c u ∧ s.csrDone u c w rd old = .next t := by
  unfold State.csrInstr at h
  cases hc : csrAt a with
  | none => rw [hc] at h; exact .inl h
  | some c =>
    rw [hc] at h
    cases ha : s.csrAllowed c write with
    | false => exact .inl (by simpa [ha] using h)
    | true =>
      refine .inr ?_
      simp only [ha, Bool.not_true, Bool.false_eq_true, if_false] at h
      split at h
      · split at h
        · obtain ⟨u, w, old, he, hd⟩ := accessMnxti_effect h
          exact ⟨_, u, w, old, ha, he, hd⟩
        · cases h
      · split at h
        · obtain ⟨u, w, old, he, hd⟩ := swapScratch_effect rfl h
          exact ⟨_, u, w, old, ha, he, hd⟩
        · cases h
      · split at h
        · obtain ⟨u, w, old, he, hd⟩ := swapScratch_effect rfl h
          exact ⟨_, u, w, old, ha, he, hd⟩
        · cases h
      · obtain ⟨u, w, old, he, hd⟩ := accessPlain_effect h
        exact ⟨_, u, w, old, ha, he, hd⟩

/-! ## One instruction -/

/-- Everything that one instruction can do. -/
inductive InstrStep (s : State) : State → Prop
  | retires {u : State} {target : Word} :
      DataStep s u → (s.pc.getLsbD 0 = false → target.getLsbD 0 = false) → InstrStep s (u.goto target)
  | traps {u : State} (c : Cause) (info : Word) (b : Bool) :
      DataStep s u → InstrStep s (u.countTrap.takeException c s.pc info b)
  | csr {c : Csr} {w : Bool} {u : State} (rd : Reg) (old : Word) (m : Dword) :
      s.csrAllowed c w = true → CsrEffect s c u → InstrStep s { u.setX rd old with pc := s.pc + 4, minstret := m }
  | sleeps (b : Bool) : s.priv = .machine → InstrStep s { s.advance 4 with asleep := b }
  | returns (m : Dword) : s.priv = .machine →
      InstrStep s { (if s.returnsFromNmi then s.nmiReturn else s.trapReturn) with minstret := m }

namespace InstrStep

variable {s u t : State}

/-- The instruction retires and is followed by the next one. -/
theorem advances {len : Word} (h : DataStep s u) (hl : len.getLsbD 0 = false) : InstrStep s (u.advance len) :=
  .retires h fun hpc => even_add (h.pc ▸ hpc) hl

theorem of_raise {c : Cause} {info : Word} {b : Bool} (hu : DataStep s u) (h : u.raise c info b = .next t) :
    InstrStep s t := by
  rw [raise_eq, Host.Outcome.next.injEq] at h
  subst h
  rw [hu.pc]; exact .traps c info b hu

theorem of_illegal {i : Instr} (h : s.illegal i = .next t) : InstrStep s t := of_raise (.refl s) h

theorem of_writeRd {rd : Reg} {v len : Word} (hl : len.getLsbD 0 = false) (h : s.writeRd rd v len = .next t) :
    InstrStep s t := by
  cases h; exact advances (.setX s rd v) hl

theorem of_branch {taken : Bool} {off len : Word} (ho : off.getLsbD 0 = false) (hl : len.getLsbD 0 = false)
    (h : s.branch taken off len = .next t) : InstrStep s t := by
  cases h
  refine .retires (.countEvent s 9 1) fun hpc => even_add hpc ?_
  split
  · exact ho
  · exact hl

theorem of_link {rd : Reg} {target len : Word} (ht : s.pc.getLsbD 0 = false → target.getLsbD 0 = false)
    (h : s.link rd target len = .next t) : InstrStep s t := by
  cases h; exact .retires (.setX s rd _) ht

theorem of_busErrorAt {k : Access} {a : Word} {done : State → State} {len : Word} (hu : DataStep s u)
    (hd : ∀ v, DataStep v (done v)) (hl : len.getLsbD 0 = false) (h : u.busErrorAt k a done len = .next t) :
    InstrStep s t := by
  rcases busErrorAt_cases h with ⟨_, rfl⟩ | ⟨_, rfl⟩
  · rw [hu.pc]; exact .traps _ _ _ hu
  · exact advances ((hu.trans (.queueError u k a)).trans (hd _)) hl

theorem of_loadError {k : Access} {a : Word} {d : Dest} {len : Word} (hd : ∀ fd, d = .float fd → s.fpEnabled = true)
    (hl : len.getLsbD 0 = false) (h : s.loadError k a d len = .next t) : InstrStep s t := by
  refine of_busErrorAt (u := if s.aee then s else s.deliverUnstated d) ?_ (fun v => .refl v) hl h
  split
  · exact .refl s
  · exact .deliverUnstated hd

theorem of_load {d : Dest} {a : Word} {n : Nat} {ext : Dword → Dword} {len : Word}
    (hd : ∀ fd, d = .float fd → s.fpEnabled = true) (hl : len.getLsbD 0 = false)
    (h : s.load d a n ext len = .next t) : InstrStep s t := by
  rcases load_cases h with ⟨_, rfl⟩ | ⟨_, ⟨_, rfl⟩ | ⟨b, _, h⟩ | ⟨b, _, h⟩⟩
  · exact .traps _ _ _ (.refl s)
  · exact advances (.deliver hd _) hl
  · refine of_raise (.trans ?_ (.queueEarlier _ _ _)) h
    split
    · exact .deliverUnstated hd
    · exact .refl s
  · exact of_loadError hd hl h

/-- An integer load. -/
theorem of_loadInt {rd : Reg} {a : Word} {n : Nat} {ext : Dword → Dword} {len : Word} (hl : len.getLsbD 0 = false)
    (h : s.load (.int rd) a n ext len = .next t) : InstrStep s t := of_load (by simp) hl h

theorem of_store {a : Word} {n : Nat} {v : Dword} {len : Word} (hn : n ≠ 0) (hl : len.getLsbD 0 = false)
    (h : s.store a n v len = .next t) : InstrStep s t := by
  rcases store_cases h with ⟨_, rfl⟩ | ⟨_, ⟨hok, rfl⟩ | ⟨b, _, h⟩ | ⟨b, _, h⟩⟩
  · exact .traps _ _ _ (.refl s)
  · exact advances (.trans (.storeValue (checkAccess_user hn · hok) n v) (.countEvent _ 13 1)) hl
  · exact of_raise (.trans (.partialStore s a n v) (.queueEarlier _ _ _)) h
  · rcases storeError_cases h with ⟨_, rfl⟩ | ⟨_, h⟩
    · exact advances (.trans (.partialStore s a n v) (.countEvent _ 13 1)) hl
    · exact of_busErrorAt (.partialStore s a n v) (.countEvent · 13 1) hl h

theorem of_amo {rd : Reg} {a src : Word} {op : Word → Word → Word} (h : s.amo rd a src op = .next t) : InstrStep s t := by
  rcases amo_cases h with ⟨_, rfl⟩ | ⟨_, ⟨hok, rfl⟩ | ⟨b, _, rfl⟩ | ⟨b, _, h⟩⟩
  · exact .traps _ _ _ (.refl s)
  · exact advances (.trans (.trans (.storeValue (checkAccess_user (by decide) · hok) 4 _) (.setX _ rd _)) (.countAtomic _)) rfl
  · exact .traps _ _ _ (.refl s)
  · exact of_busErrorAt (.refl s) .countAtomic rfl h

theorem of_loadReserved {rd : Reg} {a : Word} (h : s.loadReserved rd a = .next t) : InstrStep s t := by
  rcases loadReserved_cases h with ⟨_, rfl⟩ | ⟨_, ⟨_, rfl⟩ | ⟨b, _, rfl⟩ | ⟨b, _, h⟩⟩
  · exact .traps _ _ _ (.refl s)
  · exact advances (.trans (.setReservation s _) (.setX _ rd _)) rfl
  · exact .traps _ _ _ (.refl s)
  · exact of_loadError (by simp) rfl h

theorem of_storeConditional {rd : Reg} {a src : Word} (h : s.storeConditional rd a src = .next t) : InstrStep s t := by
  rcases storeConditional_cases h with ⟨_, rfl⟩ | ⟨_, ⟨hok, _, rfl⟩ | ⟨_, _, rfl⟩ | ⟨b, _, rfl⟩ | ⟨b, _, _, h⟩⟩
  · exact .traps _ _ _ (.refl s)
  · have stored := DataStep.storeValue (checkAccess_user (by decide) · hok) 4 (src.setWidth 64)
    exact advances (((stored.trans (.setReservation _ none)).trans (.setX _ rd _)).trans (.countAtomic _)) rfl
  · exact advances (.trans (.trans (.setReservation s none) (.setX _ rd _)) (.countAtomic _)) rfl
  · exact .traps _ _ _ (.refl s)
  · exact of_busErrorAt (.refl s) .countAtomic rfl h

/-! Floating point: an enabled unit gives a result, anything else is illegal (rules R380, R383, R430). -/

theorem fpEnabled_of_fpEnabledD (h : s.fpEnabledD = true) : s.fpEnabled = true := by
  simp only [State.fpEnabledD, State.fpEnabled, Bool.and_eq_true, beq_iff_eq, bne_iff_ne] at h ⊢
  exact ⟨by simp [h.1], h.2⟩

theorem of_fp {en : Bool} {i : Instr} {r : Result} (hen : en = true → s.fpEnabled = true)
    (hr : s.fpEnabled = true → r = .next t → InstrStep s t) (h : s.fp en i r = .next t) : InstrStep s t := by
  rcases fp_cases h with ⟨he, h⟩ | ⟨_, h⟩
  · exact hr (hen he) h
  · exact of_illegal h

theorem of_fpRounded {en : Bool} {i : Instr} {rm : BitVec 3} {k : Rounding → Result} (hen : en = true → s.fpEnabled = true)
    (hr : s.fpEnabled = true → ∀ m, k m = .next t → InstrStep s t) (h : s.fpRounded en i rm k = .next t) :
    InstrStep s t := by
  rcases fpRounded_cases h with ⟨he, m, _, h⟩ | ⟨_, h⟩
  · exact hr (hen he) m h
  · exact of_illegal h

/-- A floating-point register is written and flags are accrued. -/
theorem of_putF {fd : Reg} {v : Dword} {fl : BitVec 5} (he : s.fpEnabled = true)
    (h : Host.Outcome.next (((s.setF fd v).raiseFlags fl).advance 4) = (.next t : Result)) : InstrStep s t := by
  cases h
  have set := DataStep.setF he fd v
  exact advances (set.trans (.raiseFlags (by simpa [State.fpEnabled] using (Bool.and_eq_true_iff.mp he).1) fl)) rfl

theorem of_putX {rd : Reg} {v : Word} {fl : BitVec 5} (he : s.fpEnabled = true) (h : s.putX rd v fl = .next t) :
    InstrStep s t := by
  cases h
  exact advances (.trans (.setX s rd v) (.raiseFlags (by simpa [State.fpEnabled] using he) fl)) rfl

/-! Cache, synchronisation and CSR instructions. -/

theorem of_cacheOp {i : Instr} {op : State → State} (h : s.cacheOp i op = .next t) (hop : DataStep s (op s)) :
    InstrStep s t := by
  rcases cacheOp_cases h with ⟨_, _, rfl⟩ | ⟨_, h⟩
  · exact advances hop rfl
  · exact of_illegal h

theorem of_syncOp {i : Instr} (h : s.syncOp i u = .next t) (hu : DataStep s u) : InstrStep s t := by
  rcases syncOp_cases h with ⟨_, rfl⟩ | ⟨_, h⟩
  · exact advances hu rfl
  · exact of_illegal h

theorem of_csrInstr {i : Instr} {a : BitVec 12} {op : CsrOp} {write imm : Bool} {rd : Reg} {v : Word}
    (h : s.csrInstr i a op write imm rd v = .next t) : InstrStep s t := by
  rcases csrInstr_effect h with h | ⟨c, u, w, old, ha, he, h⟩
  · exact of_illegal h
  · cases h; exact .csr rd old _ ha he

theorem of_execWfi (h : execWfi s = .next t) : InstrStep s t := by
  unfold execWfi at h
  split at h
  · cases h; exact .sleeps _ ‹_›
  · exact of_illegal h

theorem of_execMret (h : execMret s = .next t) : InstrStep s t := by
  unfold execMret at h
  split at h
  · cases h; exact .returns _ ‹_›
  · exact of_illegal h

end InstrStep

/-- What an instruction gives is one of the few things that an instruction can do. -/
theorem exec_instrStep {i : Instr} {s t : State} (h : exec i s = .next t) : InstrStep s t := by
  have single : s.fpEnabled = true → s.fpEnabled = true := id
  have double : s.fpEnabledD = true → s.fpEnabled = true := InstrStep.fpEnabled_of_fpEnabledD
  cases i with
  | add | addi | sub | and | andi | or | ori | xor | xori | sll | slli | srl | srli | sra | srai | slt | sltu | slti
  | sltiu | lui | auipc | mul | mulh | mulhsu | mulhu | div | divu | rem | remu => exact .of_writeRd rfl h
  | cAddi4spn | cAddi | cLi | cAddi16sp | cLui | cSrli | cSrai | cAndi | cSub | cXor | cOr | cAnd | cSlli | cMv
  | cAdd => exact .of_writeRd rfl h
  | beq | bne | blt | bge | bltu | bgeu => exact .of_branch (even_scaled _) rfl h
  | cBeqz | cBnez => exact .of_branch (even_scaled _) rfl h
  | jal => exact .of_link (even_add · (even_scaled _)) h
  | cJal | cJ => exact .of_link (even_add · (even_scaled _)) h
  | jalr | cJr | cJalr => exact .of_link (fun _ => even_evenTarget _) h
  | lb | lbu | lh | lhu | lw | cLw | cLwsp => exact .of_loadInt rfl h
  | sb | sh | sw | cSw | cSwsp => exact .of_store (by decide) rfl h
  | csrrw | csrrs | csrrc | csrrwi | csrrsi | csrrci => exact .of_csrInstr h
  | wfi => exact .of_execWfi h
  | mret => exact .of_execMret h
  | fence | cNop => cases h; exact .advances (.refl s) rfl
  | fenceI => cases h; exact .advances (.setStale s []) rfl
  | ecall | ebreak | cEbreak => exact .of_raise (.refl s) h
  | amoaddW | amoandW | amoorW | amoswapW | amoxorW | amomaxW | amomaxuW | amominW | amominuW =>
    simp only [exec, execAmoaddW, execAmoandW, execAmoorW, execAmoswapW, execAmoxorW, execAmomaxW, execAmomaxuW,
      execAmominW, execAmominuW] at h
    exact .of_amo h
  | scW => exact .of_storeConditional h
  | lrW => exact .of_loadReserved h
  | faddS | fsubS | fmulS | fdivS | fsqrtS | fmaddS | fmsubS | fnmsubS | fnmaddS | fcvtSW | fcvtSWu =>
    exact .of_fpRounded single (fun he _ => .of_putF he) h
  | fcvtSD | faddD | fsubD | fmulD | fdivD | fsqrtD | fmaddD | fmsubD | fnmsubD | fnmaddD | fcvtDS | fcvtDW | fcvtDWu =>
    exact .of_fpRounded double (fun he _ => .of_putF he) h
  | fsgnjS | fsgnjnS | fsgnjxS | fminS | fmaxS => exact .of_fp single .of_putF h
  | fsgnjD | fsgnjnD | fsgnjxD | fminD | fmaxD => exact .of_fp double .of_putF h
  | feqS | fltS | fleS | fclassS | fmvXW => exact .of_fp single .of_putX h
  | feqD | fltD | fleD | fclassD => exact .of_fp double .of_putX h
  | fcvtWS | fcvtWuS => exact .of_fpRounded single (fun he _ => .of_putX he) h
  | fcvtWD | fcvtWuD => exact .of_fpRounded double (fun he _ => .of_putX he) h
  | fmvWX => exact .of_fp single (fun he h => .of_putF (fl := 0) he h) h
  | flw => exact .of_fp single (fun he => .of_load (fun _ _ => he) rfl) h
  | fld => exact .of_fp double (fun he => .of_load (fun _ _ => he) rfl) h
  | fsw => exact .of_fp single (fun _ => .of_store (by decide) rfl) h
  | fsd => exact .of_fp double (fun _ => .of_store (by decide) rfl) h
  | dcacheCall | dcacheCsw | dcacheCpa =>
    simp only [exec, execDcacheCall, execDcacheCsw, execDcacheCpa] at h
    exact .of_cacheOp h (.cleanLines s _)
  | dcacheIall | dcacheIsw | dcacheIpa =>
    simp only [exec, execDcacheIall, execDcacheIsw, execDcacheIpa] at h
    exact .of_cacheOp h (.discardLines s _)
  | dcacheCiall | dcacheCisw | dcacheCipa =>
    simp only [exec, execDcacheCiall, execDcacheCisw, execDcacheCipa] at h
    exact .of_cacheOp h (.flushLines s _)
  | icacheIall | icacheIpa =>
    simp only [exec, execIcacheIall, execIcacheIpa] at h
    exact .of_cacheOp h (.setStale s _)
  | sync => exact .of_syncOp h (.refl s)
  | syncI => exact .of_syncOp h (.setStale s _)

end Sys2Proof.Machine
end


section
/-! SUPPORT. The invariant of Sys2Proof/Safety.lean: at reset, and through every operation that a step is made of. -/

namespace Sys2Proof.Machine

open Sys2Proof.Config

/-! ## The invariant and the fields it speaks of -/

theorem evenAddresses_iff {s : State} : s.evenAddresses = true ↔
    s.pc.getLsbD 0 = false ∧ s.mepc.getLsbD 0 = false ∧ s.mnmipc.getLsbD 0 = false := by
  simp only [State.evenAddresses, Bool.and_eq_true, Bool.not_eq_true', and_assoc]

/-- The fields that the invariant speaks of, but for the even addresses. -/
def State.shaped (s : State) :=
  (s.params, s.mem, s.mcounteren, s.mcountinhibit, s.pmp, s.hpm, s.clic, s.mstatus.fs, s.dirty, s.kept)

namespace State.Inv

variable {s t u : State}

theorem even (h : s.Inv) :
    s.pc.getLsbD 0 = false ∧ s.mepc.getLsbD 0 = false ∧ s.mnmipc.getLsbD 0 = false :=
  evenAddresses_iff.mp h.2.2.1

/-- Only the even addresses need a proof where the other fields stay. -/
theorem of_shaped (h : s.Inv) (e : t.shaped = s.shaped)
    (hpc : t.pc.getLsbD 0 = false) (hepc : t.mepc.getLsbD 0 = false) (hnpc : t.mnmipc.getLsbD 0 = false) : t.Inv := by
  simp only [State.shaped, Prod.mk.injEq] at e
  obtain ⟨e1, e2, e3, e4, e5, e6, e7, e8, e9, e10⟩ := e
  unfold State.Inv State.maskedCounters State.pmpShape State.hpmShape State.clicShape State.fsTied State.dirtyShape
    State.keptShape at h ⊢
  rw [e1, e2, e3, e4, e5, e6, e7, e8, e9, e10]
  obtain ⟨hp, hm, _, h⟩ := h
  exact ⟨hp, hm, evenAddresses_iff.mpr ⟨hpc, hepc, hnpc⟩, h⟩

theorem dataStep (h : s.Inv) (k : DataStep s u) : u.Inv := by
  obtain ⟨hp, hm, he, hc, hpmp, hh, hcl, hf, hd, hk⟩ := h
  refine ⟨k.params ▸ hp, k.mem hm, ?_, ?_, ?_, hpmShape_of_config k.hpm hh, k.clic hcl, ?_, k.dirty hd, k.kept hk⟩
  · rwa [evenAddresses_iff, k.pc, k.mepc, k.mnmipc, ← evenAddresses_iff]
  · rwa [State.maskedCounters, k.mcounteren, k.mcountinhibit]
  · rwa [State.pmpShape, k.pmp, k.params]
  · unfold State.fsTied at hf ⊢
    rw [k.params]
    rcases k.fs with e | e
    · rwa [e]
    · simp only [State.fpEnabled, Bool.and_eq_true] at e
      simp [e.1]

theorem mapSources (h : s.Inv) {g : ClicSource → ClicSource} (hg : ∀ c : ClicSource, c.KeepsShape s.params (g c)) :
    (s.mapSources g).Inv := by
  obtain ⟨hp, hm, he, hc, hpmp, hh, hcl, hf, hd, hk⟩ := h
  exact ⟨hp, hm, he, hc, hpmp, hh, mapSources_clicShape hg hcl, hf, hd, hk⟩

theorem clearPending (h : s.Inv) (i : Nat) : (s.clearPending i).Inv :=
  h.mapSources fun c => by
    split
    · exact c.clear_keepsShape _ _
    · exact .refl _ c

/-! ### Retiring, trapping, returning -/

theorem goto (h : s.Inv) {target : Word} (ht : target.getLsbD 0 = false) : (s.goto target).Inv := by
  obtain ⟨_, hepc, hnpc⟩ := h.even
  exact h.of_shaped rfl ht hepc hnpc

theorem takeException (h : s.Inv) (c : Cause) {epc : Word} (info : Word) (b : Bool) (he : epc.getLsbD 0 = false) :
    (s.takeException c epc info b).Inv := by
  obtain ⟨_, hepc, hnpc⟩ := h.even
  rcases takeException_cases s c epc info b with ⟨_, _, e⟩ | ⟨_, e⟩ <;> rw [e]
  · exact h.of_shaped rfl he hepc hnpc
  · exact h.of_shaped rfl (even_handler s) he hnpc

theorem countTrap (h : s.Inv) : s.countTrap.Inv := by
  obtain ⟨hpc, hepc, hnpc⟩ := h.even
  exact h.of_shaped rfl hpc hepc hnpc

theorem mret (h : s.Inv) (m : Dword) :
    State.Inv { (if s.returnsFromNmi then s.nmiReturn else s.trapReturn) with minstret := m } := by
  obtain ⟨_, hepc, hnpc⟩ := h.even
  split
  · exact h.of_shaped rfl hepc hnpc hnpc
  · exact h.of_shaped rfl hepc hepc hnpc

/-! ### CSR instructions -/

theorem writeMstatus (h : s.Inv) (v : Word) : (s.writeMstatus v).Inv := by
  obtain ⟨hp, hm, he, hc, hpmp, hh, hcl, hf, hd, hk⟩ := h
  refine ⟨hp, hm, he, hc, hpmp, hh, hcl, ?_, hd, hk⟩
  simp only [State.fsTied, State.writeMstatus, Bool.or_eq_true, bne_iff_ne] at hf ⊢
  by_cases hn : s.params.fpu = .none
  · rw [if_pos hn]; exact hf
  · exact .inl hn

theorem writePmpCfg (h : s.Inv) (k : Nat) (v : Word) : (s.writePmpCfg k v).Inv := by
  obtain ⟨hp, hm, he, hc, hpmp, hh, hcl, hf, hd, hk⟩ := h
  refine ⟨hp, hm, he, hc, ?_, hh, hcl, hf, hd, hk⟩
  simp only [State.pmpShape, Bool.and_eq_true, beq_iff_eq, List.all_eq_true] at hpmp ⊢
  obtain ⟨hlen, hall⟩ := hpmp
  refine ⟨by simpa [State.writePmpCfg] using hlen, fun e he => ?_⟩
  obtain ⟨i, hi, rfl⟩ := List.mem_mapIdx.mp he
  have old := hall _ (List.getElem_mem hi)
  split
  · unfold PmpEntry.writeCfg
    split
    · exact old
    · show (_ &&& (0x9F : Byte)) &&& 0x60 = 0
      rw [BitVec.and_assoc]; simp
  · exact old

theorem writePmpAddr (h : s.Inv) (i : Nat) (v : Word) : (s.writePmpAddr i v).Inv := by
  obtain ⟨hp, hm, he, hc, hpmp, hh, hcl, hf, hd, hk⟩ := h
  refine ⟨hp, hm, he, hc, ?_, hh, hcl, hf, hd, hk⟩
  simp only [State.pmpShape, Bool.and_eq_true, beq_iff_eq, List.all_eq_true] at hpmp ⊢
  obtain ⟨hlen, hall⟩ := hpmp
  refine ⟨by simpa [State.writePmpAddr] using hlen, fun e he => ?_⟩
  obtain ⟨j, hj, rfl⟩ := List.mem_mapIdx.mp he
  have old := hall _ (List.getElem_mem hj)
  split <;> exact old

theorem mapHpm (h : s.Inv) (n : Nat) {g : Hpm → Hpm} (hg : ∀ c, (g c).index = c.index) : (s.mapHpm n g).Inv := by
  obtain ⟨hp, hm, he, hc, hpmp, hh, hcl, hf, hd, hk⟩ := h
  refine ⟨hp, hm, he, hc, hpmp, ?_, hcl, hf, hd, hk⟩
  simp only [State.hpmShape, State.mapHpm, List.map_map, beq_iff_eq] at hh ⊢
  rw [← hh]
  refine List.map_congr_left fun c _ => ?_
  rw [Function.comp_apply]
  split
  · exact hg c
  · rfl

theorem writeMhcr (h : s.Inv) {v : Word} (hw : s.writeMhcr v = .ok u) : u.Inv := by
  obtain ⟨hp, hm, he, hc, hpmp, hh, hcl, hf, hd, hk⟩ := h
  unfold State.writeMhcr at hw
  dsimp only at hw
  split at hw
  · cases hw
  · cases hw
    refine ⟨hp, hm, he, hc, hpmp, hh, hcl, hf, hd, ?_⟩
    show linesShape s.params (if _ then _ else _) = true
    split
    · exact keepLines_shape hk
    · exact hk

theorem writeMxstatus (h : s.Inv) {v : Word} (hw : s.writeMxstatus v = .ok u) : u.Inv := by
  obtain ⟨hpc, hepc, hnpc⟩ := h.even
  unfold State.writeMxstatus at hw
  dsimp only at hw
  split at hw <;> cases hw
  exact h.of_shaped rfl hpc hepc hnpc

theorem maskCounters (h : s.Inv) {a b : Word} (ha : (a &&& ~~~0x0003E31F) = 0) (hb : (b &&& ~~~0x0003E31D) = 0) :
    State.Inv { s with mcounteren := a, mcountinhibit := b } := by
  obtain ⟨hp, hm, he, hc, hpmp, hh, hcl, hf, hd, hk⟩ := h
  exact ⟨hp, hm, he, by simp only [State.maskedCounters, ha, hb, beq_self_eq_true, Bool.and_self], hpmp, hh, hcl, hf, hd, hk⟩

theorem masked (h : s.Inv) : (s.mcounteren &&& ~~~0x0003E31F) = 0 ∧ (s.mcountinhibit &&& ~~~0x0003E31D) = 0 := by
  obtain ⟨_, _, _, hc, _⟩ := h
  simpa only [State.maskedCounters, Bool.and_eq_true, beq_iff_eq] using hc

/-- A masked value has no bit outside the mask. -/
theorem and_mask (v m : Word) : (v &&& m) &&& ~~~m = 0 := by
  simp [BitVec.and_assoc]

theorem writeCsr (h : s.Inv) {c : Csr} {v : Word} (hfp : c.isFp = true → s.fpEnabled = true)
    (hw : s.writeCsr v c = .ok u) : u.Inv := by
  obtain ⟨hpc, hepc, hnpc⟩ := h.even
  obtain ⟨hen, hin⟩ := h.masked
  cases c with
  | fflags | frm | fcsr | fxcr => cases hw; exact h.dataStep (.setFcsr (hfp rfl) _)
  | mstatus => cases hw; exact h.writeMstatus v
  | mcounteren => cases hw; exact h.maskCounters (and_mask v _) hin
  | mcountinhibit => cases hw; exact h.maskCounters hen (and_mask v _)
  | mepc => cases hw; exact h.of_shaped rfl hpc (even_evenTarget v) hnpc
  | mnmipc => cases hw; exact h.of_shaped rfl hpc hepc (even_evenTarget v)
  | mxstatus => exact h.writeMxstatus hw
  | mhcr => exact h.writeMhcr hw
  | pmpcfg k => cases hw; exact h.writePmpCfg k v
  | pmpaddr i => cases hw; exact h.writePmpAddr i v
  | mhpmevent n | mhpmcounter n | mhpmcounterh n => cases hw; exact h.mapHpm n fun _ => rfl
  | mtvec | mtvt | mscratch | mcause | mtval | mhint | mexstatus | mnmicause | mcycle | mcycleh | minstret | minstreth =>
    cases hw; exact h.of_shaped rfl hpc hepc hnpc
  | _ => cases hw; exact h

theorem csrEffect (h : s.Inv) {c : Csr} (hfp : c.isFp = true → s.fpEnabled = true) (he : CsrEffect s c u) : u.Inv := by
  obtain ⟨hpc, hepc, hnpc⟩ := h.even
  cases he with
  | read => exact h
  | write hw => exact h.writeCsr hfp hw
  | writeStatus v => exact h.writeMstatus v
  | claim p v =>
    exact ((h.of_shaped rfl hpc hepc hnpc : State.Inv { s with
      mil := p.level, mcause := { s.mcause with code := BitVec.ofNat 12 p.id, interrupt := true } }).clearPending
        p.id).writeMstatus v
  | swap v => exact h.of_shaped rfl hpc hepc hnpc

end State.Inv

/-- An access that is allowed reaches a floating-point register only when it is enabled. -/
theorem csrAllowed_fp {s : State} {c : Csr} {w : Bool} (h : s.csrAllowed c w = true) (hf : c.isFp = true) :
    s.fpEnabled = true := by
  simpa [hf] using (Bool.and_eq_true_iff.mp h).2

/-! ## One instruction keeps the invariant -/

theorem InstrStep.inv {s t : State} (h : InstrStep s t) (hs : s.Inv) : t.Inv := by
  obtain ⟨hpc, hepc, hnpc⟩ := hs.even
  cases h with
  | retires hu ht => exact (hs.dataStep hu).goto (ht hpc)
  | traps c info b hu => exact (hs.dataStep hu).countTrap.takeException c info b hpc
  | csr rd old m ha he =>
    have hu := (hs.csrEffect (csrAllowed_fp ha) he).dataStep (.setX _ rd old)
    obtain ⟨_, hepc', hnpc'⟩ := hu.even
    exact hu.of_shaped rfl (even_add hpc rfl) hepc' hnpc'
  | sleeps b _ => exact hs.of_shaped rfl (even_add hpc rfl) hepc hnpc
  | returns m _ => exact hs.mret m

theorem exec_inv {i : Instr} {s t : State} (h : exec i s = .next t) (hs : s.Inv) : t.Inv := (exec_instrStep h).inv hs

/-! ## Reset -/

theorem Params.wf_resetPc {p : Params} (h : p.wf = true) : p.resetPc.getLsbD 0 = false := by
  simp only [Params.wf, Bool.and_eq_true, Bool.not_eq_true'] at h
  tauto

/-- The state after reset meets the invariant, whatever memory has been left. -/
theorem resetOf_inv {p : Params} (h : p.wf = true) {m : Memory} (hm : m.wf = true) :
    State.Inv { State.resetOf p with mem := m } := by
  refine ⟨h, hm, evenAddresses_iff.mpr ⟨Params.wf_resetPc h, ?_, ?_⟩, ?_, ?_, ?_, ?_, ?_, rfl, rfl⟩
  · simp [State.resetOf]
  · simp [State.resetOf]
  · simp [State.maskedCounters, State.resetOf]
  · simp [State.pmpShape, State.resetOf]
  · simp [State.hpmShape, State.resetOf, Function.comp_def]
  · refine clicShape_iff.mpr ⟨?_, fun c hc => ?_⟩
    · show List.map _ (List.map _ _) = _
      rw [List.map_map]; exact List.map_id _
    · obtain ⟨_, _, rfl⟩ := List.mem_map.mp hc
      exact BitVec.or_self
  · simp [State.fsTied, State.resetOf]

theorem onReset_inv {s : State} (hs : s.Inv) : s.onReset.Inv := by
  obtain ⟨hp, hm, _⟩ := hs
  have h := resetOf_inv hp (discardLines_wf hm everyLine)
  obtain ⟨hpc, hepc, hnpc⟩ := h.even
  exact h.of_shaped rfl hpc hepc hnpc

/-! ## The inputs -/

theorem DataStep.countMicroEvents (s : State) : DataStep s s.countMicroEvents := by
  suffices h : ∀ (l : List Nat) (t : State), DataStep t (l.foldl (fun t n => t.countEvent n (eventCount s.freeCtr n)) t) from
    h _ s
  intro l
  induction l with
  | nil => exact fun t => .refl t
  | cons n l ih => exact fun t => (DataStep.countEvent t n _).trans (ih _)

theorem sample_inv {s : State} (hs : s.Inv) : s.sample.Inv := by
  obtain ⟨hpc, hepc, hnpc⟩ := hs.even
  have ticked : s.takeInputs.tick.Inv := hs.of_shaped rfl hpc hepc hnpc
  have sampled : s.takeInputs.tick.sampleClic.Inv := ticked.mapSources fun _ => ⟨rfl, fun h => h⟩
  unfold State.sample
  dsimp only
  split
  · exact sampled
  · exact sampled.dataStep (.countMicroEvents _)

/-! ## The boundary -/

theorem nmiEntry_inv {s : State} (hs : s.Inv) : s.nmiEntry.Inv := by
  obtain ⟨hpc, hepc, _⟩ := hs.even
  exact hs.of_shaped rfl (even_handler s) hpc hepc

/-- The address of an entry of the vector table is even. -/
theorem even_tableEntry (s : State) (id : Nat) : (s.mtvt + BitVec.ofNat 32 (4 * id)).getLsbD 0 = false := by
  refine even_add (even_mtvt s) ?_
  simp only [BitVec.getLsbD, Nat.testBit_zero, decide_eq_false_iff_not, BitVec.toNat_ofNat]
  omega

theorem vectorEntry_inv {s t : State} {id : Nat} (hs : s.Inv) (h : s.vectorEntry id = .next t) : t.Inv := by
  obtain ⟨hpc, hepc, hnpc⟩ := hs.even
  rcases vectorEntry_cases h with ⟨w, rfl⟩ | rfl
  · exact hs.of_shaped rfl (even_evenTarget w) hepc hnpc
  · have minhv : (s.setMinhv true).Inv := hs.of_shaped rfl hpc hepc hnpc
    exact minhv.takeException _ _ _ (even_tableEntry s id)

theorem interruptEntry_inv {s t : State} {c : Presented} (hs : s.Inv) (h : s.interruptEntry c = .next t) : t.Inv := by
  obtain ⟨hpc, _, hnpc⟩ := hs.even
  have saved : (s.saveForInterrupt c).Inv := hs.of_shaped rfl hpc hpc hnpc
  unfold State.interruptEntry at h
  dsimp only at h
  split at h
  · exact vectorEntry_inv (saved.clearPending c.id) h
  · cases h; exact saved.of_shaped rfl (even_handler _) hpc hnpc

theorem reportBusError_inv {s : State} (hs : s.Inv) (e : BusError) : (s.reportBusError e).Inv := by
  obtain ⟨hpc, hepc, hnpc⟩ := hs.even
  have rest : State.Inv { s with busErrors := s.busErrors.tail } := hs.of_shaped rfl hpc hepc hnpc
  exact rest.takeException _ _ _ hpc

/-- What fetching and executing gives is what one instruction can do. -/
theorem fetchExecute_instrStep {s t : State} (h : s.fetchExecute = .next t) : InstrStep s t := by
  rcases fetchExecute_cases h with ⟨_, _, _, _, h⟩ | ⟨_, _, _, _, h⟩ | ⟨_, _, h⟩
  · exact exec_instrStep h
  · exact .of_raise (.refl s) h
  · exact .of_raise (.refl s) h

theorem boundary_inv {s t : State} (hs : s.Inv) (h : s.boundary = .next t) : t.Inv := by
  rcases boundary_cases h with ⟨_, rfl⟩ | ⟨_, c, _, h⟩ | ⟨_, _, e, _, rfl⟩ | ⟨_, _, _, h⟩
  · exact nmiEntry_inv hs
  · exact interruptEntry_inv hs h
  · exact reportBusError_inv hs e
  · exact (fetchExecute_instrStep h).inv hs

theorem afterSample_inv {s t : State} (hs : s.Inv) (h : s.afterSample = .next t) : t.Inv := by
  obtain ⟨hpc, hepc, hnpc⟩ := hs.even
  rcases afterSample_cases h with ⟨_, rfl⟩ | ⟨_, _, _, rfl⟩ | ⟨_, _, _, rfl⟩ | ⟨_, _, _, _, rfl⟩ | ⟨_, _, _, h⟩
  · exact onReset_inv hs
  · exact nmiEntry_inv hs
  · exact hs
  · exact hs
  · have awake : State.Inv { s with asleep := false } := hs.of_shaped rfl hpc hepc hnpc
    exact boundary_inv awake h

/-- Settles O9: the inputs, the boundary and every instruction keep the invariant. -/
theorem stepKeepsInvariant : Obligations.StepKeepsInvariant :=
  fun _ _ hs h => afterSample_inv (sample_inv hs) (step_next h).2

/-- Settles O8. -/
theorem resetMeetsInvariant : Obligations.ResetMeetsInvariant :=
  ⟨fun _ h => resetOf_inv h (m := []) rfl, resetOf_inv (p := Params.default) (m := []) (by decide +kernel) rfl⟩

end Sys2Proof.Machine
end


section
/-! SUPPORT. What user mode leaves unchanged (rules R31, R621), and what locked PMP entries keep (rule R55). -/

namespace Sys2Proof.Machine

open Sys2Proof.Config

/-! ## User mode -/

/-- In user mode a CSR instruction reaches the user registers only (rule R31). -/
theorem csrAllowed_user {s : State} {c : Csr} {w : Bool} (hu : s.priv = .user) (h : s.csrAllowed c w = true) :
    c.right = .urw ∨ c.right = .uro := by
  unfold State.csrAllowed at h
  cases hr : c.right <;> simp [hr, hu] at h ⊢

/-- A write of a register that user mode may reach changes FCSR and FS, or nothing. -/
theorem writeCsr_userRight {s u : State} {c : Csr} {v : Word} (hr : c.right = .urw ∨ c.right = .uro)
    (hfp : c.isFp = true → s.fpEnabled = true) (h : s.writeCsr v c = .ok u) : DataStep s u := by
  cases c with
  | fflags | frm | fcsr | fxcr => cases h; exact .setFcsr (hfp rfl) _
  | cycle | time | instret | cycleh | timeh | instreth | hpmcounter | hpmcounterh => cases h; exact .refl s
  | _ => simp [Csr.right] at hr

/-- In user mode a CSR instruction changes FCSR and FS, or nothing. -/
theorem CsrEffect.user {s u : State} {c : Csr} {w : Bool} (hu : s.priv = .user) (ha : s.csrAllowed c w = true)
    (h : CsrEffect s c u) : DataStep s u := by
  have hr := csrAllowed_user hu ha
  cases h with
  | read => exact .refl s
  | write h => exact writeCsr_userRight hr (csrAllowed_fp ha) h
  | writeStatus | claim => simp [Csr.right] at hr
  | swap v hm => simp [hm] at hr

/-- An instruction that starts and ends in user mode changes data, retires, or locks the core up (rules R590, R622). -/
theorem InstrStep.user {s t : State} (h : InstrStep s t) (hu : s.priv = .user) (ht : t.priv = .user) :
    ∃ u pc m, DataStep s u ∧
      (t = { u with pc := pc, minstret := m } ∨ t = State.lockUp { u with minstret := m } pc) := by
  cases h with
  | retires hd _ => exact ⟨_, _, _, hd, .inl rfl⟩
  | traps c info b hd =>
    rcases takeException_cases _ c s.pc info b with ⟨_, _, e⟩ | ⟨_, e⟩ <;> rw [e] at ht ⊢
    · exact ⟨_, _, _, hd, .inr rfl⟩
    · cases ht
  | csr rd old m ha he => exact ⟨_, _, _, (he.user hu ha).trans (.setX _ rd old), .inl rfl⟩
  | sleeps b hm => rw [hu] at hm; cases hm
  | returns m hm => rw [hu] at hm; cases hm

/-- Settles O21: what is not data is as before, and the devices are out of reach. -/
theorem userKeepsMachineState : Obligations.UserKeepsMachineState := by
  intro i s t h hu hd ht
  obtain ⟨u, pc, m, hdata, ht⟩ := (exec_instrStep h).user hu ht
  obtain ⟨hclint, hclic⟩ := hdata.user hd
  have hhpm := hdata.hpm
  obtain ⟨d, rfl⟩ : ∃ d, u = s.withData d := ⟨u, hdata.frame⟩
  rcases ht with rfl | rfl
  · exact ⟨rfl, rfl, rfl, rfl, rfl, rfl, rfl, rfl, rfl, rfl, rfl, rfl, rfl, rfl, rfl, rfl, rfl, rfl, hclint, hclic, rfl, rfl,
      hhpm, .inl ⟨rfl, rfl⟩⟩
  · exact ⟨rfl, rfl, rfl, rfl, rfl, rfl, rfl, rfl, rfl, rfl, rfl, rfl, rfl, rfl, rfl, rfl, rfl, rfl, hclint, hclic, rfl, rfl,
      hhpm, .inr ⟨rfl, rfl⟩⟩

/-! ## Locked PMP entries (rule R55) -/

/-- Locked entries of `s` are in `t` as they were, and so are the address registers below locked TOR entries. -/
def State.keepsLocked (s t : State) : Prop :=
  ∀ i e, s.pmp[i]? = some e → e.cfg.getLsbD 7 = true →
    t.pmp[i]? = some e ∧ (e.cfg.extractLsb' 3 2 = 0b01 → ∀ j, j + 1 = i → t.readPmpAddr j = s.readPmpAddr j)

theorem keepsLocked_of_pmp {s t : State} (h : t.pmp = s.pmp) : s.keepsLocked t :=
  fun i e he _ => ⟨h ▸ he, fun _ j _ => by simp only [State.readPmpAddr, h]⟩

/-- The entries after a write of PMPCFGk. -/
theorem writePmpCfg_getElem? (s : State) (k : Nat) (v : Word) (i : Nat) :
    (s.writePmpCfg k v).pmp[i]? =
      s.pmp[i]?.map fun e => if i / 4 = k then e.writeCfg (v.extractLsb' (8 * (i % 4)) 8) else e :=
  List.getElem?_mapIdx

/-- The entries after a write of PMPADDRi. -/
theorem writePmpAddr_getElem? (s : State) (i : Nat) (v : Word) (j : Nat) :
    (s.writePmpAddr i v).pmp[j]? =
      s.pmp[j]?.map fun e => if j = i ∧ !e.locked ∧ !s.pmpLocksBelow (i + 1) then { e with addr := v } else e :=
  List.getElem?_mapIdx

theorem PmpEntry.writeCfg_addr (e : PmpEntry) (v : Byte) : (e.writeCfg v).addr = e.addr := by
  unfold PmpEntry.writeCfg; split <;> rfl

theorem writePmpCfg_keepsLocked (s : State) (k : Nat) (v : Word) : s.keepsLocked (s.writePmpCfg k v) := by
  intro i e he hl
  refine ⟨?_, fun _ j _ => ?_⟩
  · rw [writePmpCfg_getElem?, he, Option.map_some, PmpEntry.writeCfg, PmpEntry.locked, if_pos hl, ite_self]
  · simp only [State.readPmpAddr, writePmpCfg_getElem?, Option.map_map]
    refine congrArg (fun o => Option.getD o 0) (Option.map_congr fun d _ => ?_)
    rw [Function.comp_apply]
    split
    · exact d.writeCfg_addr _
    · rfl

theorem writePmpAddr_keepsLocked (s : State) (i : Nat) (v : Word) : s.keepsLocked (s.writePmpAddr i v) := by
  intro j e he hl
  refine ⟨?_, fun htor k hk => ?_⟩
  · rw [writePmpAddr_getElem?, he, Option.map_some, if_neg (by simp [PmpEntry.locked, hl])]
  · simp only [State.readPmpAddr, writePmpAddr_getElem?]
    cases hd : s.pmp[k]? with
    | none => rfl
    | some d =>
      rw [Option.map_some, if_neg]
      rintro ⟨rfl, _, hb⟩
      have hl : e.locked = true := hl
      simp [State.pmpLocksBelow, hk, he, hl, PmpEntry.mode, htor] at hb

/-- Only the PMP registers change PMP entries. -/
theorem writeCsr_pmp {s u : State} {c : Csr} {v : Word} (h : s.writeCsr v c = .ok u) :
    u.pmp = s.pmp ∨ (∃ k, c = .pmpcfg k ∧ u = s.writePmpCfg k v) ∨ ∃ i, c = .pmpaddr i ∧ u = s.writePmpAddr i v := by
  cases c with
  | pmpcfg k => cases h; exact .inr (.inl ⟨k, rfl, rfl⟩)
  | pmpaddr i => cases h; exact .inr (.inr ⟨i, rfl, rfl⟩)
  | mxstatus =>
    simp only [State.writeCsr, State.writeMxstatus] at h
    split at h <;> cases h
    exact .inl rfl
  | mhcr =>
    simp only [State.writeCsr, State.writeMhcr] at h
    split at h <;> cases h
    exact .inl rfl
  | _ => cases h; exact .inl rfl

theorem CsrEffect.keepsLocked {s u : State} {c : Csr} (h : CsrEffect s c u) : s.keepsLocked u := by
  cases h with
  | write h =>
    rcases writeCsr_pmp h with e | ⟨k, _, rfl⟩ | ⟨i, _, rfl⟩
    · exact keepsLocked_of_pmp e
    · exact writePmpCfg_keepsLocked s k _
    · exact writePmpAddr_keepsLocked s i _
  | read | writeStatus | claim | swap => exact keepsLocked_of_pmp rfl

theorem takeException_pmp (s : State) (c : Cause) (epc info : Word) (b : Bool) :
    (s.takeException c epc info b).pmp = s.pmp := by
  rcases takeException_cases s c epc info b with ⟨_, _, e⟩ | ⟨_, e⟩ <;> simp only [e, State.lockUp]

theorem InstrStep.keepsLocked {s t : State} (h : InstrStep s t) : s.keepsLocked t := by
  cases h with
  | retires hd _ => exact keepsLocked_of_pmp hd.pmp
  | traps c info b hd => exact keepsLocked_of_pmp ((takeException_pmp _ c _ info b).trans hd.pmp)
  | csr rd old m _ he =>
    intro i e hi hl
    obtain ⟨h1, h2⟩ := he.keepsLocked i e hi hl
    simp only [State.readPmpAddr, setX_pmp] at h2 ⊢
    exact ⟨h1, h2⟩
  | sleeps => exact keepsLocked_of_pmp rfl
  | returns =>
    refine keepsLocked_of_pmp ?_
    dsimp only
    split <;> rfl

theorem sample_pmp (s : State) : s.sample.pmp = s.pmp := by
  unfold State.sample
  dsimp only
  split
  · rfl
  · exact (DataStep.countMicroEvents _).pmp

theorem interruptEntry_pmp {s t : State} {c : Presented} (h : s.interruptEntry c = .next t) : t.pmp = s.pmp := by
  unfold State.interruptEntry at h
  dsimp only at h
  split at h
  · rcases vectorEntry_cases h with ⟨w, rfl⟩ | rfl
    · rfl
    · exact takeException_pmp _ _ _ _ _
  · cases h; rfl

theorem boundary_keepsLocked {s t : State} (h : s.boundary = .next t) : s.keepsLocked t := by
  rcases boundary_cases h with ⟨_, rfl⟩ | ⟨_, c, _, h⟩ | ⟨_, _, e, _, rfl⟩ | ⟨_, _, _, h⟩
  · exact keepsLocked_of_pmp rfl
  · exact keepsLocked_of_pmp (interruptEntry_pmp h)
  · exact keepsLocked_of_pmp (takeException_pmp _ _ _ _ _)
  · exact (fetchExecute_instrStep h).keepsLocked

theorem afterSample_keepsLocked {s t : State} (hr : s.pins.reset = false) (h : s.afterSample = .next t) :
    s.keepsLocked t := by
  rcases afterSample_cases h with ⟨hr', _⟩ | ⟨_, _, _, rfl⟩ | ⟨_, _, _, rfl⟩ | ⟨_, _, _, _, rfl⟩ | ⟨_, _, _, h⟩
  · simp [hr] at hr'
  · exact keepsLocked_of_pmp rfl
  · exact keepsLocked_of_pmp rfl
  · exact keepsLocked_of_pmp rfl
  · exact (boundary_keepsLocked h : State.keepsLocked { s with asleep := false } t)

/-- A step without reset keeps locked entries. -/
theorem step_keepsLocked {s t : State} (h : step s = .next t) (hr : s.sample.pins.reset = false) : s.keepsLocked t := by
  have hk := afterSample_keepsLocked hr (step_next h).2
  unfold State.keepsLocked State.readPmpAddr at hk ⊢
  rwa [sample_pmp] at hk

/-- A step with reset leaves no entry locked. -/
theorem step_reset_unlocked {s t : State} (h : step s = .next t) (hr : s.sample.pins.reset = true) :
    ∀ e ∈ t.pmp, e.cfg.getLsbD 7 = false := by
  rcases afterSample_cases (step_next h).2 with ⟨_, rfl⟩ | ⟨hr', _⟩ | ⟨hr', _⟩ | ⟨hr', _⟩ | ⟨hr', _⟩
  · intro e he
    rw [List.eq_of_mem_replicate he]; rfl
  all_goals simp [hr] at hr'

end Sys2Proof.Machine
end


section
/-! SUPPORT. The CSR instructions: which register an address names, which accesses are allowed, and what each form leaves
(rules R30, R31, R299 to R305). -/

namespace Sys2Proof.Machine

open Sys2Proof.Config

/-! ## The register at an address (rule R30) -/

/-- An implemented address is in the table, or in one of the ranges. -/
theorem csrAt_cases {a : BitVec 12} {c : Csr} (h : csrAt a = some c) :
    (a.toNat, c) ∈ csrTable ∨
    ∃ r ∈ csrRanges, r.1 ≤ a.toNat ∧ a.toNat < r.1 + r.2.2.1 ∧ c = r.2.2.2 (r.2.1 + (a.toNat - r.1)) := by
  unfold csrAt at h
  split at h
  · rename_i d hd
    cases h
    obtain ⟨l, m, e, _⟩ := List.lookup_eq_some_iff.mp hd
    exact .inl (by rw [e]; simp)
  · obtain ⟨⟨lo, k, n, mk⟩, hf, rfl⟩ := Option.map_eq_some_iff.mp h
    have hr := List.find?_some hf
    simp only [Bool.and_eq_true, decide_eq_true_eq] at hr
    exact .inr ⟨_, List.mem_of_find?_eq_some hf, hr.1, hr.2, rfl⟩

/-- An address is implemented exactly when it is in the table or in one of the ranges. -/
theorem csrAt_ne_none_iff {a : BitVec 12} : csrAt a ≠ none ↔
    a.toNat ∈ csrTable.map Prod.fst ∨ ∃ r ∈ csrRanges, r.1 ≤ a.toNat ∧ a.toNat < r.1 + r.2.2.1 := by
  constructor
  · intro h
    obtain ⟨c, hc⟩ := Option.ne_none_iff_exists'.mp h
    rcases csrAt_cases hc with h | ⟨r, hr, hlo, hhi, _⟩
    · exact .inl (List.mem_map_of_mem h)
    · exact .inr ⟨r, hr, hlo, hhi⟩
  · intro h hn
    unfold csrAt at hn
    split at hn
    · cases hn
    · rename_i hl
      rcases h with h | ⟨r, hr, hlo, hhi⟩
      · obtain ⟨p, hp, e⟩ := List.mem_map.mp h
        have := List.lookup_eq_none_iff.mp hl p hp
        simp [e] at this
      · have := List.find?_eq_none.mp (Option.map_eq_none_iff.mp hn) r hr
        simp [hlo, hhi] at this

theorem csrAt_pmpcfg {k : Nat} (hk : k < 4) : csrAt (BitVec.ofNat 12 (0x3A0 + k)) = some (.pmpcfg k) := by
  interval_cases k <;> rfl

theorem csrAt_pmpaddr {i : Nat} (hi : i < 16) : csrAt (BitVec.ofNat 12 (0x3B0 + i)) = some (.pmpaddr i) := by
  interval_cases i <;> rfl

theorem csrAt_mhpmevent {n : Nat} (h : 3 ≤ n) (h' : n ≤ 17) : csrAt (BitVec.ofNat 12 (0x320 + n)) = some (.mhpmevent n) := by
  interval_cases n <;> rfl

theorem csrAt_mhpmcounter {n : Nat} (h : 3 ≤ n) (h' : n ≤ 17) :
    csrAt (BitVec.ofNat 12 (0xB00 + n)) = some (.mhpmcounter n) := by
  interval_cases n <;> rfl

theorem csrAt_mhpmcounterh {n : Nat} (h : 3 ≤ n) (h' : n ≤ 17) :
    csrAt (BitVec.ofNat 12 (0xB80 + n)) = some (.mhpmcounterh n) := by
  interval_cases n <;> rfl

theorem csrAt_hpmcounter {n : Nat} (h : 3 ≤ n) (h' : n ≤ 17) : csrAt (BitVec.ofNat 12 (0xC00 + n)) = some (.hpmcounter n) := by
  interval_cases n <;> rfl

theorem csrAt_hpmcounterh {n : Nat} (h : 3 ≤ n) (h' : n ≤ 17) :
    csrAt (BitVec.ofNat 12 (0xC80 + n)) = some (.hpmcounterh n) := by
  interval_cases n <;> rfl

/-! ## Access rights (rule R31) -/

/-- The registers that are read and written as themselves: not the views MNXTI, MSCRATCHCSW and MSCRATCHCSWL. -/
def Csr.isPlain : Csr → Bool
  | .mnxti | .mscratchcsw | .mscratchcswl => false
  | _ => true

/-- MINSTRET and MINSTRETH, which count the instruction that writes them or not (U12). -/
def Csr.isInstret : Csr → Bool
  | .minstret | .minstreth => true
  | _ => false

/-- Machine mode may access every machine register. -/
theorem csrAllowed_machine {s : State} {c : Csr} {w : Bool} (hp : s.priv = .machine) (hr : c.right = .mrw) :
    s.csrAllowed c w = true := by
  have hf : c.isFp = false := by cases c <;> first | rfl | cases hr
  simp [State.csrAllowed, hr, hp, hf]

/-- Writes to read-only registers are illegal. -/
theorem csrAllowed_readOnly {s : State} {c : Csr} (hr : c.right = .mro ∨ c.right = .uro) :
    s.csrAllowed c true = false := by
  rcases hr with hr | hr <;> simp [State.csrAllowed, hr]

/-- A read of a user image is allowed in machine mode, and in user mode when its MCOUNTEREN bit is 1 (rule R56). -/
theorem csrAllowed_image {s : State} {c : Csr} (hr : c.right = .uro) :
    s.csrAllowed c false = (s.priv == .machine || s.mcounteren.getLsbD c.counterBit) := by
  have hf : c.isFp = false := by cases c <;> first | rfl | cases hr
  simp [State.csrAllowed, hr, hf]

/-! ## What the forms come to -/

theorem csrInstr_illegal {s : State} {i : Instr} {a : BitVec 12} {op : CsrOp} {write imm : Bool} {rd : Reg} {v : Word}
    (h : ∀ c, csrAt a = some c → s.csrAllowed c write = false) : s.csrInstr i a op write imm rd v = s.illegal i := by
  unfold State.csrInstr
  split
  · rfl
  · simp [h _ ‹_›]

theorem csrInstr_plain {s : State} {c : Csr} {i : Instr} {a : BitVec 12} {op : CsrOp} {write imm : Bool} {rd : Reg} {v : Word}
    (ha : csrAt a = some c) (hp : c.isPlain = true) (hw : s.csrAllowed c write = true) :
    s.csrInstr i a op write imm rd v = s.accessPlain c op write rd v := by
  unfold State.csrInstr
  rw [ha]
  simp only [hw, Bool.not_true, Bool.false_eq_true, if_false]
  split <;> first | rfl | cases hp

theorem csrInstr_write {s u : State} {c : Csr} {i : Instr} {a : BitVec 12} {op : CsrOp} {imm : Bool} {rd : Reg} {v : Word}
    (ha : csrAt a = some c) (hp : c.isPlain = true) (hw : s.csrAllowed c true = true)
    (hu : s.writeCsr (op.apply (s.readCsr c) v) c = .ok u) :
    s.csrInstr i a op true imm rd v = s.csrDone u c true rd (s.readCsr c) := by
  rw [csrInstr_plain ha hp hw, State.accessPlain, if_pos rfl, hu]

theorem csrInstr_read {s : State} {c : Csr} {i : Instr} {a : BitVec 12} {op : CsrOp} {imm : Bool} {rd : Reg} {v : Word}
    (ha : csrAt a = some c) (hp : c.isPlain = true) (hw : s.csrAllowed c false = true) :
    s.csrInstr i a op false imm rd v = s.csrDone s c false rd (s.readCsr c) := by
  rw [csrInstr_plain ha hp hw, State.accessPlain, if_neg Bool.false_ne_true]

/-- The six forms, and whether each writes (rule R299). -/
def csrForms (a : BitVec 12) (rd rs1 : Reg) (uimm : BitVec 5) : List (Instr × Bool) :=
  [(.csrrw rd rs1 a, true), (.csrrs rd rs1 a, rs1 != 0), (.csrrc rd rs1 a, rs1 != 0),
    (.csrrwi rd uimm a, true), (.csrrsi rd uimm a, uimm != 0), (.csrrci rd uimm a, uimm != 0)]

theorem csrForms_illegal {s : State} {a : BitVec 12} {rd rs1 : Reg} {uimm : BitVec 5} {f : Instr × Bool}
    (hf : f ∈ csrForms a rd rs1 uimm) (h : ∀ c, csrAt a = some c → s.csrAllowed c f.2 = false) :
    ∃ t, exec f.1 s = .next t ∧ s.trapped t 2 (encode f.1).value := by
  have e : exec f.1 s = s.illegal f.1 := by
    simp only [csrForms, List.mem_cons, List.not_mem_nil, or_false] at hf
    rcases hf with rfl | rfl | rfl | rfl | rfl | rfl <;> exact csrInstr_illegal h
  rw [e]; exact illegal_trapped s f.1

/-- The forms that write, and the value that each writes over an old one (rules R300 to R305). -/
def csrWrites (a : BitVec 12) (old v : Word) (rd rs1 : Reg) (uimm : BitVec 5) : List (Instr × Word) :=
  let u := BitVec.ofNat 32 uimm.toNat
  [(Instr.csrrw rd rs1 a, v), (.csrrwi rd uimm a, u)] ++
    (if rs1 = 0 then [] else [(Instr.csrrs rd rs1 a, old ||| v), (.csrrc rd rs1 a, old &&& ~~~v)]) ++
    if uimm = 0 then [] else [(Instr.csrrsi rd uimm a, old ||| u), (.csrrci rd uimm a, old &&& ~~~u)]

theorem csrWrites_exec {s u : State} {c : Csr} {a : BitVec 12} {rd rs1 : Reg} {uimm : BitVec 5} {f : Instr × Word}
    (hf : f ∈ csrWrites a (s.readCsr c) (s.readX rs1) rd rs1 uimm)
    (ha : csrAt a = some c) (hp : c.isPlain = true) (hw : s.csrAllowed c true = true) (hu : s.writeCsr f.2 c = .ok u) :
    exec f.1 s = s.csrDone u c true rd (s.readCsr c) := by
  simp only [csrWrites, BitVec.ofNat_toNat, List.mem_append, List.mem_cons, List.mem_ite_nil_left, List.not_mem_nil,
    or_false] at hf
  rcases hf with ((rfl | rfl) | ⟨h, rfl | rfl⟩) | ⟨h, rfl | rfl⟩
  · exact csrInstr_write ha hp hw hu
  · exact csrInstr_write ha hp hw hu
  · simp only [exec, execCsrrs, bne_iff_ne.mpr h]; exact csrInstr_write ha hp hw hu
  · simp only [exec, execCsrrc, bne_iff_ne.mpr h]; exact csrInstr_write ha hp hw hu
  · simp only [exec, execCsrrsi, bne_iff_ne.mpr h]; exact csrInstr_write ha hp hw hu
  · simp only [exec, execCsrrci, bne_iff_ne.mpr h]; exact csrInstr_write ha hp hw hu

/-- The four forms that read only: a zero operand field of the set and clear forms (rule R299). -/
def csrReads (a : BitVec 12) (rd : Reg) : List Instr := [.csrrs rd 0 a, .csrrc rd 0 a, .csrrsi rd 0 a, .csrrci rd 0 a]

theorem csrReads_forms {a : BitVec 12} {rd : Reg} {i : Instr} (h : i ∈ csrReads a rd) : (i, false) ∈ csrForms a rd 0 0 := by
  simp only [csrReads, List.mem_cons, List.not_mem_nil, or_false] at h
  rcases h with rfl | rfl | rfl | rfl <;> simp [csrForms]

theorem csrReads_exec {s : State} {c : Csr} {a : BitVec 12} {rd : Reg} {i : Instr} (hi : i ∈ csrReads a rd)
    (ha : csrAt a = some c) (hp : c.isPlain = true) (hw : s.csrAllowed c false = true) :
    exec i s = s.csrDone s c false rd (s.readCsr c) := by
  simp only [csrReads, List.mem_cons, List.not_mem_nil, or_false] at hi
  rcases hi with rfl | rfl | rfl | rfl <;> exact csrInstr_read ha hp hw

/-! ## What a CSR instruction leaves -/

/-- `rd` is written over a register file that is as before. -/
theorem wroteX_setX {s t u : State} {rd : Reg} {v : Word} (hu : u.x = s.x) (ht : t.x = (u.setX rd v).x) :
    s.wroteX t rd v := fun r => by
  rw [readX_congr ht, readX_setX, readX_congr hu]

/-- MINSTRET counts a CSR instruction that does not write it as any other (rule R60). -/
theorem csrRetired_eq {s t : State} {c : Csr} {w : Bool} (h : w = false ∨ c.isInstret = false)
    (ht : t.minstret = s.minstret) : s.csrRetired t c w = s.retired := by
  have free : (w && (c == .minstret || c == .minstreth)) = false := by
    rcases h with rfl | h
    · rfl
    · have hc : (c == .minstret || c == .minstreth) = false := by
        cases c <;> first | rfl | cases h
      simp [hc]
  simp [State.csrRetired, free, State.retired, ht]

/-- An instruction that reads a register gives its value and changes nothing else. -/
theorem csrDone_read (s : State) (c : Csr) (rd : Reg) (old : Word) :
    ∃ t, s.csrDone s c false rd old = .next t ∧ s.gaveX t rd old 4 := by
  refine ⟨_, rfl, wroteX_setX rfl rfl, ⟨rfl, csrRetired_eq (.inl rfl) rfl⟩, fun a => ?_, ?_⟩
  · dsimp only; rw [setX_mem]
  · obtain ⟨x, hx⟩ := setX_frame s rd old
    rw [hx]

/-- An instruction that writes MSCRATCH, under its own address or through a view, changes nothing else. -/
theorem csrDone_mscratch (s : State) {c : Csr} (hc : c.isInstret = false) (write : Bool) (w : Word) (rd : Reg) (old : Word) :
    ∃ t, s.csrDone { s with mscratch := w } c write rd old = .next t ∧
      s.wroteX t rd old ∧ s.retiredTo t (s.pc + 4) ∧ s.sameMemory t ∧ t.mscratch = w ∧
      t = { s with x := t.x, mscratch := t.mscratch, pc := t.pc, minstret := t.minstret } := by
  refine ⟨_, rfl, wroteX_setX (u := { s with mscratch := w }) rfl rfl, ⟨rfl, csrRetired_eq (.inr hc) rfl⟩, fun a => ?_, ?_, ?_⟩
  · dsimp only; rw [setX_mem]
  · dsimp only; rw [setX_mscratch]
  · obtain ⟨x, hx⟩ := setX_frame { s with mscratch := w } rd old
    rw [hx]

/-! ## MSCRATCH and its views (rules R43 to R45) -/

/-- Settles O28: each form writes what `CsrOp.apply` computes, or only reads when its operand field is 0. -/
theorem csrFormsOnMscratch : Obligations.CsrFormsOnMscratch := by
  intro s rd rs1 uimm hp
  have hw : ∀ w, s.csrAllowed .mscratch w = true := fun w => csrAllowed_machine hp rfl
  have form : ∀ (i : Instr) (op : CsrOp) (write imm : Bool) (v : Word),
      ∃ t, s.csrInstr i 0x340 op write imm rd v = .next t ∧
        s.wroteX t rd s.mscratch ∧ s.retiredTo t (s.pc + 4) ∧ s.sameMemory t ∧
        t.mscratch = (if write = true then op.apply s.mscratch v else s.mscratch) ∧
        t = { s with x := t.x, mscratch := t.mscratch, pc := t.pc, minstret := t.minstret } := by
    intro i op write imm v
    cases write with
    | true => rw [csrInstr_write (c := .mscratch) rfl rfl (hw _) rfl]; exact csrDone_mscratch s rfl true _ rd _
    | false => rw [csrInstr_read (c := .mscratch) rfl rfl (hw _)]; exact csrDone_mscratch s rfl false s.mscratch rd _
  have operand : ∀ (n : Nat) (r : BitVec n) (x y : Word), (if (r != 0) = true then x else y) = if r = 0 then y else x :=
    fun n r x y => by by_cases h : r = 0 <;> simp [h]
  simp only [BitVec.ofNat_toNat, ← operand]
  exact ⟨form _ .write true false _, form _ .set _ false _, form _ .clear _ false _, form _ .write true true _,
    form _ .set _ true _, form _ .clear _ true _⟩

/-- MPP, MPIL and MIL as their registers read (rules R44, R45, R48). -/
theorem readCsr_mcause_mpp (s : State) : (s.readCsr .mcause).extractLsb' 28 2 = s.mstatus.mpp.bits := by
  simp only [State.readCsr, State.readMcause, placeBit, place]
  apply BitVec.eq_of_getLsbD_eq
  intro k hk
  interval_cases k <;> simp

end Sys2Proof.Machine
end


section
namespace Sys2Proof.Machine

open Sys2Proof.Config

theorem readCsr_mcause_mpil (s : State) : (s.readCsr .mcause).extractLsb' 16 8 = s.mcause.mpil := by
  simp only [State.readCsr, State.readMcause, placeBit, place]
  apply BitVec.eq_of_getLsbD_eq
  intro k hk
  interval_cases k <;> simp

theorem readCsr_mintstatus_mil (s : State) : (s.readCsr .mintstatus).extractLsb' 24 8 = s.mil := by
  simp only [State.readCsr, place]
  apply BitVec.eq_of_getLsbD_eq
  intro k hk
  interval_cases k <;> simp

/-- A swap view exchanges MSCRATCH with the operand, or copies the operand. -/
theorem swapScratch_swaps (s : State) {c : Csr} (hc : c.isInstret = false) (sw : Bool) (rd : Reg) (v : Word) :
    ∃ t, s.swapScratch c sw rd v = .next t ∧
      (sw = true → s.wroteX t rd s.mscratch ∧ t.mscratch = v) ∧ (sw = false → s.wroteX t rd v ∧ t.mscratch = s.mscratch) ∧
      s.retiredTo t (s.pc + 4) ∧ s.sameMemory t ∧
      t = { s with x := t.x, mscratch := t.mscratch, pc := t.pc, minstret := t.minstret } := by
  unfold State.swapScratch
  cases sw with
  | true =>
    obtain ⟨t, ht, hx, hr, hm, hs, e⟩ := csrDone_mscratch s hc true v rd s.mscratch
    exact ⟨t, ht, fun _ => ⟨hx, hs⟩, nofun, hr, hm, e⟩
  | false =>
    obtain ⟨t, ht, hx, hr, hm, hs, e⟩ := csrDone_mscratch s hc true s.mscratch rd v
    exact ⟨t, ht, nofun, fun _ => ⟨hx, hs⟩, hr, hm, e⟩

/-- Settles O31. -/
theorem mscratchcswSwaps : Obligations.MscratchcswSwaps := by
  intro s rd rs1 hp
  have swaps : ∀ (c : Csr) (a : BitVec 12) (sw : Bool) (P : Prop), c.isInstret = false → (P ↔ sw = true) →
      exec (.csrrw rd rs1 a) s = s.swapScratch c sw rd (s.readX rs1) →
      ∃ t, exec (.csrrw rd rs1 a) s = .next t ∧ (P → s.wroteX t rd s.mscratch ∧ t.mscratch = s.readX rs1) ∧
        (¬ P → s.wroteX t rd (s.readX rs1) ∧ t.mscratch = s.mscratch) ∧ s.retiredTo t (s.pc + 4) ∧ s.sameMemory t ∧
        t = { s with x := t.x, mscratch := t.mscratch, pc := t.pc, minstret := t.minstret } := by
    intro c a sw P hc hP e
    rw [e, hP, Bool.not_eq_true]
    exact swapScratch_swaps s hc sw rd (s.readX rs1)
  have ha : ∀ c : Csr, c.right = .mrw → (!s.csrAllowed c true) = false := fun c hc => by simp [csrAllowed_machine hp hc]
  refine ⟨swaps .mscratchcsw _ (s.mstatus.mpp != .machine) _ rfl ?_ ?_,
    swaps .mscratchcswl _ ((s.mcause.mpil == 0) != (s.mil == 0)) _ rfl ?_ ?_⟩
  · rw [readCsr_mcause_mpp]
    cases s.mstatus.mpp <;> decide
  · show (if (!s.csrAllowed .mscratchcsw true) = true then _ else _) = _
    rw [ha _ rfl]; rfl
  · rw [readCsr_mcause_mpil, readCsr_mintstatus_mil, bne_iff_ne, ne_eq, ne_eq, ← Bool.coe_iff_coe, eq_iff_iff, beq_iff_eq,
      beq_iff_eq]
  · show (if (!s.csrAllowed .mscratchcswl true) = true then _ else _) = _
    rw [ha _ rfl]; rfl

/-! ## Which accesses are illegal (rule R31) -/

/-- What holds of the table and of the ranges holds of every implemented register. -/
theorem csrAt_forall {P : Nat → Csr → Prop} (table : ∀ p ∈ csrTable, P p.1 p.2)
    (ranges : ∀ r ∈ csrRanges, ∀ j, j < r.2.2.1 → P (r.1 + j) (r.2.2.2 (r.2.1 + j))) {a : BitVec 12} {c : Csr}
    (h : csrAt a = some c) : P a.toNat c := by
  rcases csrAt_cases h with h | ⟨r, hr, hlo, hhi, rfl⟩
  · exact table _ h
  · have := ranges r hr (a.toNat - r.1) (by omega)
    rwa [Nat.add_sub_cancel' hlo] at this

/-- What an address tells of its register: whether it is a machine register, read-only, a counter image or a floating-point
register (rule R30). -/
def Csr.fits (n : Nat) (c : Csr) : Prop :=
  (n / 0x100 % 4 = 3 → c.right = .mrw ∨ c.right = .mro) ∧
  (n ∈ [0x346, 0x350, 0x7E0] ∨ 0xC00 ≤ n → c.right = .mro ∨ c.right = .uro) ∧
  (0xC00 ≤ n ∧ n < 0xD00 → c.right = .uro ∧ c.counterBit = n % 0x80) ∧
  (n ∈ [0x001, 0x002, 0x003, 0x800] → c.isFp = true)

theorem Csr.fits_machine {n : Nat} {c : Csr} (hc : c.right = .mrw) (hn : n < 0xC00)
    (hn' : n ∉ [0x346, 0x350, 0x7E0, 0x001, 0x002, 0x003, 0x800]) : c.fits n := by
  simp only [List.mem_cons, List.not_mem_nil, or_false, not_or] at hn'
  simp only [Csr.fits, List.mem_cons, List.not_mem_nil, or_false]
  exact ⟨fun _ => .inl hc, fun h => by omega, fun h => by omega, fun h => by omega⟩

theorem Csr.fits_image {n : Nat} {c : Csr} (hc : c.right = .uro) (hb : c.counterBit = n % 0x80) (hn : 0xC00 ≤ n)
    (hn' : n < 0xD00) : c.fits n := by
  simp only [Csr.fits, List.mem_cons, List.not_mem_nil, or_false]
  exact ⟨fun h => by omega, fun _ => .inr hc, fun _ => ⟨hc, hb⟩, fun h => by omega⟩

theorem csrAt_fits {a : BitVec 12} {c : Csr} (h : csrAt a = some c) : c.fits a.toNat := by
  refine csrAt_forall (P := fun n c => c.fits n) ?_ ?_ h
  · unfold Csr.fits; decide
  · simp only [csrRanges, List.forall_mem_cons, List.not_mem_nil, false_implies, implies_true, and_true]
    have machine : ∀ {lo m j : Nat} {c : Csr}, c.right = .mrw → j < m → 0x350 < lo ∧ lo + m ≤ 0x7E0 ∨
        0x3 < lo ∧ lo + m ≤ 0x346 ∨ 0x800 < lo ∧ lo + m ≤ 0xC00 → c.fits (lo + j) :=
      fun hc _ _ => Csr.fits_machine hc (by omega) (by simp; omega)
    exact ⟨fun j hj => machine rfl hj (by omega), fun j hj => machine rfl hj (by omega),
      fun j hj => machine rfl hj (by omega), fun j hj => machine rfl hj (by omega), fun j hj => machine rfl hj (by omega),
      fun j hj => Csr.fits_image rfl (by simp only [Csr.counterBit]; omega) (by omega) (by omega),
      fun j hj => Csr.fits_image rfl (by simp only [Csr.counterBit]; omega) (by omega) (by omega)⟩

/-- The addresses with one register each, in rising order. -/
theorem csrTable_addresses : (csrTable.map Prod.fst).Perm
    [0x001, 0x002, 0x003, 0x300, 0x301, 0x304, 0x305, 0x306, 0x307, 0x320, 0x340, 0x341, 0x342, 0x343, 0x344, 0x345, 0x346,
      0x348, 0x349, 0x350, 0x7C0, 0x7C1, 0x7C5, 0x7E0, 0x7E1, 0x7E2, 0x7E3, 0x800, 0xB00, 0xB02, 0xB80, 0xB82, 0xC00, 0xC01,
      0xC02, 0xC80, 0xC81, 0xC82, 0xF11, 0xF12, 0xF13, 0xF14, 0xFC0] := by decide

/-- Settles O29: an access is illegal when its address names no register, or one whose right, MCOUNTEREN bit or FS forbids it. -/
theorem csrIllegalAccess : Obligations.CsrIllegalAccess := by
  intro s rd rs1 uimm a n implemented machineOnly readOnly image
  have himp : csrAt a ≠ none ↔ implemented := by
    rw [csrAt_ne_none_iff, csrTable_addresses.mem_iff]
    refine or_congr_right ?_
    simp only [csrRanges, List.exists_mem_cons_iff, List.not_mem_nil, false_and, exists_false, or_false]
    omega
  refine ⟨himp, fun f hf h => csrForms_illegal hf fun c hc => ?_⟩
  obtain ⟨hmachine, hread, himage, hfp⟩ := csrAt_fits hc
  rcases h with h | ⟨h, hu⟩ | ⟨h, hw⟩ | ⟨h, hu, hb⟩ | ⟨h, hfs⟩
  · exact absurd (himp.mp (by simp [hc])) h
  · rcases hmachine h with hr | hr <;> simp [State.csrAllowed, hr, hu]
  · rw [hw]; exact csrAllowed_readOnly (hread h)
  · obtain ⟨hr, hbit⟩ := himage h
    cases hw : f.2 with
    | true => exact csrAllowed_readOnly (.inr hr)
    | false => rw [csrAllowed_image hr, hbit, hb, hu]; rfl
  · simp [State.csrAllowed, hfp h, State.fpEnabled, hfs]

/-! ## PMP registers (rules R53 to R55) -/

/-- Settles O24. -/
theorem lockedPmpEntriesStay : Obligations.LockedPmpEntriesStay := by
  refine ⟨fun s t h hr => step_keepsLocked h hr, fun s rd rs1 uimm k hk hp f hf => ?_, fun s rd rs1 uimm i hi hp f hf => ?_,
    fun s t hr h => step_reset_unlocked h hr⟩
  · refine ⟨_, (csrWrites_exec hf (csrAt_pmpcfg hk) rfl (csrAllowed_machine hp rfl) rfl).trans rfl, rfl, ?_, fun j e hj he => ?_⟩
    · dsimp only; rw [setX_priv]; exact hp
    · dsimp only
      rw [setX_pmp, writePmpCfg_getElem?, he, Option.map_some, if_pos (by omega), show (4 * k + j) % 4 = j by omega]
      rfl
  · refine ⟨_, (csrWrites_exec hf (csrAt_pmpaddr hi) rfl (csrAllowed_machine hp rfl) rfl).trans rfl, rfl, ?_, fun e he hl hd => ?_⟩
    · dsimp only; rw [setX_priv]; exact hp
    · have below : s.pmpLocksBelow (i + 1) = false := by
        unfold State.pmpLocksBelow
        split
        · rename_i d h
          have := hd d h
          simp only [PmpEntry.locked, PmpEntry.mode, Bool.and_eq_false_iff, beq_eq_false_iff_ne]
          by_cases hk : d.cfg.getLsbD 7 = true
          · exact .inr (this hk)
          · exact .inl (Bool.eq_false_of_not_eq_true hk)
        · rfl
      dsimp only
      rw [setX_pmp, writePmpAddr_getElem?, he, Option.map_some, if_pos ⟨rfl, by simp only [PmpEntry.locked, hl]; rfl, by simp [below]⟩]

/-! ## The user counter images (rules R62, R63) -/

/-- The image of counter `k` names a user register that reads as the machine counter at the same place does, or MTIME. -/
theorem csrAt_image (k : Nat) (hk : k ≤ 17) (high : Bool) :
    ∃ c, csrAt (BitVec.ofNat 12 (0xC00 + (if high then 0x80 else 0) + k)) = some c ∧ c.right = .uro ∧ c.isPlain = true ∧
      c.counterBit = k ∧ (k = 1 → c = if high then .timeh else .time) ∧
      (k ≠ 1 → ∃ d, csrAt (BitVec.ofNat 12 (0xB00 + (if high then 0x80 else 0) + k)) = some d ∧
        ∀ s : State, s.readCsr c = s.readCsr d) := by
  obtain rfl | rfl | rfl | h : k = 0 ∨ k = 1 ∨ k = 2 ∨ 3 ≤ k := by omega
  all_goals cases high
  · exact ⟨.cycle, rfl, rfl, rfl, rfl, nofun, fun _ => ⟨.mcycle, rfl, fun _ => rfl⟩⟩
  · exact ⟨.cycleh, rfl, rfl, rfl, rfl, nofun, fun _ => ⟨.mcycleh, rfl, fun _ => rfl⟩⟩
  · exact ⟨.time, rfl, rfl, rfl, rfl, fun _ => rfl, fun h => absurd rfl h⟩
  · exact ⟨.timeh, rfl, rfl, rfl, rfl, fun _ => rfl, fun h => absurd rfl h⟩
  · exact ⟨.instret, rfl, rfl, rfl, rfl, nofun, fun _ => ⟨.minstret, rfl, fun _ => rfl⟩⟩
  · exact ⟨.instreth, rfl, rfl, rfl, rfl, nofun, fun _ => ⟨.minstreth, rfl, fun _ => rfl⟩⟩
  · exact ⟨.hpmcounter k, csrAt_hpmcounter h hk, rfl, rfl, rfl, by omega,
      fun _ => ⟨.mhpmcounter k, csrAt_mhpmcounter h hk, fun _ => rfl⟩⟩
  · exact ⟨.hpmcounterh k, csrAt_hpmcounterh h hk, rfl, rfl, rfl, by omega,
      fun _ => ⟨.mhpmcounterh k, csrAt_mhpmcounterh h hk, fun _ => rfl⟩⟩

/-- The halves of MTIME. -/
theorem readCsr_time (s : State) (high : Bool) : s.readCsr (if high then .timeh else .time) =
    BitVec.ofNat 32 (if high then s.mtime.toNat / 2 ^ 32 else s.mtime.toNat % 2 ^ 32) := by
  cases high
  · show s.mtime.setWidth 32 = _
    apply BitVec.eq_of_toNat_eq; simp
  · show s.mtime.extractLsb' 32 32 = _
    apply BitVec.eq_of_toNat_eq
    simp [Nat.shiftRight_eq_div_pow]

/-- Settles O33. -/
theorem userCounterImages : Obligations.UserCounterImages := by
  intro s rd rs1 uimm k high hk image counter reads traps
  obtain ⟨c, hc, hr, hpl, hb, htime, hmachine⟩ := csrAt_image k hk high
  have hc : csrAt image = some c := hc
  have illegal : ∀ {r1 : Reg} {u : BitVec 5} {i : Instr} {w : Bool}, (i, w) ∈ csrForms image rd r1 u →
      s.csrAllowed c w = false → traps i := fun hi h =>
    csrForms_illegal hi fun d hd => by
      rw [hc, Option.some.injEq] at hd
      rw [← hd]; exact h
  have write : s.csrAllowed c true = false := csrAllowed_readOnly (.inr hr)
  refine ⟨⟨s.readCsr c, fun h => htime h ▸ readCsr_time s high, fun h => ?_, fun h i hi => ?_⟩, fun hu hbit i hi => ?_,
    fun i hi => ?_, fun h i hi => ?_, fun h i hi => ?_⟩
  · obtain ⟨d, hd, e⟩ := hmachine h
    exact ⟨d, hd, e s⟩
  · rw [csrReads_exec hi hc hpl (by rw [csrAllowed_image hr, hb]; simpa using h)]
    exact csrDone_read s c rd _
  · exact illegal (csrReads_forms hi) (by rw [csrAllowed_image hr, hb, hu, hbit]; rfl)
  · simp only [List.mem_cons, List.not_mem_nil, or_false] at hi
    rcases hi with rfl | rfl <;> exact illegal (r1 := rs1) (u := uimm) (by simp [csrForms]) write
  · simp only [List.mem_cons, List.not_mem_nil, or_false] at hi
    rcases hi with rfl | rfl <;> exact illegal (r1 := rs1) (u := uimm) (by simpa [csrForms] using h) write
  · simp only [List.mem_cons, List.not_mem_nil, or_false] at hi
    rcases hi with rfl | rfl <;> exact illegal (r1 := rs1) (u := uimm) (by simpa [csrForms] using h) write

end Sys2Proof.Machine
end


section
/-! SUPPORT. The regions of PMP entries, bus errors, and the state after reset, as their statements say them. -/

namespace Sys2Proof.Machine

open Sys2Proof.Config

/-! ## The regions of a PMP entry (rules R162, R163) -/

theorem torBound_toNat (w : Word) : (torBound w).toNat = w.toNat / 32 % 2 ^ 25 * 128 := by
  unfold torBound
  rw [BitVec.toNat_append, BitVec.extractLsb'_toNat, Nat.shiftLeft_eq, Nat.shiftRight_eq_div_pow]
  simp

theorem torMatch_iff {previous addr a : Word} : torMatch previous addr a = true ↔
    previous.toNat / 32 % 2 ^ 25 * 128 ≤ a.toNat ∧ a.toNat < addr.toNat / 32 % 2 ^ 25 * 128 := by
  simp only [torMatch, Bool.and_eq_true, decide_eq_true_eq, BitVec.le_def, BitVec.lt_def, torBound_toNat]

/-- Counting ones stops at the lowest zero bit. -/
theorem onesFrom_eq {v : Word} {fuel k n : Nat} (hk : k ≤ n) (hn : n < k + fuel)
    (ones : ∀ j, k ≤ j → j < n → v.getLsbD j = true) (zero : v.getLsbD n = false) : onesFrom v fuel k = n := by
  induction fuel generalizing k with
  | zero => omega
  | succ fuel ih =>
    rcases Nat.eq_or_lt_of_le hk with rfl | hlt
    · simp only [onesFrom, zero, Bool.false_eq_true, if_false]
    · simp only [onesFrom, ones k (le_refl k) hlt, if_true]
      exact ih hlt (by omega) fun j hj => ones j (by omega)

/-- Without a zero bit counting ones runs to its end. -/
theorem onesFrom_all {v : Word} {fuel k : Nat} (ones : ∀ j, j < k + fuel → v.getLsbD j = true) :
    onesFrom v fuel k = k + fuel := by
  induction fuel generalizing k with
  | zero => rfl
  | succ fuel ih =>
    simp only [onesFrom, ones k (by omega), if_true]
    rw [ih fun j hj => ones j (by omega)]; omega

/-- The bits of an address register as NAPOT looks them up: the low four are ones. -/
theorem napotValue_getLsbD (addr : Word) (k : Nat) :
    (napotValue addr).getLsbD k = (decide (k < 4) || addr.getLsbD k) := by
  unfold napotValue
  rw [BitVec.getLsbD_or, Bool.or_comm]
  congr 1
  by_cases h : k < 4
  · interval_cases k <;> rfl
  · rw [BitVec.getLsbD, decide_eq_false h]
    exact Nat.testBit_lt_two_pow (lt_of_lt_of_le (by decide : (15 : Word).toNat < 2 ^ 4) (Nat.pow_le_pow_right (by omega) (by omega)))

theorem napotIndex_eq {addr : Word} {n : Nat} (h4 : 4 ≤ n) (h31 : n ≤ 31)
    (ones : ∀ k, 4 ≤ k → k < n → addr.getLsbD k = true) (zero : addr.getLsbD n = false) : napotIndex addr = n := by
  refine onesFrom_eq (by omega) (by omega) (fun j _ hj => ?_) ?_
  · rw [napotValue_getLsbD]
    by_cases h : j < 4
    · simp [h]
    · simp [ones j (by omega) hj]
  · rw [napotValue_getLsbD, zero, decide_eq_false (by omega)]; rfl

theorem napotIndex_all {addr : Word} (ones : ∀ k, 4 ≤ k → k < 32 → addr.getLsbD k = true) : napotIndex addr = 32 :=
  onesFrom_all fun j hj => by
    rw [napotValue_getLsbD]
    by_cases h : j < 4
    · simp [h]
    · simp [ones j (by omega) (by omega)]

/-- Above bit 4 the low four ones do not matter. -/
theorem napotValue_div (addr : Word) {n : Nat} (h4 : 4 ≤ n) :
    (napotValue addr).toNat / 2 ^ (n + 1) = addr.toNat / 2 ^ (n + 1) := by
  unfold napotValue
  rw [BitVec.toNat_or, ← Nat.shiftRight_eq_div_pow, Nat.shiftRight_or_distrib, ← Nat.shiftRight_eq_div_pow]
  have : (15 : Word).toNat >>> (n + 1) = 0 := by
    rw [Nat.shiftRight_eq_div_pow]
    exact Nat.div_eq_of_lt (lt_of_lt_of_le (by decide : (15 : Word).toNat < 2 ^ 5) (Nat.pow_le_pow_right (by omega) (by omega)))
  rw [this, Nat.or_zero]

theorem napotMatch_iff {addr a : Word} {n : Nat} (h4 : 4 ≤ n) (hn : napotIndex addr = n) : napotMatch addr a = true ↔
    29 ≤ n ∨ a.toNat / 2 ^ (n + 3) = addr.toNat / 2 ^ (n + 1) % 2 ^ (29 - n) := by
  simp only [napotMatch, hn, Bool.or_eq_true, decide_eq_true_eq, beq_iff_eq]
  by_cases h : 29 ≤ n
  · simp [h]
  · have e : 2 ^ 30 = 2 ^ (n + 1) * 2 ^ (29 - n) := by rw [← pow_add]; congr 1; omega
    rw [e, Nat.mod_mul_right_div_self, napotValue_div addr h4]

/-- Settles O23. -/
theorem pmpRegions : Obligations.PmpRegions := by
  intro e below a A bound
  have mode : e.mode = A := rfl
  refine ⟨fun h => ?_, fun h => ?_, fun h n h4 h31 ones zero => ?_, fun h ones => ?_⟩
  · rcases h with h | h <;> simp [PmpEntry.matches, mode, h]
  · simp only [PmpEntry.matches, mode, h]
    exact torMatch_iff
  · simp only [PmpEntry.matches, mode, h]
    exact napotMatch_iff h4 (napotIndex_eq h4 h31 ones zero)
  · simp only [PmpEntry.matches, mode, h]
    exact (napotMatch_iff (by decide) (napotIndex_all ones)).mpr (.inl (by decide))

/-! ## Bus errors (rules R66, R566, R567) -/

/-- A raised exception traps, and only an access fault writes BUSERR, when it enters the handler. -/
theorem raise_trapped_buserr (s : State) (c : Cause) (info : Word) (b : Bool) (hc : c.neverLocks = false) :
    ∃ t, s.raise c info b = .next t ∧ s.trapped t c.code info ∧
      (c.isAccessFault = false → t.mexstatus.buserr = s.mexstatus.buserr) ∧
      (c.isAccessFault = true → s.mexstatus.exptVld = false → s.mexstatus.nmi = false → t.mexstatus.buserr = b) := by
  obtain ⟨t, ht, htrap⟩ := raise_trapped s c info b hc
  refine ⟨t, ht, htrap, ?_⟩
  rw [raise_eq, Host.Outcome.next.injEq] at ht
  subst ht
  rcases takeException_cases s.countTrap c s.pc info b with ⟨h, _, e⟩ | ⟨_, e⟩ <;> rw [e]
  · refine ⟨fun _ => rfl, fun _ h1 h2 => ?_⟩
    rcases h with h | h
    · exact absurd (h1.symm.trans h) (by decide)
    · exact absurd (h2.symm.trans h) (by decide)
  · exact ⟨fun h => by simp [h], fun h _ _ => by simp [h]⟩

/-- An aligned access that the PMP allows and the platform answers with an error. -/
theorem busError_checks {s : State} {k : Access} {a : Word} {n : Nat} (hn : n ≠ 8) (hm : a.toNat % n = 0)
    (ht : inTcip a = false) (hp : s.pmpAllows k.perm s.dataPriv a = true) (he : dataError s.params k a = true) :
    pieces a n = [(a, n)] ∧ s.checkPieceOf k a n (a, n) = .busError a ∧ s.trapsMisaligned k a n = false ∧
      s.checkAccess k a n = .busError a := by
  have aligned : misaligned a n = false := by simp [misaligned, hm]
  have one : pieces a n = [(a, n)] := by simp [pieces, aligned, hn]
  have piece : s.checkPieceOf k a n (a, n) = .busError a := by
    simp [State.checkPieceOf, State.checkPiece, aligned, hp, ht, he]
  exact ⟨one, piece, by simp [State.trapsMisaligned, aligned], by rw [(checkAccess_single one).1, piece]⟩

/-- The destination of a load whose error is imprecise: some value, and nothing else has changed. -/
theorem deliverUnstated_int (s : State) (rd : Reg) : ∃ u v, s.deliverUnstated (.int rd) = u ∧ s.wroteX u rd v ∧
    u = { s with x := u.x } := by
  unfold State.deliverUnstated
  split
  · obtain ⟨x, hx⟩ := setX_frame s rd ((unstatedLoad s.freeCtr).setWidth 32)
    exact ⟨_, _, rfl, wroteX_setX rfl rfl, by simp only [State.deliver, hx]⟩
  · refine ⟨s, s.readX rd, rfl, fun r => ?_, rfl⟩
    by_cases h0 : r = 0
    · rw [if_pos h0, h0, readX_zero]
    · rw [if_neg h0]
      split
      · rw [‹r = rd›]
      · rfl

/-- A store of one piece that gets an error writes nothing. -/
theorem partialStore_failing {s : State} {a : Word} {n : Nat} {v : Dword} (one : pieces a n = [(a, n)])
    (h : s.checkPieceOf .store a n (a, n) ≠ .ok) : s.partialStore a n v = s := by
  have none : s.mayBeWritten a n ((a, n), 0) = false := by simp [State.mayBeWritten, h]
  simp [State.partialStore, one, none]

section

variable {s : State} {a : Word} {n : Nat} {len : Word}

/-- A load that gets a bus error, whose destination register may have changed in imprecise mode. -/
theorem load_busError {rd : Reg} {ext : Dword → Dword} (hn : n ≠ 8) (hm : a.toNat % n = 0) (ht : inTcip a = false)
    (hp : s.pmpAllows .read s.dataPriv a = true) (he : dataError s.params .load a = true) :
    s.load (.int rd) a n ext len =
      (if s.aee then s else s.deliverUnstated (.int rd)).busErrorAt .load a id len := by
  obtain ⟨_, _, h1, h2⟩ := busError_checks hn hm ht hp he
  unfold State.load
  rw [if_neg (by simp [h1]), h2]; rfl

/-- A store that gets a bus error writes nothing; its error is lost, reported or waits. -/
theorem store_busError {v : Dword} (hn : n ≠ 8) (hm : a.toNat % n = 0) (ht : inTcip a = false)
    (hp : s.pmpAllows .write s.dataPriv a = true) (he : dataError s.params .store a = true) :
    s.store a n v len =
      if s.losesError a then .next ((s.countEvent 13 1).advance len)
      else s.busErrorAt .store a (fun t => t.countEvent 13 1) len := by
  obtain ⟨one, piece, h1, h2⟩ := busError_checks hn hm ht hp he
  unfold State.store State.storeError
  rw [if_neg (by simp [h1]), h2, partialStore_failing one (by rw [piece]; nofun)]

end

/-- An access fault that is reported at the instruction. -/
theorem busErrorAt_reported {s : State} {k : Access} {a : Word} {done : State → State} {len : Word}
    (h : s.reportsNow = true) : ∃ t, s.busErrorAt k a done len = .next t ∧ s.trapped t k.faultCause.code a ∧
      (s.mexstatus.exptVld = false → s.mexstatus.nmi = false → t.mexstatus.buserr = true) := by
  have hc : k.faultCause.neverLocks = false ∧ k.faultCause.isAccessFault = true := by cases k <;> exact ⟨rfl, rfl⟩
  obtain ⟨t, ht, htrap, _, hb⟩ := raise_trapped_buserr s k.faultCause a true hc.1
  exact ⟨t, by rw [State.busErrorAt, if_pos h, ht], htrap, hb hc.2⟩

/-- An access fault that waits. -/
theorem busErrorAt_waits {s : State} {k : Access} {a : Word} {done : State → State} {len : Word}
    (h : s.aee = false) (h' : s.pins.deferBusError = true) :
    s.busErrorAt k a done len = .next ((done (s.queueError k a)).advance len) := by
  simp [State.busErrorAt, State.reportsNow, h, h']

theorem losesError_iff {s : State} {a : Word} : s.losesError a = true ↔
    s.aee = false ∧ s.pins.loseBusError = true ∧ (attrOf s.params.sysmap a).bufferable = true ∧
      (attrOf s.params.sysmap a).strongOrder = false := by
  simp only [State.losesError, Bool.and_eq_true, Bool.not_eq_true']
  tauto

/-- The integer loads and stores of 32-bit length, each with its size. -/
theorem exec_loads {s : State} {rd rs1 : Reg} {imm : BitVec 12} {l : Instr × Nat}
    (h : l ∈ [(Instr.lb rd rs1 imm, 1), (.lbu rd rs1 imm, 1), (.lh rd rs1 imm, 2), (.lhu rd rs1 imm, 2), (.lw rd rs1 imm, 4)]) :
    l.2 ≠ 8 ∧ ∃ ext, exec l.1 s = s.load (.int rd) (s.readX rs1 + BitVec.ofInt 32 imm.toInt) l.2 ext 4 := by
  simp only [List.mem_cons, List.not_mem_nil, or_false] at h
  rcases h with rfl | rfl | rfl | rfl | rfl <;> exact ⟨by simp, _, rfl⟩

theorem exec_stores {s : State} {rs2 rs1 : Reg} {imm : BitVec 12} {l : Instr × Nat}
    (h : l ∈ [(Instr.sb rs2 rs1 imm, 1), (.sh rs2 rs1 imm, 2), (.sw rs2 rs1 imm, 4)]) :
    l.2 ≠ 8 ∧ exec l.1 s = s.store (s.readX rs1 + BitVec.ofInt 32 imm.toInt) l.2 ((s.readX rs2).setWidth 64) 4 := by
  simp only [List.mem_cons, List.not_mem_nil, or_false] at h
  rcases h with rfl | rfl | rfl <;> exact ⟨by simp, rfl⟩

/-- A waiting error that is reported at a boundary enters the handler, or locks the core up inside one. -/
theorem reportBusError_cases (s : State) (e : BusError) :
    (s.mexstatus.exptVld = false → s.mexstatus.nmi = false →
      s.reportBusError e = { s with
        busErrors := s.busErrors.tail, mepc := s.pc
        mcause := { s.mcause with code := if e.store = true then 7 else 5, interrupt := false }
        mstatus := { s.mstatus with mpie := s.mstatus.mie, mie := false, mpp := s.priv }
        priv := .machine, mtval := e.addr, mexstatus := { s.mexstatus with exptVld := true, buserr := true }
        pc := s.handler }) ∧
    (s.mexstatus.exptVld = true ∨ s.mexstatus.nmi = true →
      s.reportBusError e = State.lockUp { s with busErrors := s.busErrors.tail } s.pc) := by
  unfold State.reportBusError State.takeException
  constructor
  · intro h1 h2
    cases e.store <;> simp [h1, h2, Cause.code, Cause.isAccessFault] <;> rfl
  · intro h
    rw [if_pos]
    cases e.store <;> rcases h with h | h <;> simp [h, Cause.neverLocks]

/-- A fetch of a halfword that gets a bus error is denied with its address (rule R148). -/
theorem fetchHalf_busError {s : State} {p : Priv} {a : Word} (hp : s.pmpAllows .execute p a = true)
    (ht : inTcip a = false) (he : fetchError s.params a = true) : s.fetchHalf p a = .denied a := by
  simp [State.fetchHalf, hp, ht, he]

/-- A denied fetch raises InstrAccessFault and leaves BUSERR. -/
theorem fetchExecute_denied {s : State} {a : Word} (h : s.fetchCode s.priv s.pc = .denied a) :
    ∃ t, s.fetchExecute = .next t ∧ s.trapped t 1 a ∧ t.mexstatus.buserr = s.mexstatus.buserr := by
  obtain ⟨t, ht, htrap, hb, _⟩ := raise_trapped_buserr s .instrAccessFault a false rfl
  exact ⟨t, by rw [State.fetchExecute, h]; exact ht, htrap, hb rfl⟩

/-- Settles O45. -/
theorem busErrorAccess : Obligations.BusErrorAccess := by
  refine ⟨fun s rd rs1 rs2 imm => ⟨fun l hl hf => ?_, fun l hl hf => ?_⟩, ?_, ?_⟩
  · obtain ⟨h8, ext, hexec⟩ := exec_loads (s := s) hl
    obtain ⟨hm, ht, hp, he⟩ := hf
    simp only [hexec.trans (load_busError h8 hm ht hp he)]
    obtain ⟨u, v, hu, hx, e⟩ := deliverUnstated_int s rd
    refine ⟨fun h => ?_, fun h hd => ?_, fun h hd => ?_⟩
    · rw [if_pos h]; exact busErrorAt_reported (by simp [State.reportsNow, h])
    · rw [if_neg (by simp [h]), hu]
      refine ⟨u, v, hx, e, ?_⟩
      have now : u.reportsNow = true := by rw [e]; simp [State.reportsNow, hd]
      obtain ⟨t, h1, h2, h3⟩ := busErrorAt_reported (k := .load) (done := id) (len := 4) now
      exact ⟨t, h1, h2, by rwa [e] at h3⟩
    · rw [if_neg (by simp [h]), hu, busErrorAt_waits (by rw [e]; exact h) (by rw [e]; exact hd)]
      refine ⟨_, v, rfl, hx, ?_, ?_, ?_⟩
      · rw [e]; exact ⟨rfl, rfl⟩
      · rw [e]; exact fun _ => rfl
      · rw [e]; rfl
  · obtain ⟨h8, hexec⟩ := exec_stores (s := s) hl
    obtain ⟨hm, ht, hp, he⟩ := hf
    simp only [hexec.trans (store_busError h8 hm ht hp he)]
    refine ⟨fun h => ?_, fun h hn => ?_, fun h ha hd => ?_⟩
    · rw [if_pos (losesError_iff.mpr h)]
      exact ⟨_, rfl, ⟨rfl, rfl⟩, fun _ => rfl, rfl⟩
    · rw [if_neg (mt losesError_iff.mp h)]
      exact busErrorAt_reported (by rcases hn with hn | hn <;> simp [State.reportsNow, hn])
    · rw [if_neg (mt losesError_iff.mp h), busErrorAt_waits ha hd]
      exact ⟨_, rfl, ⟨rfl, rfl⟩, fun _ => rfl, rfl⟩
  · intro s u e rest hp hu hr hl hw hn hi hd hb
    have report : step s = .next (State.reportBusError { u with asleep := false } e) := by
      rw [step_eq_boundary hp hu rfl hr hl hw]
      have hn : State.takesNmi { u with asleep := false } = false := hn
      have hi : State.takenInterrupt { u with asleep := false } = none := hi
      have hb : State.reportedBusError { u with asleep := false } = some e := by
        simp [State.reportedBusError, hd, hb]
      simp [State.boundary, hn, hi, hb]
    obtain ⟨enters, holds⟩ := reportBusError_cases { u with asleep := false } e
    have tail : u.busErrors.tail = rest := by rw [hb]; rfl
    refine ⟨fun h1 h2 => ⟨_, report, ?_⟩, fun h => ⟨_, report, ?_⟩⟩
    · rw [enters h1 h2]
      exact ⟨rfl, rfl, rfl, rfl, rfl, handler_eq u, tail, rfl, rfl⟩
    · rw [holds h, ← tail]
      exact ⟨rfl, rfl, rfl, .inl rfl, rfl⟩
  · intro s u hp hu hr hl hw hn hi hb fails raises
    have runs : step s = u.fetchExecute := by
      rw [step_eq_boundary hp rfl hu (by rw [hu] at hr; exact hr) (by rw [hu] at hl; exact hl) hw,
        boundary_eq_fetchExecute hn hi hb]
    have denied : ∀ b, u.fetchCode u.priv u.pc = .denied b → raises b := fun b h => by
      obtain ⟨t, ht, k⟩ := fetchExecute_denied h
      exact ⟨t, runs.trans ht, k⟩
    refine ⟨fun h => denied _ ?_, fun h hf hlong h2 => denied _ ?_⟩
    · obtain ⟨h1, h2, h3⟩ := h
      simp [State.fetchCode, fetchHalf_busError h1 h2 h3]
    · obtain ⟨h1, h2, h3⟩ := h2
      simp only [State.fetchCode, State.fetchWord, hf, hlong, fetchHalf_busError h1 h2 h3, if_true]

/-! ## Reset (rule R79) -/

/-- The counter records at reset. -/
theorem resetOf_findHpm (p : Params) (n : Nat) (h : Hpm) (hf : (State.resetOf p).findHpm n = some h) :
    h.event = 0 ∧ h.count = 0 := by
  obtain ⟨_, _, rfl⟩ := List.mem_map.mp (List.mem_of_find?_eq_some hf)
  exact ⟨rfl, rfl⟩

theorem resetOf_pmpCfgByte (p : Params) (i : Nat) : (State.resetOf p).pmpCfgByte i = 0 := by
  simp only [State.pmpCfgByte, State.resetOf, List.getElem?_replicate]
  split <;> rfl

theorem resetOf_readPmpAddr (p : Params) (i : Nat) : (State.resetOf p).readPmpAddr i = 0 := by
  simp only [State.readPmpAddr, State.resetOf, List.getElem?_replicate]
  split <;> rfl

theorem resetOf_hpmCount (p : Params) (n : Nat) : (State.resetOf p).hpmCount n = 0 := by
  unfold State.hpmCount
  cases h : (State.resetOf p).findHpm n with
  | none => rfl
  | some c => exact (resetOf_findHpm p n c h).2

theorem resetOf_hpmEvent (p : Params) (n : Nat) : (State.resetOf p).readCsr (.mhpmevent n) = 0 := by
  simp only [State.readCsr]
  cases h : (State.resetOf p).findHpm n with
  | none => rfl
  | some c => rw [Option.map_some, Option.getD_some, (resetOf_findHpm p n c h).1]; rfl

theorem resetOf_sources (p : Params) (c : ClicSource) (h : c ∈ (State.resetOf p).clic.sources) :
    c.ip = false ∧ c.ie = false ∧ c.attrByte = 0xC0 ∧ c.ctl = ctlTied p := by
  obtain ⟨_, _, rfl⟩ := List.mem_map.mp h
  exact ⟨rfl, rfl, by simp [ClicSource.attrByte], rfl⟩

/-- The registers whose reset value is a number built of fields. -/
theorem resetOf_readCsr (p : Params) :
    (State.resetOf p).readCsr .mtvec = 0x00000003 ∧ (State.resetOf p).readCsr .mtvt = 0 ∧
    (State.resetOf p).readCsr .mintstatus = 0 ∧ (State.resetOf p).readCsr .mcycle = 0 ∧
    (State.resetOf p).readCsr .mcycleh = 0 ∧ (State.resetOf p).readCsr .minstret = 0 ∧
    (State.resetOf p).readCsr .minstreth = 0 ∧ (State.resetOf p).readCsr .mhcr = 0 ∧
    (State.resetOf p).readCsr .mhint = 0 ∧ (State.resetOf p).readCsr .fcsr = 0 := by
  simp [State.readCsr, State.resetOf, State.mtvt, State.readMhcr, placeBit, place]

/-- A word register of CLINT or CLIC is read outside the per-interrupt registers. -/
theorem deviceRead_register (s : State) {a : Word} {n : Nat} {r : DeviceReg} (ha : inSources a = false)
    (hr : deviceReg a = some r) : s.deviceRead a n = s.readDeviceReg r := by
  simp [State.deviceRead, ha, hr]

theorem resetOf_deviceRead (p : Params) :
    (State.resetOf p).deviceRead 0xE0000000 4 = 0 ∧ (State.resetOf p).deviceRead 0xE0004000 4 = 0xFFFFFFFF ∧
    (State.resetOf p).deviceRead 0xE0004004 4 = 0xFFFFFFFF ∧ (State.resetOf p).deviceRead 0xE0800000 4 = 1 ∧
    (State.resetOf p).deviceRead 0xE0800008 4 = 0 := by
  rw [deviceRead_register (r := .msip) _ (by decide) (by decide),
    deviceRead_register (r := .mtimecmpLo) _ (by decide) (by decide),
    deviceRead_register (r := .mtimecmpHi) _ (by decide) (by decide),
    deviceRead_register (r := .cliccfg) _ (by decide) (by decide),
    deviceRead_register (r := .mintthresh) _ (by decide) (by decide)]
  simp only [State.readDeviceReg, State.resetOf, Clic.cfgWord]
  decide

/-- Settles O7. -/
theorem resetStateAsStated : Obligations.ResetStateAsStated := by
  intro p r
  have cfg : ∀ k, r.readCsr (.pmpcfg k) = 0 := fun k => by
    simp only [State.readCsr, State.readPmpCfg, r, resetOf_pmpCfgByte]; decide
  have count : ∀ n, r.readCsr (.mhpmcounter n) = 0 ∧ r.readCsr (.mhpmcounterh n) = 0 := fun n => by
    simp [State.readCsr, r, resetOf_hpmCount]
  obtain ⟨mtvec, mtvt, mintstatus, mcycle, mcycleh, minstret, minstreth, mhcr, mhint, fcsr⟩ := resetOf_readCsr p
  obtain ⟨msip, cmpLo, cmpHi, cliccfg, mintthresh⟩ := resetOf_deviceRead p
  exact ⟨rfl, rfl, rfl, rfl, rfl, rfl, rfl, rfl, rfl, rfl, rfl, mtvec, mtvt, rfl, mintstatus, rfl, cfg, resetOf_readPmpAddr p,
    rfl, rfl, resetOf_hpmEvent p, mcycle, mcycleh, minstret, minstreth, count, rfl, mhcr, mhint, rfl, rfl, rfl, rfl, rfl, fcsr,
    rfl, rfl, rfl, rfl, rfl, rfl, rfl, rfl, rfl, rfl, msip, cmpLo, cmpHi, cliccfg, mintthresh, resetOf_sources p⟩

end Sys2Proof.Machine
end


section
/-! SUPPORT. What the CSR instructions leave in registers that are built of fields: MNXTI's claim, and what CSRRW reads back
(rules R36 to R74). -/

namespace Sys2Proof.Machine

open Sys2Proof.Config

/-! ## Fields of a word -/

/-- A field of a word at its own place is the word under the field's mask. -/
theorem place_extractLsb' (v : Word) (k n : Nat) : place (v.extractLsb' k n) k = v &&& place (BitVec.allOnes n) k := by
  apply BitVec.eq_of_getLsbD_eq
  intro i hi
  by_cases h : i < k
  · simp [place, h]
  · simp [place, h, hi, Nat.add_sub_cancel' (Nat.le_of_not_lt h), Bool.and_comm]

theorem placeBit_getLsbD (v : Word) (k : Nat) : placeBit (v.getLsbD k) k = v &&& place (BitVec.allOnes 1) k := by
  rw [← place_extractLsb', placeBit]
  congr 1
  apply BitVec.eq_of_getLsbD_eq
  intro i hi
  obtain rfl : i = 0 := by omega
  simp

theorem place_setWidth (v : Word) (n : Nat) : place (v.setWidth n) 0 = v &&& place (BitVec.allOnes n) 0 := by
  rw [← place_extractLsb']
  congr 1
  apply BitVec.eq_of_getLsbD_eq
  intro i _
  simp

/-! ## MSTATUS -/

theorem Priv.write_bits (p : Priv) : p.write p.bits = p := by cases p <;> rfl

theorem readMstatus_fields (s : State) :
    s.readMstatus.getLsbD 3 = s.mstatus.mie ∧ s.readMstatus.getLsbD 7 = s.mstatus.mpie ∧
    s.readMstatus.extractLsb' 11 2 = s.mstatus.mpp.bits ∧ s.readMstatus.extractLsb' 13 2 = s.mstatus.fs ∧
    s.readMstatus.getLsbD 17 = s.mstatus.mprv := by
  unfold State.readMstatus placeBit place
  refine ⟨by simp, by simp, ?_, ?_, by simp⟩ <;>
    (apply BitVec.eq_of_getLsbD_eq; intro k hk; interval_cases k <;> simp)

/-- A value that agrees with MSTATUS from bit 5 on writes MIE alone. -/
theorem writeMstatus_low {s : State} {v : Word} (h : ∀ k, 5 ≤ k → v.getLsbD k = s.readMstatus.getLsbD k) :
    s.writeMstatus v = { s with mstatus := { s.mstatus with mie := v.getLsbD 3 } } := by
  obtain ⟨_, hmpie, hmpp, hfs, hmprv⟩ := readMstatus_fields s
  have field : ∀ k n, 5 ≤ k → v.extractLsb' k n = s.readMstatus.extractLsb' k n := fun k n hk => by
    apply BitVec.eq_of_getLsbD_eq
    intro i hi
    rw [BitVec.getLsbD_extractLsb', BitVec.getLsbD_extractLsb', h _ (by omega)]
  unfold State.writeMstatus
  rw [h 7 (by decide), hmpie, field 11 2 (by decide), hmpp, Priv.write_bits, field 13 2 (by decide), hfs, ite_self,
    h 17 (by decide), hmprv]

/-- The 5-bit operand of the immediate forms sets and clears MIE at most. -/
theorem writeMstatus_set (s : State) (u : BitVec 5) : s.writeMstatus (CsrOp.set.apply s.readMstatus (u.setWidth 32)) =
    { s with mstatus := { s.mstatus with mie := s.mstatus.mie || u.getLsbD 3 } } := by
  rw [CsrOp.apply, writeMstatus_low, BitVec.getLsbD_or, (readMstatus_fields s).1]
  · simp
  · intro k hk
    rw [BitVec.getLsbD_or, BitVec.getLsbD_setWidth, BitVec.getLsbD_of_ge u k hk, Bool.and_false, Bool.or_false]

theorem writeMstatus_clear (s : State) (u : BitVec 5) : s.writeMstatus (CsrOp.clear.apply s.readMstatus (u.setWidth 32)) =
    { s with mstatus := { s.mstatus with mie := s.mstatus.mie && !u.getLsbD 3 } } := by
  rw [CsrOp.apply, writeMstatus_low, BitVec.getLsbD_and, (readMstatus_fields s).1]
  · simp
  · intro k hk
    rw [BitVec.getLsbD_and, BitVec.getLsbD_not, BitVec.getLsbD_setWidth, BitVec.getLsbD_of_ge u k hk]
    by_cases h32 : k < 32
    · simp [h32]
    · simp [h32, BitVec.getLsbD_of_ge _ k (Nat.le_of_not_lt h32)]

/-! ## MNXTI (rule R49) -/

/-- A CSR instruction retires: `rd` is written over the register file as it was, the rest is what the access left. -/
theorem csrDone_retires {s u : State} {c : Csr} {write : Bool} {rd : Reg} {old : Word} (hx : u.x = s.x)
    (hm : u.minstret = s.minstret) (hc : c.isInstret = false) : ∃ x,
    s.csrDone u c write rd old = .next { u with x := x, pc := s.pc + 4, minstret := s.retired } ∧
      s.wroteX { u with x := x, pc := s.pc + 4, minstret := s.retired } rd old := by
  obtain ⟨x, e⟩ := setX_frame u rd old
  have hx' : (u.setX rd old).x = x := by rw [e]
  refine ⟨x, ?_, wroteX_setX hx hx'.symm⟩
  rw [State.csrDone, csrRetired_eq (.inr hc) hm, e]

/-- An edge-triggered source loses its pending bit but for an edge of the same step; a level-triggered one stays (rule R674). -/
theorem ClicSource.clear_cases (ctr : Nat) (d : ClicSource) :
    d.clear ctr = { d with ip := (d.clear ctr).ip } ∧ (d.edgeMode = false → d.clear ctr = d) ∧
      (d.edgeMode = true → d.edge = false → (d.clear ctr).ip = false) := by
  unfold ClicSource.clear
  cases he : d.edgeMode with
  | false => exact ⟨rfl, fun _ => rfl, nofun⟩
  | true => exact ⟨rfl, nofun, fun _ h => by simp [h]⟩

theorem clearPending_sources (s : State) (i : Nat) :
    List.Forall₂ (fun d e : ClicSource => e = { d with ip := e.ip } ∧ (d.id ≠ i ∨ d.edgeMode = false → e = d) ∧
      (d.id = i → d.edgeMode = true → d.edge = false → e.ip = false)) s.clic.sources (s.clearPending i).clic.sources := by
  refine List.forall₂_map_right_iff.mpr (List.forall₂_same.mpr fun d _ => ?_)
  obtain ⟨h1, h2, h3⟩ := d.clear_cases s.freeCtr
  by_cases h : d.id = i
  · rw [if_pos h]
    exact ⟨h1, fun k => h2 (k.resolve_left (absurd h)), fun _ => h3⟩
  · rw [if_neg h]
    exact ⟨rfl, fun _ => rfl, fun k => absurd k h⟩

/-- The interrupt that MNXTI returns: presented, above MPIL, not vectored. -/
theorem nextInterrupt_some {s : State} {c : Presented} :
    s.nextInterrupt = some c ↔ s.presented = some c ∧ s.mcause.mpil < c.level ∧ c.shv = false := by
  simp only [State.nextInterrupt, Option.filter_eq_some_iff, Bool.and_eq_true, decide_eq_true_eq, Bool.not_eq_true']

/-- What an access to MNXTI gives: the claim, or 0; and MIE as the operand leaves it. -/
def State.gaveMnxti (s t : State) (rd : Reg) (mie : Bool) : Prop :=
  s.retiredTo t (s.pc + 4) ∧ t.mstatus = { s.mstatus with mie := mie } ∧
    (∀ c, s.presented = some c → s.mcause.mpil < c.level → c.shv = false →
      s.wroteX t rd (s.readCsr .mtvt + BitVec.ofNat 32 (4 * c.id)) ∧ t.mil = c.level ∧
        t.mcause = { s.mcause with code := BitVec.ofNat 12 c.id, interrupt := true } ∧
        List.Forall₂ (fun d e : ClicSource => e = { d with ip := e.ip } ∧ (d.id ≠ c.id ∨ d.edgeMode = false → e = d) ∧
          (d.id = c.id → d.edgeMode = true → d.edge = false → e.ip = false)) s.clic.sources t.clic.sources) ∧
    ((∀ c, s.presented = some c → c.level ≤ s.mcause.mpil ∨ c.shv = true) →
      s.wroteX t rd 0 ∧ t.mil = s.mil ∧ t.mcause = s.mcause ∧ t.clic = s.clic) ∧
    t = { s with
          x := t.x, pc := t.pc, minstret := t.minstret, mstatus := t.mstatus, mil := t.mil, mcause := t.mcause,
          clic := t.clic } ∧ t.clic.nlbits = s.clic.nlbits ∧ t.clic.mth = s.clic.mth

theorem accessMnxti_gaveMnxti {s : State} {op : CsrOp} {rd : Reg} {v : Word} {mie : Bool}
    (hw : ∀ t : State, t.mstatus = s.mstatus →
      t.writeMstatus (op.apply t.readMstatus v) = { t with mstatus := { t.mstatus with mie := mie } }) :
    ∃ t, s.accessMnxti op rd v = .next t ∧ s.gaveMnxti t rd mie := by
  unfold State.accessMnxti
  dsimp only
  cases hc : s.nextInterrupt with
  | some c =>
    obtain ⟨hp, hl, hv⟩ := nextInterrupt_some.mp hc
    let claimed := { s with mil := c.level, mcause := { s.mcause with code := BitVec.ofNat 12 c.id, interrupt := true } }
    have e := hw (claimed.clearPending c.id) rfl
    dsimp only at e ⊢
    rw [e]
    obtain ⟨x, ht, hx⟩ := csrDone_retires (s := s) (c := .mnxti) (write := true) (rd := rd)
      (u := { claimed.clearPending c.id with mstatus := { s.mstatus with mie := mie } })
      (old := s.mtvt + BitVec.ofNat 32 (4 * c.id)) rfl rfl rfl
    refine ⟨_, ht, ⟨rfl, rfl⟩, rfl, fun d hd _ _ => ?_, fun h => ?_, rfl, rfl, rfl⟩
    · obtain rfl : c = d := Option.some.inj (hp.symm.trans hd)
      exact ⟨hx, rfl, rfl, clearPending_sources s c.id⟩
    · rcases h c hp with h | h
      · exact absurd hl (BitVec.not_lt.mpr h)
      · simp [hv] at h
  | none =>
    have e := hw s rfl
    dsimp only
    rw [e]
    obtain ⟨x, ht, hx⟩ := csrDone_retires (s := s) (c := .mnxti) (write := true) (rd := rd)
      (u := { s with mstatus := { s.mstatus with mie := mie } }) (old := 0) rfl rfl rfl
    refine ⟨_, ht, ⟨rfl, rfl⟩, rfl, fun d hd hl hv => ?_, fun _ => ⟨hx, rfl, rfl, rfl⟩, rfl, rfl, rfl⟩
    rw [nextInterrupt_some.mpr ⟨hd, hl, hv⟩] at hc
    cases hc

theorem csrInstr_mnxti {s : State} {i : Instr} {op : CsrOp} {write imm : Bool} {rd : Reg} {v : Word} (hp : s.priv = .machine) :
    s.csrInstr i 0x345 op write imm rd v = if imm && op != .write then s.accessMnxti op rd v else .refused .mnxtiForm := by
  show (if (!s.csrAllowed .mnxti write) = true then _ else _) = _
  rw [csrAllowed_machine hp rfl]; rfl

theorem csrInstr_scratchView {s : State} {i : Instr} {a : BitVec 12} {op : CsrOp} {write imm : Bool} {rd : Reg} {v : Word}
    (hp : s.priv = .machine) (ha : csrAt a = some .mscratchcsw ∨ csrAt a = some .mscratchcswl)
    (hf : (!imm && op == .write) = false) : s.csrInstr i a op write imm rd v = .refused .mscratchcswForm := by
  unfold State.csrInstr
  rcases ha with ha | ha
  · have hw : s.csrAllowed .mscratchcsw write = true := csrAllowed_machine hp rfl
    simp [ha, hw, hf]
  · have hw : s.csrAllowed .mscratchcswl write = true := csrAllowed_machine hp rfl
    simp [ha, hw, hf]

/-- Settles O32: an access to MNXTI claims what `nextInterrupt` returns, and the 5-bit operand reaches MIE alone. -/
theorem mnxtiClaims : Obligations.MnxtiClaims := by
  intro s rd rs1 uimm hp
  refine ⟨?_, ?_, fun i hi => ?_, fun a ha i hi => ?_⟩
  · have e : exec (.csrrsi rd uimm 0x345) s = s.accessMnxti .set rd (uimm.setWidth 32) := csrInstr_mnxti hp
    obtain ⟨t, ht, claimed⟩ := accessMnxti_gaveMnxti (s := s) (op := .set) (rd := rd) fun t ht => by
      rw [writeMstatus_set, ht]
    exact ⟨t, e.trans ht, claimed⟩
  · have e : exec (.csrrci rd uimm 0x345) s = s.accessMnxti .clear rd (uimm.setWidth 32) := csrInstr_mnxti hp
    obtain ⟨t, ht, claimed⟩ := accessMnxti_gaveMnxti (s := s) (op := .clear) (rd := rd) fun t ht => by
      rw [writeMstatus_clear, ht]
    exact ⟨t, e.trans ht, claimed⟩
  · simp only [List.mem_cons, List.not_mem_nil, or_false] at hi
    rcases hi with rfl | rfl | rfl | rfl <;> exact csrInstr_mnxti hp
  · have ha : csrAt a = some .mscratchcsw ∨ csrAt a = some .mscratchcswl := by
      simp only [List.mem_cons, List.not_mem_nil, or_false] at ha
      rcases ha with rfl | rfl
      · exact .inl rfl
      · exact .inr rfl
    simp only [List.mem_cons, List.not_mem_nil, or_false] at hi
    rcases hi with rfl | rfl | rfl | rfl | rfl <;> exact csrInstr_scratchView hp ha rfl

end Sys2Proof.Machine
end


section
/-! SUPPORT. What CSRRW leaves in each writable register of machine mode and of the floating-point unit, read back. -/

namespace Sys2Proof.Machine

open Sys2Proof.Config

/-! ## CSRRW on a register -/

/-- A write of a register leaves the general registers and memory, and MINSTRET unless it is that register. -/
theorem writeCsr_frame {s u : State} {c : Csr} {v : Word} (h : s.writeCsr v c = .ok u) :
    u.x = s.x ∧ u.mem = s.mem ∧ (c.isInstret = false → u.minstret = s.minstret) := by
  cases c with
  | mxstatus =>
    simp only [State.writeCsr, State.writeMxstatus] at h
    split at h
    · cases h
    · cases h; exact ⟨rfl, rfl, fun _ => rfl⟩
  | mhcr =>
    simp only [State.writeCsr, State.writeMhcr] at h
    split at h
    · cases h
    · cases h; exact ⟨rfl, rfl, fun _ => rfl⟩
  | minstret => cases h; exact ⟨rfl, rfl, nofun⟩
  | minstreth => cases h; exact ⟨rfl, rfl, nofun⟩
  | _ => cases h; exact ⟨rfl, rfl, fun _ => rfl⟩

/-- CSRRW retires with the old value in `rd` and the rest as the write left it. -/
theorem csrrw_next {s u : State} {c : Csr} {a : BitVec 12} (rd : Reg) {rs1 : Reg} (ha : csrAt a = some c) (hp : c.isPlain = true)
    (hw : s.csrAllowed c true = true) (hu : s.writeCsr (s.readX rs1) c = .ok u) : ∃ t,
    exec (.csrrw rd rs1 a) s = .next t ∧ s.wroteX t rd (s.readCsr c) ∧ t.pc = s.pc + 4 ∧ s.sameMemory t ∧
      t.minstret = s.csrRetired u c true ∧ t = { u with x := t.x, pc := t.pc, minstret := t.minstret } := by
  obtain ⟨hx, hm, _⟩ := writeCsr_frame hu
  obtain ⟨x, e⟩ := setX_frame u rd (s.readCsr c)
  refine ⟨_, csrInstr_write ha hp hw hu, wroteX_setX hx rfl, rfl, fun a => ?_, rfl, ?_⟩
  · dsimp only; rw [setX_mem, hm]
  · rw [e]

/-- What CSRRW leaves to be read: the old value in `rd`, `w` in the register. -/
def State.csrrwReads (s : State) (rd rs1 : Reg) (a : BitVec 12) (c : Csr) (w : Word) : Prop :=
  ∃ t, exec (.csrrw rd rs1 a) s = .next t ∧ s.wroteX t rd (s.readCsr c) ∧ t.readCsr c = w ∧ t.pc = s.pc + 4 ∧ s.sameMemory t

/-- Retiring is seen by MINSTRET and its images only. -/
theorem readCsr_retire (u : State) {c : Csr} (hc : c.isInstret = false) (hr : c.right ≠ .uro) (x : Vector Word 32) (pc : Word)
    (m : Dword) : State.readCsr { u with x := x, pc := pc, minstret := m } c = u.readCsr c := by
  cases c with
  | minstret | minstreth => cases hc
  | instret | instreth => exact absurd rfl hr
  | _ => rfl

theorem csrrw_reads {s u : State} {c : Csr} {a : BitVec 12} {rd rs1 : Reg} {w : Word} (ha : csrAt a = some c)
    (hp : c.isPlain = true) (hc : c.isInstret = false) (hr : c.right ≠ .uro) (hw : s.csrAllowed c true = true)
    (hu : s.writeCsr (s.readX rs1) c = .ok u) (e : u.readCsr c = w) : s.csrrwReads rd rs1 a c w := by
  obtain ⟨t, ht, hx, hpc, hm, _, ft⟩ := csrrw_next rd ha hp hw hu
  refine ⟨t, ht, hx, ?_, hpc, hm⟩
  rw [ft, readCsr_retire u hc hr, e]

/-- The machine registers, which machine mode may always write. -/
theorem csrrw_readsM {s u : State} {c : Csr} {a : BitVec 12} {rd rs1 : Reg} {w : Word} (hpriv : s.priv = .machine)
    (ha : csrAt a = some c) (hp : c.isPlain = true) (hc : c.isInstret = false) (hr : c.right = .mrw)
    (hu : s.writeCsr (s.readX rs1) c = .ok u) (e : u.readCsr c = w) : s.csrrwReads rd rs1 a c w :=
  csrrw_reads ha hp hc (by rw [hr]; decide) (csrAllowed_machine hpriv hr) hu e

theorem csrrw_refused {s : State} {c : Csr} {a : BitVec 12} {rd rs1 : Reg} {r : Refusal} (ha : csrAt a = some c)
    (hp : c.isPlain = true) (hw : s.csrAllowed c true = true) (hu : s.writeCsr (s.readX rs1) c = .error r) :
    exec (.csrrw rd rs1 a) s = .refused r := by
  show s.csrInstr _ a .write true false rd (s.readX rs1) = _
  rw [csrInstr_plain ha hp hw, State.accessPlain, if_pos rfl, CsrOp.apply, hu]

/-! ## The registers with MPP (rules R36, R48, R69) -/

/-- The MPP field at bit `k`: 01 and 10 leave the old value (D13). -/
def mppAfter (old v : Word) (k : Nat) : Word :=
  if v &&& (3 : Word) <<< k = 0 ∨ v &&& (3 : Word) <<< k = (3 : Word) <<< k then v &&& (3 : Word) <<< k
  else old &&& (3 : Word) <<< k

theorem place_ones_two (k : Nat) : place (BitVec.allOnes 2) k = (3 : Word) <<< k := rfl

theorem place_write_eq_mppAfter {p : Priv} {old v : Word} {k : Nat} (hk : k = 11 ∨ k = 28)
    (ho : old.extractLsb' k 2 = p.bits) : place (p.write (v.extractLsb' k 2)).bits k = mppAfter old v k := by
  have field : ∀ w : Word, w &&& (3 : Word) <<< k = place (w.extractLsb' k 2) k := fun w => by
    rw [place_extractLsb', place_ones_two]
  unfold mppAfter
  rw [field v, field old, ho]
  generalize v.extractLsb' k 2 = x
  rcases hk with rfl | rfl <;> cases p <;> revert x <;> decide

theorem readMstatus_writeMstatus (s : State) (v : Word) (hf : s.fsTied = true) :
    (s.writeMstatus v).readMstatus = (v &&& if s.params.fpu = .none then 0x00020088 else 0x00026088) |||
      mppAfter s.readMstatus v 11 ||| if s.params.fpu ≠ .none ∧ v.extractLsb' 13 2 = 3 then 0x80000000 else 0 := by
  obtain ⟨-, -, hmpp, -, -⟩ := readMstatus_fields s
  have hm := place_write_eq_mppAfter (v := v) (.inl rfl) hmpp
  simp only [State.readMstatus, State.writeMstatus] at hm ⊢
  rw [hm]
  generalize mppAfter _ v 11 = m
  by_cases hn : s.params.fpu = .none
  · have h0 : s.mstatus.fs = 0 := by simpa [State.fsTied, hn] using hf
    have mask : (0x00020088 : Word) = place (BitVec.allOnes 1) 3 ||| place (BitVec.allOnes 1) 7 ||| place (BitVec.allOnes 1) 17 := by
      decide
    simp only [hn, if_true, h0, placeBit_getLsbD, ne_eq, not_true, false_and, if_false, mask, BitVec.and_or_distrib_left]
    have z1 : place (0 : BitVec 2) 13 = 0 := rfl
    have z2 : placeBit ((0 : BitVec 2) == 3) 31 = 0 := rfl
    rw [z1, z2, show ∀ w : Word, w ||| 0 = w from fun w => BitVec.or_zero]
    ac_rfl
  · have mask : (0x00026088 : Word) = place (BitVec.allOnes 1) 3 ||| place (BitVec.allOnes 1) 7 ||| place (BitVec.allOnes 2) 13 |||
        place (BitVec.allOnes 1) 17 := by decide
    have sd : placeBit (v.extractLsb' 13 2 == 3) 31 = if v.extractLsb' 13 2 = 3 then (0x80000000 : Word) else 0 := by
      generalize v.extractLsb' 13 2 = x
      revert x; decide
    simp only [hn, if_false, placeBit_getLsbD, place_extractLsb', ne_eq, not_false_eq_true, true_and, sd, mask,
      BitVec.and_or_distrib_left]
    ac_rfl

theorem readMcause_writeMcause (s : State) (v : Word) :
    (s.writeMcause v).readMcause = (v &&& 0xC8FF0FFF) ||| mppAfter s.readMcause v 28 := by
  have hm := place_write_eq_mppAfter (v := v) (.inr rfl) (readCsr_mcause_mpp s)
  simp only [State.readCsr, State.readMcause, State.writeMcause] at hm ⊢
  rw [hm]
  generalize mppAfter _ v 28 = m
  have mask : (0xC8FF0FFF : Word) = place (BitVec.allOnes 1) 31 ||| place (BitVec.allOnes 1) 30 ||| place (BitVec.allOnes 1) 27 |||
      place (BitVec.allOnes 8) 16 ||| place (BitVec.allOnes 12) 0 := by decide
  simp only [placeBit_getLsbD, place_extractLsb', mask, BitVec.and_or_distrib_left]
  ac_rfl

/-- MPP and MPIE are one field each, seen in MSTATUS and in MCAUSE. -/
theorem writeMcause_shared (s : State) (v : Word) :
    (s.writeMcause v).readMstatus.extractLsb' 11 2 = (s.writeMcause v).readMcause.extractLsb' 28 2 ∧
      (s.writeMcause v).readMstatus.extractLsb' 7 1 = v.extractLsb' 27 1 := by
  obtain ⟨-, hmpie, hmpp, -, -⟩ := readMstatus_fields (s.writeMcause v)
  refine ⟨hmpp.trans (readCsr_mcause_mpp (s.writeMcause v)).symm, ?_⟩
  apply BitVec.eq_of_getLsbD_eq
  intro k hk
  obtain rfl : k = 0 := by omega
  rw [BitVec.getLsbD_extractLsb', BitVec.getLsbD_extractLsb']
  simp only [Nat.add_zero, hmpie]
  rfl

theorem readMnmicause_writeMnmicause (s : State) (v : Word) :
    (s.writeMnmicause v).readMnmicause = (v &&& 0x88000FFF) ||| mppAfter s.readMnmicause v 28 := by
  have ho : s.readMnmicause.extractLsb' 28 2 = s.mnmicause.mpp.bits := by
    simp only [State.readMnmicause, placeBit, place]
    apply BitVec.eq_of_getLsbD_eq
    intro k hk
    interval_cases k <;> simp
  have hm := place_write_eq_mppAfter (v := v) (.inr rfl) ho
  simp only [State.readMnmicause, State.writeMnmicause] at hm ⊢
  rw [hm]
  generalize mppAfter _ v 28 = m
  have mask : (0x88000FFF : Word) = place (BitVec.allOnes 1) 31 ||| place (BitVec.allOnes 1) 27 ||| place (BitVec.allOnes 12) 0 := by
    decide
  simp only [placeBit_getLsbD, place_extractLsb', mask, BitVec.and_or_distrib_left]
  ac_rfl

/-! ## The other field registers -/

theorem mtvec_append (v : Word) : v.extractLsb' 2 30 ++ (0b11 : BitVec 2) = v ||| 3 := by
  apply BitVec.eq_of_getLsbD_eq
  intro k hk
  rw [BitVec.getLsbD_append, BitVec.getLsbD_or]
  interval_cases k <;> simp

theorem mtvt_append (v : Word) : v.extractLsb' 6 26 ++ (0 : BitVec 6) = v &&& 0xFFFFFFC0 := by
  apply BitVec.eq_of_getLsbD_eq
  intro k hk
  rw [BitVec.getLsbD_append, BitVec.getLsbD_and]
  interval_cases k <;> simp

theorem readMhcr_mhcrOf (s : State) (v : Word) : State.readMhcr { s with mhcr := mhcrOf v } = v &&& 0x0000103F := by
  have mask : (0x0000103F : Word) = place (BitVec.allOnes 1) 12 ||| place (BitVec.allOnes 1) 5 ||| place (BitVec.allOnes 1) 4 |||
      place (BitVec.allOnes 1) 3 ||| place (BitVec.allOnes 1) 2 ||| place (BitVec.allOnes 1) 1 ||| place (BitVec.allOnes 1) 0 := by
    decide
  simp only [State.readMhcr, mhcrOf, placeBit_getLsbD, mask, BitVec.and_or_distrib_left]

/-- Whether a write of MHCR would change how dirty lines are kept (log 25). -/
theorem writeMhcr_cases (s : State) (v : Word) :
    let moves := s.mhcr.de = true ∧ v.getLsbD 1 = false ∨ v.getLsbD 2 ≠ s.mhcr.wb ∨ v.getLsbD 3 ≠ s.mhcr.wa
    (s.dirty = [] ∨ ¬ moves → ∃ ls, s.writeMhcr v = .ok { s with mhcr := mhcrOf v, kept := ls }) ∧
      (s.dirty ≠ [] → moves → s.writeMhcr v = .error .cacheModeWithCacheLines) := by
  intro moves
  have cond : (!s.dirty.isEmpty && ((s.mhcr.de && !(mhcrOf v).de) || (mhcrOf v).wb != s.mhcr.wb || (mhcrOf v).wa != s.mhcr.wa))
      = true ↔ s.dirty ≠ [] ∧ moves := by
    simp [moves, mhcrOf, or_assoc]
  unfold State.writeMhcr
  dsimp only
  constructor
  · intro h
    rw [if_neg fun k => (cond.mp k).elim fun hd hm => h.elim hd fun h => h hm]
    exact ⟨_, rfl⟩
  · intro hd hm
    rw [if_pos (cond.mpr ⟨hd, hm⟩)]

theorem readMexstatus_writeMexstatus (s : State) (v : Word) (hl : s.params.mexstatus = Params.default.mexstatus) :
    (s.writeMexstatus v).readMexstatus = v &&& 0x000001FC := by
  have mask : (0x000001FC : Word) = place (BitVec.allOnes 2) 2 ||| place (BitVec.allOnes 1) 4 ||| place (BitVec.allOnes 1) 5 |||
      place (BitVec.allOnes 1) 6 ||| place (BitVec.allOnes 1) 7 ||| place (BitVec.allOnes 1) 8 := by decide
  simp only [State.readMexstatus, State.writeMexstatus, hl, Params.default, place_extractLsb', placeBit_getLsbD, mask,
    BitVec.and_or_distrib_left]

theorem writeMxstatus_cases (s : State) (v : Word) (hp : s.priv = .machine) (hl : s.params.mxstatus = Params.default.mxstatus) :
    (v.extractLsb' 30 2 = 3 → ∃ u, s.writeMxstatus v = .ok u ∧ u.readMxstatus = v &&& 0xC040A400) ∧
      (v.extractLsb' 30 2 ≠ 3 → s.writeMxstatus v = .error .mxstatusPmWrite) := by
  have mask : (0xC040A400 : Word) = place (BitVec.allOnes 2) 30 ||| place (BitVec.allOnes 1) 22 ||| place (BitVec.allOnes 1) 15 |||
      place (BitVec.allOnes 1) 13 ||| place (BitVec.allOnes 1) 10 := by decide
  unfold State.writeMxstatus
  simp only [hl, hp, Params.default]
  refine ⟨fun h => ⟨_, if_neg (not_not.mpr h), ?_⟩, fun h => if_pos h⟩
  have pm : Priv.machine.bits = v.extractLsb' 30 2 := h.symm
  simp only [State.readMxstatus, hl, Params.default, pm, place_extractLsb', placeBit_getLsbD, mask,
    BitVec.and_or_distrib_left]

/-! ## Counters (rules R58 to R61) -/

@[simp] theorem setWidth_withLow (d : Dword) (v : Word) : (withLow d v).setWidth 32 = v := by
  apply BitVec.eq_of_getLsbD_eq
  intro k hk
  rw [BitVec.getLsbD_setWidth, withLow, BitVec.getLsbD_append]
  simp [hk]

@[simp] theorem extractLsb'_withHigh (d : Dword) (v : Word) : (withHigh d v).extractLsb' 32 32 = v := by
  apply BitVec.eq_of_getLsbD_eq
  intro k hk
  rw [BitVec.getLsbD_extractLsb', withHigh, BitVec.getLsbD_append]
  simp [hk]

theorem withLow_eq (d : Dword) (v : Word) : withLow d v = BitVec.ofNat 64 (d.toNat / 2 ^ 32 * 2 ^ 32 + v.toNat) := by
  apply BitVec.eq_of_toNat_eq
  have := d.isLt
  have := v.isLt
  rw [withLow, BitVec.toNat_append, BitVec.extractLsb'_toNat, BitVec.toNat_ofNat, Nat.shiftRight_eq_div_pow,
    ← Nat.shiftLeft_add_eq_or_of_lt v.isLt, Nat.shiftLeft_eq]
  omega

theorem withHigh_eq (d : Dword) (v : Word) : withHigh d v = BitVec.ofNat 64 (v.toNat * 2 ^ 32 + d.toNat % 2 ^ 32) := by
  apply BitVec.eq_of_toNat_eq
  have := v.isLt
  have hd : (d.extractLsb' 0 32).toNat = d.toNat % 2 ^ 32 := by
    rw [BitVec.extractLsb'_toNat, Nat.shiftRight_zero]
  rw [withHigh, BitVec.toNat_append, ← Nat.shiftLeft_add_eq_or_of_lt (d.extractLsb' 0 32).isLt, hd, BitVec.toNat_ofNat,
    Nat.shiftLeft_eq]
  omega

/-- An instruction that writes MINSTRET counts itself or not (U12). -/
theorem csrRetired_cases (s u : State) (c : Csr) (w : Bool) : s.csrRetired u c w = u.minstret ∨
    s.counting 2 = true ∧ s.csrRetired u c w = u.minstret + 1 := by
  unfold State.csrRetired
  split
  next h => exact .inr ⟨(Bool.and_eq_true_iff.mp h).1, rfl⟩
  · exact .inl rfl

theorem csrrw_minstret {s u : State} {c : Csr} {a : BitVec 12} {n : Nat} (rd rs1 : Reg) (ha : csrAt a = some c)
    (hp : c.isPlain = true) (hw : s.csrAllowed c true = true) (hu : s.writeCsr (s.readX rs1) c = .ok u)
    (hn : u.minstret = BitVec.ofNat 64 n) : ∃ t, exec (.csrrw rd rs1 a) s = .next t ∧
      s.wroteX t rd (s.readCsr c) ∧ t.pc = s.pc + 4 ∧ s.sameMemory t ∧
      (t.minstret = BitVec.ofNat 64 n ∨ s.counting 2 = true ∧ t.minstret = BitVec.ofNat 64 (n + 1)) := by
  obtain ⟨t, ht, hx, hpc, hm, hi, _⟩ := csrrw_next rd ha hp hw hu
  refine ⟨t, ht, hx, hpc, hm, ?_⟩
  rw [hi, BitVec.ofNat_add, ← hn]
  exact csrRetired_cases s u c true

theorem findHpm_mapHpm (s : State) (n : Nat) {g : Hpm → Hpm} (hg : ∀ h, (g h).index = h.index) :
    (s.mapHpm n g).findHpm n = (s.findHpm n).map g := by
  have keeps : (fun h : Hpm => (if h.index = n then g h else h).index == n) = fun h => h.index == n := by
    funext h
    split <;> simp [hg]
  simp only [State.findHpm, State.mapHpm, List.find?_map, Function.comp_def, keeps]
  cases hf : s.hpm.find? (·.index == n) with
  | none => rfl
  | some h =>
    have hi : h.index = n := by simpa using List.find?_some hf
    simp [hi]

/-- A number without an event counter: writes have no effect (D24). -/
theorem mapHpm_none {s : State} {n : Nat} (h : s.findHpm n = none) (g : Hpm → Hpm) : s.mapHpm n g = s := by
  have hn := List.find?_eq_none.mp h
  have e : s.hpm.map (fun h => if h.index = n then g h else h) = s.hpm := by
    rw [List.map_congr_left fun a ha => if_neg fun k => hn a ha (by simpa using k), List.map_id']
  rw [State.mapHpm, e]

theorem findHpm_absent {s : State} (h : s.hpmShape = true) {n : Nat} (hn : n ∈ [5, 6, 7, 10, 11, 12]) : s.findHpm n = none := by
  have hs : s.hpm.map Hpm.index = hpmEvents.map Prod.fst := by simpa [State.hpmShape] using h
  have absent : ∀ k ∈ [5, 6, 7, 10, 11, 12], k ∉ hpmEvents.map Prod.fst := by decide
  refine List.find?_eq_none.mpr fun a ha hk => absent n hn ?_
  rw [← hs, ← (beq_iff_eq.mp hk : a.index = n)]
  exact List.mem_map_of_mem ha

/-- What the three registers of an event counter read after a write. -/
theorem readCsr_written_hpm (s : State) (n : Nat) (hn : s.findHpm n ≠ none) (v : Word) :
    (s.mapHpm n fun h => { h with event := v.setWidth 5 }).readCsr (.mhpmevent n) = v &&& 0x1F ∧
    (s.mapHpm n fun h => { h with count := withLow h.count v, ready := true }).readCsr (.mhpmcounter n) = v ∧
    (s.mapHpm n fun h => { h with count := withHigh h.count v, ready := true }).readCsr (.mhpmcounterh n) = v := by
  obtain ⟨d, hd⟩ := Option.ne_none_iff_exists'.mp hn
  have found : ∀ g : Hpm → Hpm, (∀ h, (g h).index = h.index) → (s.mapHpm n g).findHpm n = some (g d) := fun g hg => by
    rw [findHpm_mapHpm s n hg, hd, Option.map_some]
  have event := found (fun h => { h with event := v.setWidth 5 }) fun _ => rfl
  have low := found (fun h => { h with count := withLow h.count v, ready := true }) fun _ => rfl
  have high := found (fun h => { h with count := withHigh h.count v, ready := true }) fun _ => rfl
  refine ⟨?_, ?_, ?_⟩
  · simp only [State.readCsr, event, Option.map_some, Option.getD_some, place_setWidth]; rfl
  · simp only [State.readCsr, State.hpmCount, low, Option.map_some, Option.getD_some, setWidth_withLow]
  · simp only [State.readCsr, State.hpmCount, high, Option.map_some, Option.getD_some, extractLsb'_withHigh]

/-! ## PMP registers (rules R53 to R55) -/

/-- The entry of a number; configuration and address 0 where there is none. -/
def State.pmpEntry (s : State) (i : Nat) : PmpEntry := (s.pmp[i]?).getD { cfg := 0, addr := 0 }

theorem pmpCfgByte_eq (s : State) (i : Nat) : s.pmpCfgByte i = (s.pmpEntry i).cfg := by
  unfold State.pmpCfgByte State.pmpEntry
  cases s.pmp[i]? <;> rfl

theorem readPmpAddr_eq (s : State) (i : Nat) : s.readPmpAddr i = (s.pmpEntry i).addr := by
  unfold State.readPmpAddr State.pmpEntry
  cases s.pmp[i]? <;> rfl

theorem pmp_getElem?_cases {s : State} (h : s.pmpShape = true) (i : Nat) :
    s.params.pmpEntries ≤ i ∧ s.pmp[i]? = none ∨ ¬ s.params.pmpEntries ≤ i ∧ s.pmp[i]? = some (s.pmpEntry i) := by
  have hl : s.pmp.length = s.params.pmpEntries := by
    simp only [State.pmpShape, Bool.and_eq_true, beq_iff_eq] at h
    exact h.1
  by_cases hi : s.params.pmpEntries ≤ i
  · exact .inl ⟨hi, List.getElem?_eq_none (by omega)⟩
  · refine .inr ⟨hi, ?_⟩
    rw [State.pmpEntry, List.getElem?_eq_getElem (by omega), Option.getD_some]

theorem pmpCfgByte_writePmpCfg {s : State} (h : s.pmpShape = true) (k : Nat) (v : Word) {i : Nat} (hi : i / 4 = k) :
    (s.writePmpCfg k v).pmpCfgByte i = if s.params.pmpEntries ≤ i then 0
      else if (s.pmpEntry i).cfg.getLsbD 7 = true then (s.pmpEntry i).cfg else v.extractLsb' (8 * (i % 4)) 8 &&& 0x9F := by
  rw [State.pmpCfgByte, writePmpCfg_getElem?]
  rcases pmp_getElem?_cases h i with ⟨hn, e⟩ | ⟨hn, e⟩
  · rw [e, if_pos hn]; rfl
  · rw [e, if_neg hn, Option.map_some, if_pos hi, Option.map_some, Option.getD_some, PmpEntry.writeCfg, PmpEntry.locked]
    split <;> rfl

theorem pmpLocksBelow_eq (s : State) (i : Nat) :
    s.pmpLocksBelow i = ((s.pmpEntry i).cfg.getLsbD 7 && (s.pmpEntry i).cfg.extractLsb' 3 2 == 1) := by
  unfold State.pmpLocksBelow State.pmpEntry
  cases s.pmp[i]? <;> rfl

theorem readPmpAddr_writePmpAddr {s : State} (h : s.pmpShape = true) (i : Nat) (v : Word) :
    (s.writePmpAddr i v).readPmpAddr i = if s.params.pmpEntries ≤ i then 0
      else if ((s.pmpEntry i).cfg.getLsbD 7 || s.pmpLocksBelow (i + 1)) = true then (s.pmpEntry i).addr else v := by
  rw [State.readPmpAddr, writePmpAddr_getElem?]
  rcases pmp_getElem?_cases h i with ⟨hn, e⟩ | ⟨hn, e⟩
  · rw [e, if_pos hn]; rfl
  · rw [e, if_neg hn, Option.map_some, Option.map_some, Option.getD_some, PmpEntry.locked]
    cases (s.pmpEntry i).cfg.getLsbD 7 <;> cases s.pmpLocksBelow (i + 1) <;> simp

/-! ## All of them -/

/-- The floating-point control registers (rules R32 to R35): a write makes FS dirty. -/
theorem csrrw_fp {s : State} (rd rs1 : Reg) (hf : s.params.fpu ≠ .none) (hs : s.mstatus.fs ≠ 0) :
    let v := s.readX rs1
    s.csrrwReads rd rs1 0x001 .fflags (v &&& 0x1F) ∧ s.csrrwReads rd rs1 0x002 .frm (v &&& 0x7) ∧
      s.csrrwReads rd rs1 0x003 .fcsr (v &&& 0xFF) ∧ s.csrrwReads rd rs1 0x800 .fxcr (v &&& 0x1F) ∧
      ∀ a ∈ ([0x001, 0x002, 0x003, 0x800] : List (BitVec 12)),
        ∃ t, exec (.csrrw rd rs1 a) s = .next t ∧ t.mstatus = { s.mstatus with fs := 3 } := by
  intro v
  have enabled : s.fpEnabled = true := by simpa [State.fpEnabled, hf] using hs
  have allowed : ∀ c : Csr, c.right = .urw → s.csrAllowed c true = true := fun c hr => by
    simp [State.csrAllowed, hr, enabled]
  have dirty : ∀ (a : BitVec 12) (c : Csr) (f : Fcsr), csrAt a = some c → c.isPlain = true → c.right = .urw →
      s.writeCsr v c = .ok { s with fcsr := f }.fsDirty →
      ∃ t, exec (.csrrw rd rs1 a) s = .next t ∧ t.mstatus = { s.mstatus with fs := 3 } := fun a c f ha hp hr hu => by
    obtain ⟨t, ht, -, -, -, -, e⟩ := csrrw_next rd ha hp (allowed c hr) hu
    exact ⟨t, ht, by rw [e]; rfl⟩
  have flags : place (v.setWidth 5) 0 = v &&& 0x1F := place_setWidth v 5
  have frm : place (v.setWidth 3) 0 = v &&& 0x7 := place_setWidth v 3
  have both : place (v.setWidth 5) 0 ||| place (v.extractLsb' 5 3) 5 = v &&& 0xFF := by
    have mask : (0xFF : Word) = place (BitVec.allOnes 5) 0 ||| place (BitVec.allOnes 3) 5 := by decide
    rw [place_setWidth, place_extractLsb', mask, BitVec.and_or_distrib_left]
  refine ⟨csrrw_reads rfl rfl rfl (by decide) (allowed _ rfl) rfl flags,
    csrrw_reads rfl rfl rfl (by decide) (allowed _ rfl) rfl frm,
    csrrw_reads rfl rfl rfl (by decide) (allowed _ rfl) rfl both,
    csrrw_reads rfl rfl rfl (by decide) (allowed _ rfl) rfl flags, fun a ha => ?_⟩
  simp only [List.mem_cons, List.not_mem_nil, or_false] at ha
  rcases ha with rfl | rfl | rfl | rfl
  · exact dirty _ .fflags _ rfl rfl rfl rfl
  · exact dirty _ .frm _ rfl rfl rfl rfl
  · exact dirty _ .fcsr _ rfl rfl rfl rfl
  · exact dirty _ .fxcr _ rfl rfl rfl rfl

/-- The event registers that do not exist read 0 and ignore writes (D24). -/
theorem csrrw_hpm_absent {s : State} (rd rs1 : Reg) (hpriv : s.priv = .machine) (hs : s.hpmShape = true) {n : Nat}
    (hn : n ∈ [5, 6, 7, 10, 11, 12]) :
    s.csrrwReads rd rs1 (BitVec.ofNat 12 (0x320 + n)) (.mhpmevent n) 0 ∧
      s.csrrwReads rd rs1 (BitVec.ofNat 12 (0xB00 + n)) (.mhpmcounter n) 0 ∧
      s.csrrwReads rd rs1 (BitVec.ofNat 12 (0xB80 + n)) (.mhpmcounterh n) 0 ∧
      ∀ a ∈ [BitVec.ofNat 12 (0x320 + n), BitVec.ofNat 12 (0xB00 + n), BitVec.ofNat 12 (0xB80 + n)],
        ∃ t, exec (.csrrw rd rs1 a) s = .next t ∧ t.hpm = s.hpm := by
  have absent := findHpm_absent hs hn
  have lo : 3 ≤ n ∧ n ≤ 17 := by
    simp only [List.mem_cons, List.not_mem_nil, or_false] at hn
    omega
  have he := csrAt_mhpmevent lo.1 lo.2
  have hl := csrAt_mhpmcounter lo.1 lo.2
  have hh := csrAt_mhpmcounterh lo.1 lo.2
  have we : s.writeCsr (s.readX rs1) (.mhpmevent n) = .ok s := congrArg Except.ok (mapHpm_none absent _)
  have wl : s.writeCsr (s.readX rs1) (.mhpmcounter n) = .ok s := congrArg Except.ok (mapHpm_none absent _)
  have wh : s.writeCsr (s.readX rs1) (.mhpmcounterh n) = .ok s := congrArg Except.ok (mapHpm_none absent _)
  have stays : ∀ (a : BitVec 12) (c : Csr), csrAt a = some c → c.isPlain = true → c.right = .mrw →
      s.writeCsr (s.readX rs1) c = .ok s → ∃ t, exec (.csrrw rd rs1 a) s = .next t ∧ t.hpm = s.hpm := fun a c ha hp hr hu => by
    obtain ⟨t, ht, -, -, -, -, e⟩ := csrrw_next rd ha hp (csrAllowed_machine hpriv hr) hu
    exact ⟨t, ht, by rw [e]⟩
  refine ⟨csrrw_readsM hpriv he rfl rfl rfl we (by simp [State.readCsr, absent]),
    csrrw_readsM hpriv hl rfl rfl rfl wl (by simp [State.readCsr, State.hpmCount, absent]),
    csrrw_readsM hpriv hh rfl rfl rfl wh (by simp [State.readCsr, State.hpmCount, absent]), fun a ha => ?_⟩
  simp only [List.mem_cons, List.not_mem_nil, or_false] at ha
  rcases ha with rfl | rfl | rfl
  · exact stays _ _ he rfl rfl we
  · exact stays _ _ hl rfl rfl wl
  · exact stays _ _ hh rfl rfl wh

/-- MHCR is written unless that would change how dirty lines are kept (log 25). -/
theorem csrrw_mhcr {s : State} (rd rs1 : Reg) (hpriv : s.priv = .machine) :
    let v := s.readX rs1
    let moves := s.mhcr.de = true ∧ v.getLsbD 1 = false ∨ v.getLsbD 2 ≠ s.mhcr.wb ∨ v.getLsbD 3 ≠ s.mhcr.wa
    (s.dirty = [] ∨ ¬ moves → s.csrrwReads rd rs1 0x7C1 .mhcr (v &&& 0x0000103F)) ∧
      (s.dirty ≠ [] → moves → exec (.csrrw rd rs1 0x7C1) s = .refused .cacheModeWithCacheLines) := by
  obtain ⟨written, refused⟩ := writeMhcr_cases s (s.readX rs1)
  refine ⟨fun h => ?_, fun hd hm => csrrw_refused (c := .mhcr) rfl rfl (csrAllowed_machine hpriv rfl) (refused hd hm)⟩
  obtain ⟨ls, hu⟩ := written h
  exact csrrw_readsM (c := .mhcr) hpriv rfl rfl rfl rfl hu (readMhcr_mhcrOf s _)

theorem csrrw_mxstatus {s : State} (rd rs1 : Reg) (hpriv : s.priv = .machine)
    (hl : s.params.mxstatus = Params.default.mxstatus) :
    let v := s.readX rs1
    (v.extractLsb' 30 2 = 3 → s.csrrwReads rd rs1 0x7C0 .mxstatus (v &&& 0xC040A400)) ∧
      (v.extractLsb' 30 2 ≠ 3 → exec (.csrrw rd rs1 0x7C0) s = .refused .mxstatusPmWrite) := by
  obtain ⟨written, refused⟩ := writeMxstatus_cases s (s.readX rs1) hpriv hl
  refine ⟨fun h => ?_, fun h => csrrw_refused (c := .mxstatus) rfl rfl (csrAllowed_machine hpriv rfl) (refused h)⟩
  obtain ⟨u, hu, e⟩ := written h
  exact csrrw_readsM (c := .mxstatus) hpriv rfl rfl rfl rfl hu e

/-- Settles O30: `csrrw_readsM` carries what a register holds after `writeCsr` through the instruction, register by register. -/
theorem csrReadback : Obligations.CsrReadback := by
  intro s rd rs1 hpriv hfs v reads mpp
  have m : ∀ {u : State} {c : Csr} {a : BitVec 12} {w : Word}, csrAt a = some c → c.isPlain = true → c.isInstret = false →
      c.right = .mrw → s.writeCsr v c = .ok u → u.readCsr c = w → reads a c w :=
    fun ha hp hc hr hu e => csrrw_readsM hpriv ha hp hc hr hu e
  refine ⟨m rfl rfl rfl rfl rfl (mtvec_append v), m rfl rfl rfl rfl rfl (mtvt_append v), m rfl rfl rfl rfl rfl rfl,
    m rfl rfl rfl rfl rfl rfl, m rfl rfl rfl rfl rfl rfl, m rfl rfl rfl rfl rfl rfl, m rfl rfl rfl rfl rfl rfl,
    m rfl rfl rfl rfl rfl rfl, m rfl rfl rfl rfl rfl rfl, m rfl rfl rfl rfl rfl rfl, m rfl rfl rfl rfl rfl rfl,
    m rfl rfl rfl rfl rfl (setWidth_withLow _ v), m rfl rfl rfl rfl rfl (extractLsb'_withHigh _ v),
    m rfl rfl rfl rfl rfl (readMstatus_writeMstatus s v hfs), m rfl rfl rfl rfl rfl (readMcause_writeMcause s v), ?shared,
    m rfl rfl rfl rfl rfl (readMnmicause_writeMnmicause s v), csrrw_mhcr rd rs1 hpriv,
    ⟨csrrw_minstret rd rs1 rfl rfl (csrAllowed_machine hpriv rfl) rfl (withLow_eq _ _),
      csrrw_minstret rd rs1 rfl rfl (csrAllowed_machine hpriv rfl) rfl (withHigh_eq _ _)⟩,
    fun hs n hn => csrrw_hpm_absent rd rs1 hpriv hs hn,
    fun _ => m rfl rfl rfl rfl rfl (placeBit_getLsbD v _),
    fun hl => m rfl rfl rfl rfl rfl (readMexstatus_writeMexstatus s v hl), fun hl => csrrw_mxstatus rd rs1 hpriv hl,
    fun hf hs => csrrw_fp rd rs1 hf hs, fun n hn hlo hhi => ?hpm, fun hs => ⟨fun k hk => ?pmpcfg, fun i hi => ?pmpaddr⟩⟩
  case shared =>
    obtain ⟨t, ht, -, -, -, -, e⟩ := csrrw_next (c := .mcause) (a := 0x342) rd rfl rfl (csrAllowed_machine hpriv rfl) rfl
    exact ⟨t, ht, by rw [e]; exact writeMcause_shared s v⟩
  case hpm =>
    obtain ⟨event, low, high⟩ := readCsr_written_hpm s n hn v
    exact ⟨m (csrAt_mhpmevent hlo hhi) rfl rfl rfl rfl event, m (csrAt_mhpmcounter hlo hhi) rfl rfl rfl rfl low,
      m (csrAt_mhpmcounterh hlo hhi) rfl rfl rfl rfl high⟩
  case pmpcfg =>
    have byte := fun i (hi : i / 4 = k) => pmpCfgByte_writePmpCfg hs k v hi
    refine ⟨?_, m (csrAt_pmpcfg hk) rfl rfl rfl rfl ?_⟩
    · simp only [State.readCsr, State.readPmpCfg, pmpCfgByte_eq]; rfl
    · simp only [State.readCsr, State.readPmpCfg]
      rw [byte _ (by omega), byte _ (by omega), byte _ (by omega), byte _ (by omega)]
      rfl
  case pmpaddr =>
    have below := pmpLocksBelow_eq s (i + 1)
    refine ⟨readPmpAddr_eq s i, m (csrAt_pmpaddr hi) rfl rfl rfl rfl ?_⟩
    simp only [State.readCsr]
    rw [readPmpAddr_writePmpAddr hs, below]
    rfl

end Sys2Proof.Machine
end


section
/-! SUPPORT. Physical memory protection: which entry decides, and that no instruction writes a byte that is denied to it
(rules R160 to R166). -/

namespace Sys2Proof.Machine

open Sys2Proof.Config

/-! ## The first matching entry decides (rules R160, R165) -/

/-- The address register below entry `i` of a list, whose first entry has `previous` below it (rule R162). -/
def pmpBelowIn (previous : Word) (es : List PmpEntry) : Nat → Word
  | 0 => previous
  | i + 1 => ((es[i]?).map PmpEntry.addr).getD 0

theorem pmpBelowIn_state (s : State) (i : Nat) : pmpBelowIn 0 s.pmp i = s.pmpBelow i := by
  cases i <;> rfl

/-- Entry `i + 1` of a list is entry `i` of its rest. -/
theorem pmpBelowIn_cons (previous : Word) (e : PmpEntry) (es : List PmpEntry) (i : Nat) :
    pmpBelowIn previous (e :: es) (i + 1) = pmpBelowIn e.addr es i := by
  cases i <;> rfl

/-- An entry that matches, with none before it that does, decides. -/
theorem pmpDecide_of_first {k : Perm} {p : Priv} {a previous : Word} {es : List PmpEntry} {i : Nat} {e : PmpEntry}
    (he : es[i]? = some e) (hm : e.matches (pmpBelowIn previous es i) a = true)
    (hfirst : ∀ j d, j < i → es[j]? = some d → d.matches (pmpBelowIn previous es j) a = false) :
    pmpDecide k p a previous es = ((!e.locked && p == .machine) || e.permits k) := by
  induction es generalizing previous i with
  | nil => simp at he
  | cons d es ih =>
    cases i with
    | zero =>
      obtain rfl : d = e := by simpa using he
      have hm : d.matches previous a = true := hm
      rw [pmpDecide, if_pos hm]
    | succ i =>
      have hd : d.matches previous a = false := hfirst 0 d (by omega) rfl
      rw [pmpDecide, if_neg (by simp [hd])]
      rw [pmpBelowIn_cons] at hm
      refine ih he hm fun j c hj hc => ?_
      rw [← pmpBelowIn_cons previous d]
      exact hfirst (j + 1) c (by omega) hc

/-- Where no entry matches, machine mode alone succeeds. -/
theorem pmpDecide_of_none {k : Perm} {p : Priv} {a previous : Word} {es : List PmpEntry}
    (h : ∀ (i : Nat) (e : PmpEntry), es[i]? = some e → e.matches (pmpBelowIn previous es i) a = false) :
    pmpDecide k p a previous es = (p == .machine) := by
  induction es generalizing previous with
  | nil => rfl
  | cons d es ih =>
    have hd : d.matches previous a = false := h 0 d rfl
    rw [pmpDecide, if_neg (by simp [hd])]
    refine ih fun i e he => ?_
    rw [← pmpBelowIn_cons previous d]
    exact h (i + 1) e he

/-- Settles O22. -/
theorem pmpFirstMatchDecides : Obligations.PmpFirstMatchDecides := by
  intro s k p a
  simp only [← pmpBelowIn_state]
  refine ⟨fun i e he hm hfirst => ?_, fun h => ?_⟩
  · rw [State.pmpAllows, pmpDecide_of_first he hm hfirst]
    cases k <;> simp [PmpEntry.locked, PmpEntry.permits]
  · rw [State.pmpAllows, pmpDecide_of_none h, beq_iff_eq]

/-! ## One decision for a block of 128 bytes (rules R162, R163) -/

/-- Counting ones goes up. -/
theorem le_onesFrom (v : Word) (fuel k : Nat) : k ≤ onesFrom v fuel k := by
  induction fuel generalizing k with
  | zero => exact le_refl k
  | succ fuel ih =>
    unfold onesFrom
    split
    · exact (Nat.le_succ k).trans (ih (k + 1))
    · exact le_refl k

/-- A NAPOT region has at least 128 bytes. -/
theorem four_le_napotIndex (addr : Word) : 4 ≤ napotIndex addr := by
  have low : napotIndex addr = onesFrom (napotValue addr) 28 4 := by
    simp [napotIndex, onesFrom, napotValue_getLsbD]
  exact low ▸ le_onesFrom _ _ _

/-- Addresses of one block of 128 bytes match alike: the bounds of a region are multiples of 128. -/
theorem PmpEntry.matches_congr (e : PmpEntry) (previous : Word) {a b : Word} (h : a.toNat / 128 = b.toNat / 128) :
    e.matches previous a = e.matches previous b := by
  have tor : torMatch previous e.addr a = torMatch previous e.addr b := by
    rw [Bool.eq_iff_iff, torMatch_iff, torMatch_iff]
    omega
  have napot : napotMatch e.addr a = napotMatch e.addr b := by
    have h4 := four_le_napotIndex e.addr
    have div : ∀ c : Word, c.toNat / 2 ^ (napotIndex e.addr + 3) = c.toNat / 128 / 2 ^ (napotIndex e.addr - 4) := fun c => by
      rw [Nat.div_div_eq_div_mul, show napotIndex e.addr + 3 = 7 + (napotIndex e.addr - 4) by omega, pow_add]
      norm_num
    simp only [napotMatch, div, h]
  unfold PmpEntry.matches
  rw [tor, napot]

theorem pmpDecide_congr (k : Perm) (p : Priv) {a b : Word} (h : a.toNat / 128 = b.toNat / 128) (previous : Word)
    (es : List PmpEntry) : pmpDecide k p a previous es = pmpDecide k p b previous es := by
  induction es generalizing previous with
  | nil => rfl
  | cons e es ih => simp only [pmpDecide, e.matches_congr previous h, ih]

/-- Addresses of one line of the data cache have the same permissions. -/
theorem pmpAllows_line (s : State) (k : Perm) (p : Priv) {a b : Word} (h : lineOf a = lineOf b) :
    s.pmpAllows k p a = s.pmpAllows k p b := by
  rw [lineOf_eq, ← lineOf_eq.mp (rfl : lineOf b = lineOf b)] at h
  exact pmpDecide_congr k p (by omega) 0 s.pmp

/-! ## What a store leaves as it was -/

/-- A store of one bus transfer leaves the bytes of other lines. -/
theorem storeBytes_read_of_line_ne {s : State} (hw : s.mem.wf = true) {a c : Word} {n : Nat} (v : Dword)
    (fits : a.toNat % 32 + n ≤ 32) (hn : n ≤ 8) (hl : lineOf a ≠ lineOf c) :
    (s.storeBytes a n v).mem.read c.toNat = s.mem.read c.toNat := by
  obtain ⟨g, hg, bytes, -⟩ := storeBytes_wrote hw a v _ fits hn fun _ _ => rfl
  have out : ¬ (c - a).toNat < n := fun h => hl (by
    rw [lineOf_eq, ← lineOf_eq.mp (rfl : lineOf c = lineOf c)]
    bv_omega)
  have found : g c = s.mem.read c.toNat := ((hg (lineOf c)).resolve_right fun h => hl h.1) c (lineOf_eq.mp rfl)
  rw [(bytes c).2 out, found, ite_self]

/-- The pieces of a store all pass their own check for a write. -/
def State.piecesPass (s : State) (ps : List (Word × Nat)) : Prop :=
  ∀ p ∈ ps, p.1.toNat % 32 + p.2 ≤ 32 ∧ p.2 ≤ 8 ∧ s.pmpAllows .write s.dataPriv p.1 = true

/-- Writing pieces that pass, to memory or to the devices, leaves every byte that is denied. -/
theorem foldl_pieces_read_denied {s : State} {f : State → Word × Nat → State} {c : Word} {ps : List (Word × Nat)}
    (hf : ∀ u p, u.mem.wf = true → p.1.toNat % 32 + p.2 ≤ 32 → p.2 ≤ 8 → lineOf p.1 ≠ lineOf c →
      (f u p).mem.wf = true ∧ (f u p).mem.read c.toNat = u.mem.read c.toNat)
    (hp : s.piecesPass ps) (hc : s.pmpAllows .write s.dataPriv c = false) (u : State) (hu : u.mem.wf = true) :
    (ps.foldl f u).mem.read c.toNat = u.mem.read c.toNat := by
  induction ps generalizing u with
  | nil => rfl
  | cons p ps ih =>
    obtain ⟨fits, hn, allowed⟩ := hp p (List.mem_cons_self ..)
    have other : lineOf p.1 ≠ lineOf c := fun h => by
      rw [pmpAllows_line s _ _ h, hc] at allowed; cases allowed
    obtain ⟨wf, same⟩ := hf u p hu fits hn other
    rw [List.foldl_cons, ih (fun q hq => hp q (List.mem_cons_of_mem _ hq)) _ wf, same]

/-- A piece written to memory leaves the bytes of other lines. -/
theorem storePiece_read_of_line_ne (a : Word) (v : Dword) {c : Word} (u : State) (p : Word × Nat) (hu : u.mem.wf = true)
    (fits : p.1.toNat % 32 + p.2 ≤ 32) (hn : p.2 ≤ 8) (hl : lineOf p.1 ≠ lineOf c) :
    (u.storePiece a v p).mem.wf = true ∧ (u.storePiece a v p).mem.read c.toNat = u.mem.read c.toNat :=
  ⟨storeBytes_wf hu _ _ _, storeBytes_read_of_line_ne hu _ fits hn hl⟩

/-- A piece written to memory or to the devices leaves the bytes of other lines. -/
theorem writePiece_read_of_line_ne (a : Word) (v : Dword) {c : Word} (u : State) (p : Word × Nat) (hu : u.mem.wf = true)
    (fits : p.1.toNat % 32 + p.2 ≤ 32) (hn : p.2 ≤ 8) (hl : lineOf p.1 ≠ lineOf c) :
    (u.writePiece a v p).mem.wf = true ∧ (u.writePiece a v p).mem.read c.toNat = u.mem.read c.toNat := by
  unfold State.writePiece
  split
  · rw [deviceWrite_frame]; exact ⟨hu, rfl⟩
  · exact storePiece_read_of_line_ne a v u p hu fits hn hl

/-- A piece that passes its check is allowed. -/
theorem checkPiece_ok_allowed {s : State} {k : Access} {split : Bool} {info a : Word} {n : Nat}
    (h : s.checkPiece k split info a n = .ok) : s.pmpAllows k.perm s.dataPriv a = true := by
  unfold State.checkPiece at h
  by_contra hp
  rw [if_pos (by simpa using hp)] at h
  cases h

/-- Pieces of an access that pass its check are allowed, each as a whole. -/
theorem piecesPass_of_checks {s : State} {k : Access} {a : Word} {n : Nat} {ps : List (Word × Nat)} (hk : k.perm = .write)
    (hn : n = 1 ∨ n = 2 ∨ n = 4 ∨ n = 8) (h : ∀ p ∈ ps, p ∈ pieces a n ∧ s.checkPieceOf k a n p = .ok) : s.piecesPass ps := by
  intro p hp
  obtain ⟨hmem, hok⟩ := h p hp
  obtain ⟨fits, inside, -⟩ := (pieces_cover (a := a) hn).1 p hmem
  exact ⟨fits, by omega, hk ▸ checkPiece_ok_allowed hok⟩

/-- A store that passes its check leaves every byte that is denied. -/
theorem storeValue_read_denied {s : State} {k : Access} {a c : Word} {n : Nat} (v : Dword) (hw : s.mem.wf = true)
    (hk : k.perm = .write) (hn : n = 1 ∨ n = 2 ∨ n = 4 ∨ n = 8) (hok : s.checkAccess k a n = .ok)
    (hc : s.pmpAllows .write s.dataPriv c = false) : (s.storeValue a n v).mem.read c.toNat = s.mem.read c.toNat := by
  cases ht : inTcip a with
  | true => rw [storeValue_device_mem s ht]
  | false =>
    rw [storeValue_pieces s ht]
    have pass := piecesPass_of_checks hk hn fun p hp => ⟨hp, checkAccess_ok_iff.mp hok p hp⟩
    exact foldl_pieces_read_denied (storePiece_read_of_line_ne a v) pass hc s hw

/-- A store that fails leaves every byte that is denied: it writes only pieces that pass. -/
theorem partialStore_read_denied {s : State} {a c : Word} {n : Nat} (v : Dword) (hw : s.mem.wf = true)
    (hn : n = 1 ∨ n = 2 ∨ n = 4 ∨ n = 8) (hc : s.pmpAllows .write s.dataPriv c = false) :
    (s.partialStore a n v).mem.read c.toNat = s.mem.read c.toNat := by
  rw [partialStore_pieces]
  have pass := fun ps => piecesPass_of_checks (s := s) (k := .store) (a := a) (ps := ps) rfl hn
  refine foldl_pieces_read_denied (writePiece_read_of_line_ne a v) (pass _ fun p hp => ?_) hc s hw
  obtain ⟨q, hq, rfl⟩ := List.mem_map.mp hp
  obtain ⟨hmem, hwritten⟩ := List.mem_filter.mp hq
  simp only [State.mayBeWritten, Bool.and_eq_true, beq_iff_eq] at hwritten
  obtain ⟨⟨hok, -⟩, -⟩ := hwritten
  exact ⟨(List.mem_zipIdx' hmem).2 ▸ List.getElem_mem _, hok⟩

/-! ## What an instruction does to memory -/

/-- What an instruction other than a cache invalidation can make of memory: it leaves it, or it is a store, complete or in
part. -/
inductive MemStep (s : State) : Memory → Prop
  | same : MemStep s s.mem
  | store {k : Access} {a : Word} {n : Nat} (v : Dword) : k.perm = .write → (n = 1 ∨ n = 2 ∨ n = 4 ∨ n = 8) →
      s.checkAccess k a n = .ok → MemStep s (s.storeValue a n v).mem
  | part {a : Word} {n : Nat} (v : Dword) : (n = 1 ∨ n = 2 ∨ n = 4 ∨ n = 8) → MemStep s (s.partialStore a n v).mem

theorem MemStep.read_denied {s : State} {m : Memory} (h : MemStep s m) (hw : s.mem.wf = true) {c : Word}
    (hc : s.pmpAllows .write s.dataPriv c = false) : m.read c.toNat = s.mem.read c.toNat := by
  cases h with
  | same => rfl
  | store v hk hn hok => exact storeValue_read_denied v hw hk hn hok hc
  | part v hn => exact partialStore_read_denied v hw hn hc

theorem takeException_mem (s : State) (c : Cause) (epc info : Word) (b : Bool) :
    (s.takeException c epc info b).mem = s.mem := by
  rcases takeException_cases s c epc info b with ⟨_, _, e⟩ | ⟨_, e⟩ <;> rw [e]; rfl

theorem deliver_mem (s : State) (d : Dest) (v : Dword) : (s.deliver d v).mem = s.mem := by
  obtain ⟨x, f, m, e⟩ := deliver_frame s d v
  rw [e]

theorem deliverUnstated_mem (s : State) (d : Dest) : (s.deliverUnstated d).mem = s.mem := by
  obtain ⟨x, f, m, e⟩ := deliverUnstated_frame s d
  rw [e]

theorem queueEarlier_mem (s : State) (k : Access) (e : Option Word) : (s.queueEarlier k e).mem = s.mem := by
  rw [queueEarlier_frame]

namespace MemStep

variable {s u t : State}

/-- An instruction that leaves memory. -/
theorem of_eq (h : t.mem = s.mem) : MemStep s t.mem := h ▸ .same

/-- A trap leaves the memory that there was. -/
theorem of_raise {c : Cause} {info : Word} {b : Bool} (hu : MemStep s u.mem) (h : u.raise c info b = .next t) :
    MemStep s t.mem := by
  cases h
  rw [takeException_mem]; exact hu

theorem of_illegal {i : Instr} (h : s.illegal i = .next t) : MemStep s t.mem := of_raise .same h

theorem of_busErrorAt {k : Access} {a : Word} {done : State → State} {len : Word} (hu : MemStep s u.mem)
    (h : u.busErrorAt k a done len = .next t) (hd : ∀ v, (done v).mem = v.mem) : MemStep s t.mem := by
  rcases busErrorAt_cases h with ⟨_, rfl⟩ | ⟨_, rfl⟩
  · rw [takeException_mem]; exact hu
  · rw [advance_mem, hd]; exact hu

theorem of_loadError {k : Access} {a : Word} {d : Dest} {len : Word} (h : s.loadError k a d len = .next t) :
    MemStep s t.mem := by
  refine of_busErrorAt (u := if s.aee then s else s.deliverUnstated d) ?_ h fun _ => rfl
  split
  · exact .same
  · exact of_eq (deliverUnstated_mem s d)

theorem of_load {d : Dest} {a : Word} {n : Nat} {ext : Dword → Dword} {len : Word} (h : s.load d a n ext len = .next t) :
    MemStep s t.mem := by
  rcases load_cases h with ⟨_, rfl⟩ | ⟨_, ⟨_, rfl⟩ | ⟨b, _, h⟩ | ⟨b, _, h⟩⟩
  · exact of_eq (takeException_mem ..)
  · exact of_eq (deliver_mem ..)
  · refine of_raise (of_eq ?_) h
    rw [queueEarlier_mem]
    split
    · exact deliverUnstated_mem s d
    · rfl
  · exact of_loadError h

theorem of_store {a : Word} {n : Nat} {v : Dword} {len : Word} (hn : n = 1 ∨ n = 2 ∨ n = 4 ∨ n = 8)
    (h : s.store a n v len = .next t) : MemStep s t.mem := by
  rcases store_cases h with ⟨_, rfl⟩ | ⟨_, ⟨hok, rfl⟩ | ⟨b, _, h⟩ | ⟨b, _, h⟩⟩
  · exact of_eq (takeException_mem ..)
  · exact .store v rfl hn hok
  · exact of_raise (by rw [queueEarlier_mem]; exact .part v hn) h
  · rcases storeError_cases h with ⟨_, rfl⟩ | ⟨_, h⟩
    · exact .part v hn
    · exact of_busErrorAt (.part v hn) h fun _ => rfl

theorem of_amo {rd : Reg} {a src : Word} {op : Word → Word → Word} (h : s.amo rd a src op = .next t) : MemStep s t.mem := by
  rcases amo_cases h with ⟨_, rfl⟩ | ⟨_, ⟨hok, rfl⟩ | ⟨b, _, rfl⟩ | ⟨b, _, h⟩⟩
  · exact of_eq (takeException_mem ..)
  · rw [advance_mem, State.countAtomic, countEvent_mem, setX_mem]
    exact .store _ rfl (by omega) hok
  · exact of_eq (takeException_mem ..)
  · exact of_busErrorAt .same h fun _ => rfl

theorem of_loadReserved {rd : Reg} {a : Word} (h : s.loadReserved rd a = .next t) : MemStep s t.mem := by
  rcases loadReserved_cases h with ⟨_, rfl⟩ | ⟨_, ⟨_, rfl⟩ | ⟨b, _, rfl⟩ | ⟨b, _, h⟩⟩
  · exact of_eq (takeException_mem ..)
  · exact of_eq (setX_mem ..)
  · exact of_eq (takeException_mem ..)
  · exact of_loadError h

theorem of_storeConditional {rd : Reg} {a src : Word} (h : s.storeConditional rd a src = .next t) : MemStep s t.mem := by
  rcases storeConditional_cases h with ⟨_, rfl⟩ | ⟨_, ⟨hok, _, rfl⟩ | ⟨_, _, rfl⟩ | ⟨b, _, rfl⟩ | ⟨b, _, _, h⟩⟩
  · exact of_eq (takeException_mem ..)
  · rw [advance_mem, State.countAtomic, countEvent_mem, setX_mem]
    exact .store _ rfl (by omega) hok
  · exact of_eq (setX_mem ..)
  · exact of_eq (takeException_mem ..)
  · exact of_busErrorAt .same h fun _ => rfl

theorem of_writeRd {rd : Reg} {v len : Word} (h : s.writeRd rd v len = .next t) : MemStep s t.mem := by
  cases h; exact of_eq (setX_mem ..)

theorem of_branch {taken : Bool} {off len : Word} (h : s.branch taken off len = .next t) : MemStep s t.mem := by
  cases h; exact .same

theorem of_link {rd : Reg} {target len : Word} (h : s.link rd target len = .next t) : MemStep s t.mem := by
  cases h; exact of_eq (setX_mem ..)

theorem of_fp {en : Bool} {i : Instr} {r : Result} (hr : r = .next t → MemStep s t.mem) (h : s.fp en i r = .next t) :
    MemStep s t.mem := by
  rcases fp_cases h with ⟨_, h⟩ | ⟨_, h⟩
  · exact hr h
  · exact of_illegal h

theorem of_fpRounded {en : Bool} {i : Instr} {rm : BitVec 3} {k : Rounding → Result}
    (hr : ∀ m, k m = .next t → MemStep s t.mem) (h : s.fpRounded en i rm k = .next t) : MemStep s t.mem := by
  rcases fpRounded_cases h with ⟨_, m, _, h⟩ | ⟨_, h⟩
  · exact hr m h
  · exact of_illegal h

theorem of_putF {fd : Reg} {v : Dword} {fl : BitVec 5}
    (h : Host.Outcome.next (((s.setF fd v).raiseFlags fl).advance 4) = (.next t : Result)) : MemStep s t.mem := by
  cases h; exact of_eq (raiseFlags_mem ..)

theorem of_putX {rd : Reg} {v : Word} {fl : BitVec 5} (h : s.putX rd v fl = .next t) : MemStep s t.mem := by
  cases h; exact of_eq ((raiseFlags_mem ..).trans (setX_mem ..))

theorem of_cacheOp {i : Instr} {op : State → State} (h : s.cacheOp i op = .next t) (hop : (op s).mem = s.mem) :
    MemStep s t.mem := by
  rcases cacheOp_cases h with ⟨_, _, rfl⟩ | ⟨_, h⟩
  · exact of_eq hop
  · exact of_illegal h

theorem of_syncOp {i : Instr} (h : s.syncOp i u = .next t) (hu : u.mem = s.mem) : MemStep s t.mem := by
  rcases syncOp_cases h with ⟨_, rfl⟩ | ⟨_, h⟩
  · exact of_eq hu
  · exact of_illegal h

theorem of_csrInstr {i : Instr} {a : BitVec 12} {op : CsrOp} {write imm : Bool} {rd : Reg} {v : Word}
    (h : s.csrInstr i a op write imm rd v = .next t) : MemStep s t.mem := by
  rcases csrInstr_effect h with h | ⟨c, u, w, old, _, he, h⟩
  · exact of_illegal h
  · have mem : u.mem = s.mem := by
      cases he with
      | write hw => exact (writeCsr_frame hw).2.1
      | read | writeStatus | claim | swap => rfl
    cases h; exact of_eq ((setX_mem ..).trans mem)

theorem of_execWfi (h : execWfi s = .next t) : MemStep s t.mem := by
  unfold execWfi at h
  split at h
  · cases h; exact .same
  · exact of_illegal h

theorem of_execMret (h : execMret s = .next t) : MemStep s t.mem := by
  unfold execMret at h
  split at h
  · cases h
    refine of_eq ?_
    show State.mem (if _ then _ else _) = _
    split <;> rfl
  · exact of_illegal h

end MemStep

/-- Every instruction but the three invalidations leaves memory, or stores to it. -/
theorem exec_memStep {i : Instr} {s t : State} (h : exec i s = .next t)
    (hi : ∀ rs1, i ≠ .dcacheIall ∧ i ≠ .dcacheIsw rs1 ∧ i ≠ .dcacheIpa rs1) : MemStep s t.mem := by
  cases i with
  | add | addi | sub | and | andi | or | ori | xor | xori | sll | slli | srl | srli | sra | srai | slt | sltu | slti
  | sltiu | lui | auipc | mul | mulh | mulhsu | mulhu | div | divu | rem | remu => exact .of_writeRd h
  | cAddi4spn | cAddi | cLi | cAddi16sp | cLui | cSrli | cSrai | cAndi | cSub | cXor | cOr | cAnd | cSlli | cMv
  | cAdd => exact .of_writeRd h
  | beq | bne | blt | bge | bltu | bgeu | cBeqz | cBnez => exact .of_branch h
  | jal | jalr | cJal | cJ | cJr | cJalr => exact .of_link h
  | lb | lbu | lh | lhu | lw | cLw | cLwsp => exact .of_load h
  | sb | sh | sw | cSw | cSwsp => exact .of_store (by decide) h
  | csrrw | csrrs | csrrc | csrrwi | csrrsi | csrrci => exact .of_csrInstr h
  | wfi => exact .of_execWfi h
  | mret => exact .of_execMret h
  | fence | cNop | fenceI => cases h; exact .same
  | ecall | ebreak | cEbreak => exact .of_raise .same h
  | amoaddW | amoandW | amoorW | amoswapW | amoxorW | amomaxW | amomaxuW | amominW | amominuW =>
    simp only [exec, execAmoaddW, execAmoandW, execAmoorW, execAmoswapW, execAmoxorW, execAmomaxW, execAmomaxuW,
      execAmominW, execAmominuW] at h
    exact .of_amo h
  | scW => exact .of_storeConditional h
  | lrW => exact .of_loadReserved h
  | faddS | fsubS | fmulS | fdivS | fsqrtS | fmaddS | fmsubS | fnmsubS | fnmaddS | fcvtSW | fcvtSWu =>
    exact .of_fpRounded (fun _ => .of_putF) h
  | fcvtSD | faddD | fsubD | fmulD | fdivD | fsqrtD | fmaddD | fmsubD | fnmsubD | fnmaddD | fcvtDS | fcvtDW | fcvtDWu =>
    exact .of_fpRounded (fun _ => .of_putF) h
  | fsgnjS | fsgnjnS | fsgnjxS | fminS | fmaxS | fsgnjD | fsgnjnD | fsgnjxD | fminD | fmaxD => exact .of_fp .of_putF h
  | feqS | fltS | fleS | fclassS | fmvXW | feqD | fltD | fleD | fclassD => exact .of_fp .of_putX h
  | fcvtWS | fcvtWuS | fcvtWD | fcvtWuD => exact .of_fpRounded (fun _ => .of_putX) h
  | fmvWX => exact .of_fp (.of_putF (fl := 0)) h
  | flw | fld => exact .of_fp .of_load h
  | fsw | fsd => exact .of_fp (.of_store (by decide)) h
  | dcacheCall | dcacheCsw | dcacheCpa | dcacheCiall | dcacheCisw | dcacheCipa | icacheIall | icacheIpa =>
    simp only [exec, execDcacheCall, execDcacheCsw, execDcacheCpa, execDcacheCiall, execDcacheCisw, execDcacheCipa,
      execIcacheIall, execIcacheIpa] at h
    exact .of_cacheOp h rfl
  | dcacheIall => exact absurd rfl (hi 0).1
  | dcacheIsw rs1 => exact absurd rfl (hi rs1).2.1
  | dcacheIpa rs1 => exact absurd rfl (hi rs1).2.2
  | sync | syncI => exact .of_syncOp h rfl

/-- Settles O26: every piece that an instruction writes passes its own check, and what it changes beyond that piece lies in the
piece's line, which has one permission. -/
theorem pmpProtectsMemory : Obligations.PmpProtectsMemory :=
  fun _ _ _ _ hw h hc hi => (exec_memStep h hi).read_denied hw hc

end Sys2Proof.Machine
end


section
/-! SUPPORT. Instruction fetch (rules R148, R200, R210, R679), and the instructions that order, synchronise and sleep (rules
R306, R308, R309, R541, R542). -/

namespace Sys2Proof.Machine

open Sys2Proof.Config

/-! ## The fetch of a halfword -/

/-- A fetch from memory that nothing forbids. -/
theorem fetchHalf_memory {s : State} {p : Priv} {a : Word} (hp : s.pmpAllows .execute p a = true) (ht : inTcip a = false)
    (he : fetchError s.params a = false) (hs : s.staleAt a = []) : s.fetchHalf p a = .ok (s.mem.readHalf a) := by
  simp [State.fetchHalf, hp, ht, he, State.visibleHalf, hs]

/-- A fetch outside the device window that succeeds, where nothing older may be seen, sees memory. -/
theorem fetchHalf_sees {s : State} {p : Priv} {a : Word} {h : Half} (ht : inTcip a = false) (hs : s.stale = [])
    (hf : s.fetchHalf p a = .ok h) : h = s.mem.readHalf a := by
  unfold State.fetchHalf at hf
  rw [ht] at hf
  split at hf
  · cases hf
  · rw [if_neg (by decide)] at hf
    split at hf
    · cases hf
    · cases hf
      simp [State.visibleHalf, State.staleAt, hs]

/-- A denied fetch reports the address of its halfword. -/
theorem fetchHalf_denied {s : State} {p : Priv} {a b : Word} (h : s.fetchHalf p a = .denied b) : b = a := by
  unfold State.fetchHalf at h
  split at h
  · cases h; rfl
  · split at h
    · split at h
      · cases h; rfl
      · split at h <;> cases h
    · split at h <;> cases h
      rfl

theorem fetchHalf_device_user {s : State} {a : Word} (ht : inTcip a = true) : s.fetchHalf .user a = .denied a := by
  simp [State.fetchHalf, ht]

/-- A machine-mode fetch from the device window (rule R679; log 27). -/
theorem fetchHalf_device {s : State} {a : Word} (ht : inTcip a = true) (hp : s.pmpAllows .execute .machine a = true) :
    s.fetchHalf .machine a =
      if inSources a then .ok ((s.deviceRead a 2).setWidth 16) else .refused (.deviceFetch a) := by
  simp [State.fetchHalf, ht, hp, deviceSupports]

theorem inSources_iff {a : Word} : inSources a = true ↔ 0xE0801000 ≤ a.toNat ∧ a.toNat < 0xE0805000 := by
  simp [inSources, BitVec.le_def, BitVec.lt_def]

/-- A halfword of the registers of an interrupt. -/
theorem deviceRead_half (s : State) {a : Word} (h : inSources a = true) : (s.deviceRead a 2).setWidth 16 =
    (s.sourceWord ((a.toNat - 0xE0801000) / 4) >>> (8 * (a.toNat % 4))).setWidth 16 := by
  have low := (inSources_iff.mp h).1
  have index : sourceAt a = (a.toNat - 0xE0801000) / 4 := by
    rw [sourceAt, BitVec.toNat_sub_of_le (show (0xE0801000 : Word) ≤ a from BitVec.le_def.mpr low)]; rfl
  rw [State.deviceRead, if_pos h, index]
  have mask : BitVec.ofNat 32 (2 ^ (8 * 2) - 1) = (BitVec.allOnes 16).setWidth 32 := rfl
  rw [mask]
  apply BitVec.eq_of_getLsbD_eq
  intro i hi
  simp only [BitVec.getLsbD_setWidth, BitVec.getLsbD_and, BitVec.getLsbD_allOnes]
  simp [hi, show i < 32 by omega]

/-! ## The fetch of an instruction -/

theorem fetchCode_denied {s : State} {p : Priv} {a b : Word} (h : s.fetchHalf p a = .denied b) :
    s.fetchCode p a = .denied b := by
  simp [State.fetchCode, h]

theorem fetchCode_refused {s : State} {p : Priv} {a : Word} {r : Refusal} (h : s.fetchHalf p a = .refused r) :
    s.fetchCode p a = .refused r := by
  simp [State.fetchCode, h]

/-- A halfword whose low two bits are not 11 is an instruction of its own (rule R200). -/
theorem fetchCode_half {s : State} {p : Priv} {a : Word} {h : Half} (hf : s.fetchHalf p a = .ok h) (hs : isLong h = false) :
    s.fetchCode p a = .ok (.half h) := by
  simp [State.fetchCode, hf, hs]

/-- One whose low two bits are 11 has a second halfword behind it (rule R200). -/
theorem fetchCode_word {s : State} {p : Priv} {a : Word} {h k : Half} (hf : s.fetchHalf p a = .ok h) (hl : isLong h = true)
    (hk : s.fetchHalf p (a + 2) = .ok k) : s.fetchCode p a = .ok (.word (k ++ h)) := by
  simp only [State.fetchCode, State.fetchWord, hf, hl, hk, if_true]

theorem fetchCode_word_denied {s : State} {p : Priv} {a b : Word} {h : Half} (hf : s.fetchHalf p a = .ok h)
    (hl : isLong h = true) (hk : s.fetchHalf p (a + 2) = .denied b) : s.fetchCode p a = .denied b := by
  simp only [State.fetchCode, State.fetchWord, hf, hl, hk, if_true]

/-- The length of an instruction stands in the low two bits of its first byte. -/
theorem isLong_iff {h : Half} : isLong h = true ↔ h.extractLsb' 0 2 = 0b11 := by
  rw [isLong, beq_iff_eq]; rfl

theorem extractLsb'_append_byte (x y : Byte) : (x ++ y).extractLsb' 0 2 = y.extractLsb' 0 2 := by
  apply BitVec.eq_of_getLsbD_eq
  intro i hi
  simp only [BitVec.getLsbD_extractLsb', BitVec.getLsbD_append, Nat.zero_add, show i < 8 by omega, if_true]

/-- Two halfwords of two bytes each are four bytes. -/
theorem append_bytes (x y z w : Byte) : ((x ++ y : Half) ++ (z ++ w : Half) : Word) = x ++ y ++ z ++ w := by
  apply BitVec.eq_of_getLsbD_eq
  intro i hi
  simp only [BitVec.getLsbD_append]
  by_cases h8 : i < 8
  · simp [h8, show i < 16 by omega]
  · by_cases h16 : i < 16
    · simp [h8, h16, show i - 8 < 8 by omega]
    · simp [h8, h16, show ¬ i - 8 < 8 by omega, show i - 8 - 8 = i - 16 by omega]

/-- Settles O5. -/
theorem fetchReadsMemoryBytes : Obligations.FetchReadsMemoryBytes := by
  intro s p a ready byte
  have half : ∀ b : Word, ready b → s.fetchHalf p b = .ok (s.mem.read (b + 1).toNat ++ s.mem.read b.toNat) := by
    rintro b ⟨hp, ht, he, hs⟩
    rw [fetchHalf_memory hp ht he hs, readHalf_eq]
  have first : byte 0 = s.mem.read a.toNat := congrArg (fun c : Word => s.mem.read c.toNat) (BitVec.add_zero a)
  refine ⟨fun h hb => ?_, fun h h2 hb => ?_, fun ht => fetchCode_denied (fetchHalf_device_user ht), fun ht hp _ => ?_⟩
  · rw [first] at hb ⊢
    refine fetchCode_half (half a h) (eq_false_of_ne_true (mt isLong_iff.mp ?_))
    rwa [extractLsb'_append_byte]
  · rw [first] at hb ⊢
    rw [fetchCode_word (half a h) (isLong_iff.mpr (by rwa [extractLsb'_append_byte])) (half (a + 2) h2)]
    have third : a + 2 + 1 = a + 3 := by rw [BitVec.add_assoc]; rfl
    rw [third, append_bytes]
  · intro h
    have device := fetchHalf_device ht hp
    refine ⟨fun lo hi => ?_, fun out => fetchCode_refused ?_⟩
    · have inside := inSources_iff.mpr ⟨lo, hi⟩
      have read : s.fetchHalf .machine a = .ok h := by
        rw [device, if_pos inside, deviceRead_half s inside]
      exact ⟨read, fun hs => fetchCode_half read (eq_false_of_ne_true (mt isLong_iff.mp hs))⟩
    · rw [device, if_neg (by rw [inSources_iff]; omega)]

/-- A step that is due to fetch does so. -/
theorem step_eq_fetchExecute {s u : State} (hp : s.params.wf = true) (hu : u = { s.sample with asleep := false })
    (hr : u.pins.reset = false) (hl : u.lockedUp = false) (hw : s.sample.asleep = true → s.sample.wakes = true)
    (hn : u.takesNmi = false) (hi : u.takenInterrupt = none) (hb : u.reportedBusError = none) :
    step s = u.fetchExecute := by
  rw [step_eq_boundary hp rfl hu (by rw [hu] at hr; exact hr) (by rw [hu] at hl; exact hl) hw,
    boundary_eq_fetchExecute hn hi hb]

/-- Bits that are no instruction raise IllegalInstruction, but for the compressed floating-point slots of a built unit. -/
theorem undefinedCode_eq {s : State} {c : Code} {e : DecodeError} (h : ∀ k, e = .compressedFloat k → s.params.fpu = .none) :
    s.undefinedCode c e = s.raise .illegalInstruction c.value := by
  cases e with
  | compressedFloat k => simp [State.undefinedCode, h k rfl]
  | _ => rfl

/-- Settles O6. -/
theorem fetchOrDecodeTraps : Obligations.FetchOrDecodeTraps := by
  intro s u hp hu hr hl hw hn hi hb
  rw [step_eq_fetchExecute hp hu hr hl hw hn hi hb]
  have denied : ∀ {b}, u.fetchCode u.priv u.pc = .denied b → ∃ t, u.fetchExecute = .next t ∧ u.trapped t 1 b := fun h => by
    obtain ⟨t, ht, trap, -⟩ := fetchExecute_denied h
    exact ⟨t, ht, trap⟩
  refine ⟨fun a h => ?_, fun h a hf hlong hk => ?_, fun c e hc hd hfpu => ?_⟩
  · obtain rfl := fetchHalf_denied h
    exact denied (fetchCode_denied h)
  · obtain rfl := fetchHalf_denied hk
    exact denied (fetchCode_word_denied hf hlong hk)
  · have runs : u.fetchExecute = u.raise .illegalInstruction c.value := by
      rw [State.fetchExecute, hc, ← undefinedCode_eq hfpu]
      simp [State.executeCode, hd]
    rw [runs]
    exact raise_trapped u .illegalInstruction _ false rfl

/-! ## Ordering, synchronising, sleeping -/

/-- With no dirty line, ICACHE.IALL and SYNC.I leave nothing older to be fetched (rules R185, R542, R544). -/
theorem flushPipeline_invalidateFetch {s : State} (h : s.dirty = []) :
    ((s.invalidateFetch fun _ => true).advance 4).flushPipeline.stale = [] := by
  simp [State.flushPipeline, State.invalidateFetch, State.dirtyBelow, h]

/-- The wake-up conditions (rule R721). -/
theorem wakes_iff {s : State} : s.wakes = true ↔
    s.pins.nmi = true ∨ s.mexstatus.wfe = true ∧ s.pins.extEvent = true ∨
      ∃ c, s.presented = some c ∧ (s.mexstatus.wfe = true ∨ s.mil.toNat < c.level.toNat) := by
  unfold State.wakes
  cases s.presented <;> simp [BitVec.lt_def, or_assoc]

/-- Settles O58. -/
theorem fencesAndSleep : Obligations.FencesAndSleep := by
  intro s rd rs1 fm pred succ imm next seesMemory
  have sees : ∀ t : State, t.stale = [] → seesMemory t := fun t ht p a h hin hf => fetchHalf_sees hin ht hf
  have sync : ∀ u : State, u.mxstatus.thead = true → exec .syncI u = .next (u.flushPipeline.advance 4) := fun u hu => by
    simp [exec, execSyncI, State.syncOp, hu]
  refine ⟨rfl, fun ht => ?_, ⟨_, rfl, rfl, sees _ rfl⟩, fun ht => ?_, fun hm => ⟨!s.wakes, ?_, ?_⟩⟩
  · simp [exec, execSync, State.syncOp, ht]; rfl
  · refine ⟨_, sync s ht, rfl, fun e he => (List.mem_filter.mp he).1, fun hm hd => ?_⟩
    refine ⟨_, _, ?_, sync ((s.invalidateFetch fun _ => true).advance 4) ht, sees _ (flushPipeline_invalidateFetch hd)⟩
    simp [exec, execIcacheIall, State.cacheOp, ht, hm]
  · show execWfi s = _
    rw [execWfi, if_pos hm]; rfl
  · rw [Bool.not_eq_false', wakes_iff]

end Sys2Proof.Machine
end


section
/-! SUPPORT. Integer loads and stores, LR.W and SC.W where the PMP denies the access, and where it goes to memory and succeeds
(rules R160, R290 to R298, R352, R360, R361, R500 to R509). -/

namespace Sys2Proof.Machine

open Sys2Proof.Config

/-! ## Denied accesses (rules R160, R352) -/

section

variable {s : State} {a : Word}

/-- An aligned access of one transfer that the PMP denies. -/
theorem checkPieceOf_denied {k : Access} {n : Nat} (h : a.toNat % n = 0) (hp : s.pmpAllows k.perm s.dataPriv a = false) :
    s.checkPieceOf k a n (a, n) = .denied a := by
  simp [State.checkPieceOf, State.checkPiece, misaligned, h, hp]

/-- An aligned store that the PMP denies. -/
theorem store_denied {n : Nat} {v : Dword} {len : Word} (hn : n ≠ 8) (h : a.toNat % n = 0)
    (hp : s.pmpAllows .write s.dataPriv a = false) : ∃ t, s.store a n v len = .next t ∧ s.trapped t 7 a := by
  obtain ⟨hm, h2, h3, h4⟩ := denied_checks (k := .store) h hp
  have one : pieces a n = [(a, n)] := by simp [pieces, hm, hn]
  have unwritten : s.partialStore a n v = s := partialStore_failing one (by rw [checkPieceOf_denied h hp]; nofun)
  unfold State.store
  rw [if_neg (by simp [h2]), h3, h4, unwritten]
  exact raise_trapped s .storeAccessFault a false rfl

/-- An aligned AMO that the PMP denies. -/
theorem amo_denied {rd : Reg} {src : Word} {op : Word → Word → Word} (h : a.toNat % 4 = 0)
    (hp : s.pmpAllows .write s.dataPriv a = false) : ∃ t, s.amo rd a src op = .next t ∧ s.trapped t 7 a := by
  obtain ⟨hm, -, h3, -⟩ := denied_checks (k := .amo) h hp
  unfold State.amo
  rw [if_neg (by simp [hm]), h3]
  exact raise_trapped s .storeAccessFault a false rfl

/-- An aligned LR.W that the PMP denies. -/
theorem loadReserved_denied {rd : Reg} (h : a.toNat % 4 = 0) (hp : s.pmpAllows .read s.dataPriv a = false) :
    ∃ t, s.loadReserved rd a = .next t ∧ s.trapped t 5 a := by
  obtain ⟨hm, -, h3, -⟩ := denied_checks (k := .loadReserved) h hp
  unfold State.loadReserved
  rw [if_neg (by simp [hm]), h3]
  exact raise_trapped s .loadAccessFault a false rfl

/-- An aligned SC.W that the PMP denies. -/
theorem storeConditional_denied {rd : Reg} {src : Word} (h : a.toNat % 4 = 0)
    (hp : s.pmpAllows .write s.dataPriv a = false) : ∃ t, s.storeConditional rd a src = .next t ∧ s.trapped t 7 a := by
  obtain ⟨hm, -, h3, -⟩ := denied_checks (k := .storeConditional) h hp
  unfold State.storeConditional
  rw [if_neg (by simp [hm]), h3]
  exact raise_trapped s .storeAccessFault a false rfl

end

/-- The nine AMOs differ in their operation only (rules R354 to R364). -/
theorem exec_amos {s : State} {aq rl : BitVec 1} {rd rs1 rs2 : Reg} {i : Instr}
    (h : i ∈ [Instr.amoaddW aq rl rd rs1 rs2, .amoandW aq rl rd rs1 rs2, .amoorW aq rl rd rs1 rs2, .amoxorW aq rl rd rs1 rs2,
      .amoswapW aq rl rd rs1 rs2, .amomaxW aq rl rd rs1 rs2, .amomaxuW aq rl rd rs1 rs2, .amominW aq rl rd rs1 rs2,
      .amominuW aq rl rd rs1 rs2]) : ∃ op, exec i s = s.amo rd (s.readX rs1) (s.readX rs2) op := by
  simp only [List.mem_cons, List.not_mem_nil, or_false] at h
  rcases h with rfl | rfl | rfl | rfl | rfl | rfl | rfl | rfl | rfl <;>
    simp only [exec, execAmoaddW, execAmoandW, execAmoorW, execAmoxorW, execAmoswapW, execAmomaxW, execAmomaxuW,
      execAmominW, execAmominuW] <;> exact ⟨_, rfl⟩

/-- Settles O25. -/
theorem pmpDeniedAccessTraps : Obligations.PmpDeniedAccessTraps := by
  intro s aq rl rd rs1 rs2 imm
  refine ⟨rfl, ⟨fun hp => ⟨?_, ?_, fun h => ⟨?_, ?_⟩, fun h => ?_⟩, fun hp => ⟨?_, fun h => ?_, fun h => ?_⟩⟩,
    fun h => ⟨fun hp => loadReserved_denied h hp, fun hp i hi => ?_⟩⟩
  · exact load_denied (Nat.mod_one _) hp
  · exact load_denied (Nat.mod_one _) hp
  · exact load_denied h hp
  · exact load_denied h hp
  · exact load_denied h hp
  · exact store_denied (by decide) (Nat.mod_one _) hp
  · exact store_denied (by decide) h hp
  · exact store_denied (by decide) h hp
  · rcases List.mem_cons.mp hi with rfl | hi
    · exact storeConditional_denied h hp
    · obtain ⟨op, e⟩ := exec_amos (s := s) hi
      rw [e]
      exact amo_denied h hp

/-! ## Loads (rules R291 to R295) -/

/-- The sign-extended low bits of a loaded value. -/
theorem extend_signed {n : Nat} (hn : n ≤ 32) (b : Nat) :
    (extend true n (BitVec.ofNat 64 b)).setWidth 32 = BitVec.ofInt 32 (BitVec.ofNat n b).toInt := by
  show _ = (BitVec.ofNat n b).signExtend 32
  simp only [extend, if_true]
  rw [BitVec.setWidth_ofNat_of_le (by omega)]
  apply BitVec.eq_of_getLsbD_eq
  intro i hi
  simp [BitVec.getElem_signExtend, hi, show i < 64 by omega]

/-- The zero-extended low bits of a loaded value. -/
theorem extend_unsigned {n : Nat} (hn : n ≤ 32) (b : Nat) :
    (extend false n (BitVec.ofNat 64 b)).setWidth 32 = BitVec.ofNat 32 (BitVec.ofNat n b).toNat := by
  simp only [extend, Bool.false_eq_true, if_false]
  rw [BitVec.setWidth_ofNat_of_le (by omega), BitVec.setWidth_setWidth_of_le _ (by omega), BitVec.ofNat_toNat]

/-- A loaded word. -/
theorem extend_word (b : Nat) : (extend false 32 (BitVec.ofNat 64 b)).setWidth 32 = BitVec.ofNat 32 b := by
  rw [extend_unsigned (le_refl 32), BitVec.ofNat_toNat, BitVec.setWidth_eq]

/-- The address of C.LW and C.SW. -/
theorem cWordAddress_eq (s : State) (d : CReg) (u : BitVec 5) : s.readX (wideReg d) + cWordOffset u =
    s.readX (BitVec.ofNat 5 (8 + d.toNat)) + BitVec.ofNat 32 (4 * u.toNat) := by
  rw [wideReg_eq, cWordOffset_eq]

/-- The address of C.LWSP and C.SWSP. -/
theorem cSpAddress_eq (s : State) (u : BitVec 6) : s.readX sp + cSpOffset u = s.readX 2 + BitVec.ofNat 32 (4 * u.toNat) := by
  rw [cSpOffset_eq]; rfl

/-- Settles O42. -/
theorem loadResults : Obligations.LoadResults := by
  intro s rd rs1 imm d d2 u5 u6 hw gives half word a ca sa
  have one : ∀ g : Word → Byte, bytesOf g a 1 = (g a).toNat := fun g => by simp [bytesOf]
  have byte : ∀ g : Word → Byte, BitVec.ofNat 8 (bytesOf g a 1) = g a := fun g => by rw [one, BitVec.ofNat_toNat]; simp
  refine ⟨fun h => load_gaveX hw h (by decide) (by decide) fun g => ?_,
    fun h => load_gaveX hw h (by decide) (by decide) fun g => ?_,
    fun h => load_gaveX hw h (by decide) (by decide) fun g => extend_signed (by decide) _,
    fun h => load_gaveX hw h (by decide) (by decide) fun g => extend_unsigned (by decide) _,
    fun h => load_gaveX hw h (by decide) (by decide) fun g => ?_,
    fun h => ?_, fun h => ?_⟩
  · rw [extend_signed (by decide), byte]
  · rw [extend_unsigned (by decide), byte]
  · exact extend_word _
  · have run : exec (.cLw d d2 u5) s = s.load (.int (wideReg d)) ca 4 (extend false 32) 2 := by
      show execCLw d d2 u5 s = _
      rw [execCLw, cWordAddress_eq]
    rw [run, ← wideReg_eq]
    exact load_gaveX hw h (by decide) (by decide) fun g => extend_word _
  · have run : exec (.cLwsp rd u6) s = s.load (.int rd) sa 4 (extend false 32) 2 := by
      show execCLwsp rd u6 s = _
      rw [execCLwsp, cSpAddress_eq]
    rw [run]
    exact load_gaveX hw h (by decide) (by decide) fun g => extend_word _

/-- Settles O43. -/
theorem storeResults : Obligations.StoreResults := by
  intro s rs2 rs1 imm d d2 u5 u6 hw gives a
  refine ⟨fun h => store_stored hw h (by decide), fun h => store_stored hw h (by decide),
    fun h => store_stored hw h (by decide), fun h => ?_, fun h => ?_⟩
  · have run : exec (.cSw d d2 u5) s = s.store (s.readX (BitVec.ofNat 5 (8 + d2.toNat)) + BitVec.ofNat 32 (4 * u5.toNat)) 4
        ((s.readX (BitVec.ofNat 5 (8 + d.toNat))).setWidth 64) 2 := by
      show execCSw d d2 u5 s = _
      rw [execCSw, cWordAddress_eq, wideReg_eq]
    rw [run]
    exact store_stored hw h (by decide)
  · have run : exec (.cSwsp rs2 u6) s = s.store (s.readX 2 + BitVec.ofNat 32 (4 * u6.toNat)) 4
        ((s.readX rs2).setWidth 64) 2 := by
      show execCSwsp rs2 u6 s = _
      rw [execCSwsp, cSpAddress_eq]
    rw [run]
    exact store_stored hw h (by decide)

/-! ## LR.W and SC.W (rules R352, R360, R361) -/

/-- LR.W where the access succeeds. -/
theorem loadReserved_plain {s : State} (hw : s.mem.wf = true) {rd : Reg} {a : Word} (h : s.plainAccess .loadReserved a 4) :
    ∃ t g, s.mayFind (touches a 4) g ∧ s.loadReserved rd a = .next t ∧
      s.wroteX t rd (BitVec.ofNat 32 (bytesOf g a 4)) ∧ s.sameMemory t ∧ s.retiredTo t (s.pc + 4) ∧
      t = { s with x := t.x, reservation := some a, pc := t.pc, minstret := t.minstret } := by
  obtain ⟨hm, -, hok⟩ := plainAccess_checks h (by decide)
  obtain ⟨g, hg, value⟩ := loadValue_found hw h (by decide) (by decide)
  have run : s.loadReserved rd a =
      .next (({ s with reservation := some a }.setX rd (BitVec.ofNat 32 (bytesOf g a 4))).advance 4) := by
    rw [State.loadReserved, if_neg (by simp [hm]), hok]
    dsimp only
    rw [value, BitVec.setWidth_ofNat_of_le (by decide)]
  refine ⟨_, g, hg, run, wroteX_setX (u := { s with reservation := some a }) rfl rfl, ?_⟩
  obtain ⟨x, e⟩ := setX_frame { s with reservation := some a } rd (BitVec.ofNat 32 (bytesOf g a 4))
  rw [e]
  exact ⟨fun _ => rfl, ⟨rfl, rfl⟩, rfl⟩

/-- Counting no occurrence changes nothing. -/
theorem countEvent_zero (s : State) (n : Nat) : s.countEvent n 0 = s := by
  have add : ∀ (h : Hpm) (r : Bool), h.add r 0 = h := fun h r => by
    unfold Hpm.add
    split <;> simp
  simp [State.countEvent, add]

/-- An atomic writes `rd` and retires; whether it counts as a store is free (log 12). -/
theorem setX_countAtomic_advance (s : State) (rd : Reg) (v : Word) : ∃ t, (s.setX rd v).countAtomic.advance 4 = t ∧
    s.wroteX t rd v ∧ s.retiredTo t (s.pc + 4) ∧ (t.hpm = s.hpm ∨ t.hpm = (s.countEvent 13 1).hpm) ∧
    t = { s with x := t.x, hpm := t.hpm, pc := t.pc, minstret := t.minstret } := by
  refine ⟨_, rfl, wroteX_setX rfl rfl, ?_⟩
  obtain ⟨x, e⟩ := setX_frame s rd v
  rw [e, State.countAtomic]
  split
  · exact ⟨⟨rfl, rfl⟩, .inr rfl, rfl⟩
  · rw [countEvent_zero]
    exact ⟨⟨rfl, rfl⟩, .inl rfl, rfl⟩

section

variable {s : State} {rd : Reg} {a src : Word}

/-- SC.W without the reservation, or failing all the same (rule R361, D41; log 14). -/
theorem storeConditional_fails (h : s.plainAccess .storeConditional a 4) (hr : s.reserves a = false) :
    ∃ t, s.storeConditional rd a src = .next t ∧ s.wroteX t rd 1 ∧ s.sameMemory t ∧ s.retiredTo t (s.pc + 4) ∧
      (t.hpm = s.hpm ∨ t.hpm = (s.countEvent 13 1).hpm) ∧
      t = { s with x := t.x, hpm := t.hpm, reservation := none, pc := t.pc, minstret := t.minstret } := by
  obtain ⟨hm, -, hok⟩ := plainAccess_checks h (by decide)
  obtain ⟨t, run, written, retired, counted, frame⟩ := setX_countAtomic_advance { s with reservation := none } rd 1
  refine ⟨t, ?_, written, fun _ => by rw [frame], retired, counted, frame⟩
  simp only [State.storeConditional, hm, hok, hr, run, Bool.false_eq_true, if_false]

/-- SC.W with the reservation (rule R361). -/
theorem storeConditional_stores (hw : s.mem.wf = true) (h : s.plainAccess .storeConditional a 4) (hr : s.reserves a = true) :
    ∃ t, s.storeConditional rd a src = .next t ∧ s.wroteX t rd 0 ∧
      (∃ g, s.mayFind (touches a 4) g ∧ s.wroteBytes t g a 4 (src.setWidth 64)) ∧ s.retiredTo t (s.pc + 4) ∧
      (t.hpm = s.hpm ∨ t.hpm = (s.countEvent 13 1).hpm) ∧
      t = { s with
            x := t.x, mem := t.mem, stale := t.stale, dirty := t.dirty, kept := t.kept, hpm := t.hpm,
            reservation := none, pc := t.pc, minstret := t.minstret } := by
  obtain ⟨hm, -, hok⟩ := plainAccess_checks h (by decide)
  obtain ⟨-, ha, -⟩ := h
  obtain ⟨g, hg, bytes⟩ := storeValue_wrote hw ha (n := 4) (by decide) (src.setWidth 64)
  obtain ⟨m, st, d, k, pieces⟩ := storePieces_frame a (src.setWidth 64) (pieces a 4) s
  have value := (storeValue_pieces s ha 4 (src.setWidth 64)).trans pieces
  obtain ⟨t, run, written, retired, counted, frame⟩ :=
    setX_countAtomic_advance { s with mem := m, stale := st, dirty := d, kept := k, reservation := none } rd 0
  refine ⟨t, ?_, written, ⟨g, hg, wroteBytes_congr bytes ?_ ?_ ?_⟩, retired, counted, ?_⟩
  · simp only [State.storeConditional, hm, hok, hr, value, run, Bool.false_eq_true, if_false, if_true]
  · rw [value, frame]
  · rw [value, frame]
  · rw [value, frame]
  · rw [frame]

/-- A misaligned LR.W (rule R352). -/
theorem loadReserved_misaligned (h : a.toNat % 4 ≠ 0) : ∃ t, s.loadReserved rd a = .next t ∧ s.trapped t 4 a := by
  rw [State.loadReserved, if_pos (by simp [misaligned, h])]
  exact raise_trapped s .loadAddrMisaligned a false rfl

/-- A misaligned SC.W (rule R352). -/
theorem storeConditional_misaligned (h : a.toNat % 4 ≠ 0) : ∃ t, s.storeConditional rd a src = .next t ∧ s.trapped t 6 a := by
  rw [State.storeConditional, if_pos (by simp [misaligned, h])]
  exact raise_trapped s .storeAddrMisaligned a false rfl

end

/-- Settles O47. -/
theorem loadReservedStoreConditional : Obligations.LoadReservedStoreConditional := by
  intro s aq rl rd rs1 rs2 hw a fails stores
  refine ⟨loadReserved_plain hw, fun h => ?_, fun h => ⟨loadReserved_misaligned h, storeConditional_misaligned h⟩⟩
  cases hr : s.reserves a with
  | false =>
    obtain ⟨t, ht, failed⟩ := storeConditional_fails (rd := rd) (src := s.readX rs2) h hr
    exact ⟨t, ht, fun _ => failed, fun _ => .inl failed⟩
  | true =>
    obtain ⟨t, ht, stored⟩ := storeConditional_stores (rd := rd) (src := s.readX rs2) hw h hr
    have held : s.reservation = some a := by
      simp only [State.reserves, Bool.and_eq_true, beq_iff_eq] at hr
      exact hr.1
    exact ⟨t, ht, fun other => absurd held other, fun _ => .inr stored⟩

end Sys2Proof.Machine
end


section
/-! SUPPORT. Misaligned loads and stores: the bytes that the hardware splits them into, where such an access ends, and what is
left of it (rules R146, R147, R160, R172, R566; logs 16, 18, 19). -/

namespace Sys2Proof.Machine

open Sys2Proof.Config

/-! ## One byte of a split access -/

/-- The check of one byte of a split access, which reports its own address (rules R147, R563). -/
def State.checkByte (s : State) (k : Access) (b : Word) : Checked := s.checkPiece k true b b 1

/-- The byte is allowed, and lies outside the device window and strong-order regions. -/
def State.reachesByte (s : State) (k : Access) (b : Word) : Prop :=
  s.pmpAllows k.perm s.dataPriv b = true ∧ inTcip b = false ∧ (attrOf s.params.sysmap b).strongOrder = false

/-- Bus errors wait (rule R566, log 16). -/
def State.errorsLate (s : State) : Bool := !s.aee && s.pins.deferBusError

/-- A bus error at the byte is lost, where the byte lies outside strong-order regions (rule R172, log 18). -/
def State.losesByte (s : State) (k : Access) (b : Word) : Bool :=
  k == .store && !s.aee && s.pins.loseBusError && (attrOf s.params.sysmap b).bufferable

/-- The access goes on behind the byte. -/
def State.passesByte (s : State) (k : Access) (b : Word) : Prop :=
  s.reachesByte k b ∧ (dataError s.params k b = true → s.errorsLate = true ∨ s.losesByte k b = true)

/-- The byte ends the access: it is denied, or (`bus`) its bus error is reported at the instruction. -/
def State.endsAtByte (s : State) (k : Access) (b : Word) (bus : Bool) : Prop :=
  bus = false ∧ s.pmpAllows k.perm s.dataPriv b = false ∨
    bus = true ∧ s.reachesByte k b ∧ dataError s.params k b = true ∧ s.errorsLate = false ∧ s.losesByte k b = false

/-- The byte gets a bus error that is not lost. -/
def State.errsAtByte (s : State) (k : Access) (b : Word) : Bool := dataError s.params k b && !s.losesByte k b

/-- The first of the `j` bytes from `a` on that gets a bus error which is not lost. -/
def State.firstError (s : State) (k : Access) (a : Word) (j : Nat) : Option Nat :=
  (List.range j).find? fun i => s.errsAtByte k (a + BitVec.ofNat 32 i)

/-- What waits then to be reported. -/
def State.leftErrors (s : State) (k : Access) (a : Word) (j : Nat) : List BusError :=
  (s.firstError k a j).toList.map fun i => { store := k == .store, addr := a + BitVec.ofNat 32 i }

section

variable {s : State} {k : Access} {b : Word}

theorem errorsLate_iff : s.errorsLate = true ↔ s.aee = false ∧ s.pins.deferBusError = true := by
  simp [State.errorsLate]

theorem reportsNow_eq (s : State) : s.reportsNow = !s.errorsLate := by
  simp [State.reportsNow, State.errorsLate]

theorem checkByte_denied (h : s.pmpAllows k.perm s.dataPriv b = false) : s.checkByte k b = .denied b := by
  simp [State.checkByte, State.checkPiece, h]

theorem checkByte_reaches (h : s.reachesByte k b) :
    s.checkByte k b = if dataError s.params k b then .busError b else .ok := by
  obtain ⟨hp, ht, hs⟩ := h
  simp [State.checkByte, State.checkPiece, hp, ht, hs]

/-- The first byte of a split access lies in a strong-order region (U3, log 19). -/
theorem checkByte_strong (hp : s.pmpAllows k.perm s.dataPriv b = true) (ht : inTcip b = false)
    (hs : (attrOf s.params.sysmap b).strongOrder = true) : s.checkByte k b = .refused (.misalignedDevice b) := by
  simp [State.checkByte, State.checkPiece, hp, ht, hs]

/-- A byte that passes its check is memory's and gets no bus error. -/
theorem checkByte_ok (h : s.checkByte k b = .ok) : inTcip b = false ∧ dataError s.params k b = false := by
  have hp := checkPiece_ok_allowed h
  unfold State.checkByte State.checkPiece at h
  rw [if_neg (by simp [hp])] at h
  cases ht : inTcip b with
  | true =>
    rw [ht, if_pos rfl] at h
    split at h
    · cases h
    · cases h
  | false =>
    rw [ht, if_neg (by decide)] at h
    split at h
    · cases h
    · split at h
      · cases h
      · exact ⟨rfl, eq_false_of_ne_true ‹_›⟩

theorem losesByte_eq (h : s.reachesByte k b) : s.losesByte k b = (k == .store && s.losesError b) := by
  obtain ⟨-, -, hs⟩ := h
  simp only [State.losesByte, State.losesError, hs]
  cases k == .store <;> cases s.aee <;> cases s.pins.loseBusError <;> simp

/-- The error that a byte leaves to be reported. -/
theorem unlostError_checkByte (h : s.reachesByte k b) :
    s.unlostError k (s.checkByte k b) = if s.errsAtByte k b then some b else none := by
  rw [checkByte_reaches h, State.errsAtByte, losesByte_eq h]
  cases dataError s.params k b
  · rfl
  · cases hl : k == .store && s.losesError b <;> simp [State.unlostError, hl]

/-- A bus error that ends an access is neither late nor lost. -/
theorem not_late_of_endsAtByte (h : s.endsAtByte k b true) :
    s.errorsLate = false ∧ (k == .store && s.losesError b) = false := by
  rcases h with ⟨h, -⟩ | ⟨-, reach, -, late, lost⟩
  · cases h
  · exact ⟨late, losesByte_eq reach ▸ lost⟩

theorem endsAccess_of_passesByte (h : s.passesByte k b) : s.endsAccess k (s.checkByte k b) = false := by
  obtain ⟨reach, error⟩ := h
  rw [checkByte_reaches reach]
  cases he : dataError s.params k b with
  | false => rfl
  | true =>
    have := unlostError_checkByte reach
    rw [checkByte_reaches reach, he, if_pos rfl, State.errsAtByte, he] at this
    simp only [State.endsAccess, reportsNow_eq, if_true, this]
    rcases error he with h | h <;> simp [h]

theorem endsAccess_of_endsAtByte {bus : Bool} (h : s.endsAtByte k b bus) :
    s.checkByte k b = (if bus then .busError b else .denied b) ∧ s.endsAccess k (s.checkByte k b) = true := by
  rcases h with ⟨rfl, hp⟩ | ⟨rfl, reach, he, late, lost⟩
  · rw [checkByte_denied hp]; exact ⟨rfl, rfl⟩
  · have := unlostError_checkByte reach
    rw [checkByte_reaches reach, he, if_pos rfl, State.errsAtByte, he, lost] at this
    rw [checkByte_reaches reach, he]
    refine ⟨rfl, ?_⟩
    simp [State.endsAccess, reportsNow_eq, late, this]

end

/-! ## The bytes together -/

/-- The first index that meets a condition, as a search that gives what belongs to it. -/
theorem findSome?_ite {α β : Type} (p : α → Bool) (f : α → β) (l : List α) :
    l.findSome? (fun i => if p i then some (f i) else none) = (l.find? p).map f := by
  induction l with
  | nil => rfl
  | cons i l ih => cases h : p i <;> simp [h, ih]

section

variable {s : State} {k : Access} {a : Word} {n j : Nat}

theorem checkPieces_split (hm : misaligned a n = true) :
    s.checkPieces k a n = (List.range n).map fun i => s.checkByte k (a + BitVec.ofNat 32 i) := by
  simp only [State.checkPieces, pieces, hm, if_true, List.map_map]
  refine List.map_congr_left fun i _ => ?_
  simp [State.checkPieceOf, State.checkByte, hm]

/-- The bytes before the one that ends an access, that one, and the rest. -/
theorem checkPieces_split_at (hm : misaligned a n = true) (hj : j < n) : ∃ rest, s.checkPieces k a n =
    ((List.range j).map fun i => s.checkByte k (a + BitVec.ofNat 32 i)) ++ s.checkByte k (a + BitVec.ofNat 32 j) :: rest := by
  obtain ⟨m, rfl⟩ : ∃ m, n = j + (m + 1) := ⟨n - j - 1, by omega⟩
  rw [checkPieces_split hm, List.range_add, List.range_succ_eq_map]
  simp only [List.map_append, List.map_cons, Nat.add_zero]
  exact ⟨_, rfl⟩

section

variable (hp : ∀ i, i < j → s.passesByte k (a + BitVec.ofNat 32 i))

include hp

theorem endsAccess_before :
    ∀ c ∈ (List.range j).map fun i => s.checkByte k (a + BitVec.ofNat 32 i), s.endsAccess k c = false := by
  intro c hc
  obtain ⟨i, hi, rfl⟩ := List.mem_map.mp hc
  exact endsAccess_of_passesByte (hp i (List.mem_range.mp hi))

/-- The error that bytes which do not end the access leave to be reported. -/
theorem findSome?_unlostError :
    ((List.range j).map fun i => s.checkByte k (a + BitVec.ofNat 32 i)).findSome? (s.unlostError k) =
      (s.firstError k a j).map fun i => a + BitVec.ofNat 32 i := by
  rw [List.findSome?_map, State.firstError, ← findSome?_ite, ← List.head?_filterMap, ← List.head?_filterMap]
  refine congrArg List.head? (List.filterMap_congr fun i hi => ?_)
  obtain ⟨reach, -⟩ := hp i (List.mem_range.mp hi)
  exact unlostError_checkByte reach

/-- Such an error is left only where errors wait. -/
theorem errorsLate_of_firstError {i : Nat} (h : s.firstError k a j = some i) : s.errorsLate = true := by
  have err := List.find?_some h
  obtain ⟨-, error⟩ := hp i (List.mem_range.mp (List.mem_of_find?_eq_some h))
  simp only [State.errsAtByte, Bool.and_eq_true, Bool.not_eq_true'] at err
  obtain ⟨he, hl⟩ := err
  exact (error he).resolve_right (by simp [hl])

/-- Such an error is not lost. -/
theorem not_losesError_of_firstError {i : Nat} (h : s.firstError k a j = some i) :
    (k == .store && s.losesError (a + BitVec.ofNat 32 i)) = false := by
  have err := List.find?_some h
  obtain ⟨reach, -⟩ := hp i (List.mem_range.mp (List.mem_of_find?_eq_some h))
  rw [State.errsAtByte, losesByte_eq reach, Bool.and_eq_true, Bool.not_eq_true'] at err
  obtain ⟨-, lost⟩ := err
  exact lost

/-- Where errors do not wait, none is left. -/
theorem leftErrors_nil (late : s.errorsLate = false) : s.leftErrors k a j = [] := by
  cases hf : s.firstError k a j with
  | none => rw [State.leftErrors, hf]; rfl
  | some i => rw [errorsLate_of_firstError hp hf] at late; cases late

/-- An access that a byte ends (rules R147, R160, R566). -/
theorem checkAccess_split_ends {bus : Bool} (hm : misaligned a n = true) (hj : j < n)
    (he : s.endsAtByte k (a + BitVec.ofNat 32 j) bus) :
    s.checkAccess k a n = (if bus then .busError (a + BitVec.ofNat 32 j) else .denied (a + BitVec.ofNat 32 j)) ∧
      s.earlierError k a n = (s.firstError k a j).map (fun i => a + BitVec.ofNat 32 i) ∧
      ((s.checkPieces k a n).takeWhile fun c => !s.endsAccess k c).length = j := by
  obtain ⟨rest, split⟩ := checkPieces_split_at (s := s) (k := k) hm hj
  obtain ⟨answer, ends⟩ := endsAccess_of_endsAtByte he
  have before := endsAccess_before hp
  obtain ⟨check, earlier⟩ := checkAccess_ends split before ends
  refine ⟨check.trans answer, earlier.trans (findSome?_unlostError hp), ?_⟩
  rw [split, List.takeWhile_append_of_pos fun c hc => by simp [before c hc]]
  simp [ends]

end

/-- An access that no byte ends. -/
theorem checkAccess_split_retires (hm : misaligned a n = true)
    (hp : ∀ i, i < n → s.passesByte k (a + BitVec.ofNat 32 i)) :
    (∀ i, s.firstError k a n = some i → s.checkAccess k a n = .busError (a + BitVec.ofNat 32 i)) ∧
      (s.firstError k a n = none → (∃ i, i < n ∧ dataError s.params k (a + BitVec.ofNat 32 i) = true) →
        ∃ b, s.checkAccess k a n = .busError b ∧ s.losesError b = true) ∧
      ((s.checkPieces k a n).takeWhile fun c => !s.endsAccess k c).length = n := by
  have split := checkPieces_split (s := s) (k := k) hm
  have before := endsAccess_before hp
  have error := findSome?_unlostError hp
  rw [← split] at before error
  have all : ((s.checkPieces k a n).takeWhile fun c => !s.endsAccess k c).length = n := by
    rw [List.takeWhile_eq_self_iff.mpr fun c hc => by simp [before c hc], split]
    simp
  rcases checkAccess_cases s k a n with ⟨l, c, m, e, -, hc, -⟩ | ⟨-, ⟨-, ok⟩ | ⟨b, check, -, ⟨rfl, lost, clean⟩ | ⟨-, first⟩⟩⟩
  · rw [before c (by simp [e])] at hc; cases hc
  · have answered : ∀ i, i < n → dataError s.params k (a + BitVec.ofNat 32 i) = false := fun i hi => by
      refine (checkByte_ok (ok _ ?_)).2
      rw [split]; exact List.mem_map.mpr ⟨i, List.mem_range.mpr hi, rfl⟩
    refine ⟨fun i h => ?_, fun _ ⟨i, hi, h⟩ => ?_, all⟩
    · have err := List.find?_some h
      simp [State.errsAtByte, answered i (List.mem_range.mp (List.mem_of_find?_eq_some h))] at err
    · rw [answered i hi] at h; cases h
  · rw [error] at clean
    exact ⟨fun i h => by simp [h] at clean, fun _ _ => ⟨b, check, lost⟩, all⟩
  · rw [error] at first
    refine ⟨fun i h => ?_, fun h => by simp [h] at first, all⟩
    rw [check]
    simp only [h, Option.map_some, Option.some.injEq] at first
    rw [first]

/-- The errors that are left are added to those that wait. -/
theorem queueEarlier_firstError (u : State) (hk : k = .load ∨ k = .store) :
    u.queueEarlier k ((s.firstError k a j).map fun i => a + BitVec.ofNat 32 i) =
      { u with busErrors := u.busErrors ++ s.leftErrors k a j } := by
  rw [queueEarlier_frame, State.leftErrors]
  rcases hk with rfl | rfl <;> cases s.firstError _ a j <;> rfl

end

/-! ## Loads -/

/-- The destination of a load may have any value in imprecise mode; nothing else has changed (U15, log 17). -/
def State.unstatedX (s u : State) (rd : Reg) : Prop :=
  (∃ v, s.wroteX u rd v) ∧ (s.aee = true → u = s) ∧ u = { s with x := u.x }

theorem unstatedX_refl (s : State) (rd : Reg) : s.unstatedX s rd := by
  refine ⟨⟨s.readX rd, fun r => ?_⟩, fun _ => rfl, rfl⟩
  by_cases h0 : r = 0
  · rw [if_pos h0, h0, readX_zero]
  · rw [if_neg h0]
    split
    · rw [‹r = rd›]
    · rfl

theorem unstatedX_frame {s u : State} {rd : Reg} (h : s.unstatedX u rd) : u = { s with x := u.x } := by
  obtain ⟨-, -, frame⟩ := h
  exact frame

theorem unstatedX_deliverUnstated {s : State} {rd : Reg} (h : s.aee = false) :
    s.unstatedX (s.deliverUnstated (.int rd)) rd := by
  obtain ⟨u, v, rfl, written, frame⟩ := deliverUnstated_int s rd
  exact ⟨⟨v, written⟩, fun h' => by simp [h] at h', frame⟩

section

variable {s : State} {rd : Reg} {a : Word} {n j : Nat} {ext : Dword → Dword}

/-- With MM = 1 a misaligned load or store goes on to its checks (rule R146). -/
theorem trapsMisaligned_split {k : Access} (hk : k.isAtomic = false) (hmm : s.mxstatus.mm = true) :
    ¬ s.trapsMisaligned k a n = true := by
  simp [State.trapsMisaligned, hmm, hk]

/-- A split load that a denied byte ends. -/
theorem load_split_denied (hm : misaligned a n = true) (hmm : s.mxstatus.mm = true) (hj : j < n)
    (hp : ∀ i, i < j → s.passesByte .load (a + BitVec.ofNat 32 i))
    (he : s.pmpAllows .read s.dataPriv (a + BitVec.ofNat 32 j) = false) :
    ∃ u, s.unstatedX u rd ∧ (s.leftErrors .load a j = [] → u = s) ∧
      s.load (.int rd) a n ext 4 = State.raise { u with busErrors := s.busErrors ++ s.leftErrors .load a j }
        .loadAccessFault (a + BitVec.ofNat 32 j) := by
  obtain ⟨check, earlier, -⟩ := checkAccess_split_ends (bus := false) hp hm hj (.inl ⟨rfl, he⟩)
  have run : s.load (.int rd) a n ext 4 = s.loadDenied (a + BitVec.ofNat 32 j) (.int rd) (s.earlierError .load a n) := by
    rw [State.load, if_neg (trapsMisaligned_split (k := .load) rfl hmm), check]
    rfl
  rw [run, earlier, State.loadDenied, queueEarlier_firstError _ (.inl rfl), State.leftErrors]
  cases hf : s.firstError .load a j with
  | none => exact ⟨s, unstatedX_refl s rd, fun _ => rfl, rfl⟩
  | some i =>
    obtain ⟨aee, -⟩ := errorsLate_iff.mp (errorsLate_of_firstError hp hf)
    have unstated := unstatedX_deliverUnstated (rd := rd) aee
    refine ⟨_, unstated, nofun, ?_⟩
    have frame := unstatedX_frame unstated
    have errors : (s.deliverUnstated (.int rd)).busErrors = s.busErrors := (congrArg State.busErrors frame :)
    rw [← errors]
    rfl

/-- A split load that a bus error ends. -/
theorem load_split_busError (hm : misaligned a n = true) (hmm : s.mxstatus.mm = true) (hj : j < n)
    (hp : ∀ i, i < j → s.passesByte .load (a + BitVec.ofNat 32 i))
    (he : s.endsAtByte .load (a + BitVec.ofNat 32 j) true) :
    ∃ u, s.unstatedX u rd ∧
      s.load (.int rd) a n ext 4 = State.raise { u with busErrors := s.busErrors ++ s.leftErrors .load a j }
        .loadAccessFault (a + BitVec.ofNat 32 j) true := by
  obtain ⟨check, -, -⟩ := checkAccess_split_ends hp hm hj he
  obtain ⟨late, -⟩ := not_late_of_endsAtByte he
  have unstated : s.unstatedX (if s.aee then s else s.deliverUnstated (.int rd)) rd := by
    cases h : s.aee
    · exact unstatedX_deliverUnstated h
    · exact unstatedX_refl s rd
  refine ⟨_, unstated, ?_⟩
  have frame := unstatedX_frame unstated
  have now : (if s.aee then s else s.deliverUnstated (.int rd)).reportsNow = true := by
    rw [frame]
    show s.reportsNow = true
    rw [reportsNow_eq, late]; rfl
  rw [State.load, if_neg (trapsMisaligned_split (k := .load) rfl hmm), check]
  show s.loadError .load _ (.int rd) 4 = _
  rw [State.loadError, State.busErrorAt, if_pos now, leftErrors_nil hp late, List.append_nil, frame]
  rfl

/-- A split load whose errors wait. -/
theorem load_split_retires (hm : misaligned a n = true) (hmm : s.mxstatus.mm = true)
    (hp : ∀ i, i < n → s.passesByte .load (a + BitVec.ofNat 32 i)) (hl : s.leftErrors .load a n ≠ []) :
    ∃ t u, s.unstatedX u rd ∧ s.load (.int rd) a n ext 4 = .next t ∧ s.retiredTo t (s.pc + 4) ∧
      t = { u with pc := t.pc, minstret := t.minstret, busErrors := s.busErrors ++ s.leftErrors .load a n } := by
  obtain ⟨i, hf⟩ : ∃ i, s.firstError .load a n = some i := by
    cases hf : s.firstError .load a n with
    | none => exact absurd (by rw [State.leftErrors, hf]; rfl) hl
    | some i => exact ⟨i, rfl⟩
  have check := (checkAccess_split_retires hm hp).1 i hf
  obtain ⟨aee, defer⟩ := errorsLate_iff.mp (errorsLate_of_firstError hp hf)
  have unstated := unstatedX_deliverUnstated (rd := rd) aee
  have frame := unstatedX_frame unstated
  have run : s.load (.int rd) a n ext 4 =
      .next (((s.deliverUnstated (.int rd)).queueError .load (a + BitVec.ofNat 32 i)).advance 4) := by
    rw [State.load, if_neg (trapsMisaligned_split (k := .load) rfl hmm), check]
    show s.loadError .load _ (.int rd) 4 = _
    rw [State.loadError, if_neg (by simp [aee])]
    exact busErrorAt_waits (by rw [frame]; exact aee) (by rw [frame]; exact defer)
  refine ⟨_, _, unstated, run, ?_, ?_⟩
  · rw [frame]; exact ⟨rfl, rfl⟩
  · rw [State.leftErrors, hf, frame]; rfl

end

/-! ## Stores -/

/-- A split store of `n` bytes that fails has written some of its first `j` bytes that got no bus error (U3, log 18); lines that
the data cache had kept may have become dirty as they were (log 24). -/
def State.partlyStored (s u : State) (a : Word) (n j : Nat) : Prop :=
  u = { s with mem := u.mem, stale := u.stale, dirty := u.dirty, kept := u.kept } ∧
    ∃ g, s.mayFind (touches a n) g ∧ ∀ c : Word, j ≤ (c - a).toNat ∨ dataError s.params .store c = true →
      u.mem.read c.toNat = if s.mhcr.wb = true then g c else s.mem.read c.toNat

/-- The bytes that a split store which fails has written. -/
def State.writtenBytes (s : State) (a : Word) (n : Nat) : List (Word × Nat) :=
  ((pieces a n).zipIdx.filter fun p => s.mayBeWritten a n p && pieceWritten s.freeCtr p.2).map Prod.fst

section

variable {s : State} {a : Word} {n j : Nat} {v : Dword}

/-- Each is a byte before the end of the store, and passes its check. -/
theorem mem_writtenBytes {p : Word × Nat} (hm : misaligned a n = true) (h : p ∈ s.writtenBytes a n) :
    p ∈ pieces a n ∧ ∃ i, i < s.piecesBefore a n ∧ i < n ∧ p = (a + BitVec.ofNat 32 i, 1) ∧
      s.checkByte .store (a + BitVec.ofNat 32 i) = .ok := by
  obtain ⟨⟨q, i⟩, hq, rfl⟩ := List.mem_map.mp h
  obtain ⟨hmem, hwritten⟩ := List.mem_filter.mp hq
  obtain ⟨hi, hget⟩ := List.mem_zipIdx' hmem
  simp only [State.mayBeWritten, hm, Bool.not_true, Bool.false_or, Bool.and_eq_true, beq_iff_eq, decide_eq_true_eq] at hwritten
  obtain ⟨⟨hok, hbefore⟩, -⟩ := hwritten
  have split : pieces a n = (List.range n).map fun i => (a + BitVec.ofNat 32 i, 1) := by rw [pieces, if_pos hm]
  have hn : i < n := by simpa [split] using hi
  have hp : q = (a + BitVec.ofNat 32 i, 1) := by simpa [split] using hget
  refine ⟨hget ▸ List.getElem_mem _, i, hbefore, hn, hp, ?_⟩
  rw [hp] at hok
  simpa [State.checkPieceOf, hm, State.checkByte] using hok

/-- What a split store that fails has written. -/
theorem partialStore_partlyStored (hw : s.mem.wf = true) (hm : misaligned a n = true) (hn : n = 1 ∨ n = 2 ∨ n = 4 ∨ n = 8) :
    s.partlyStored (s.partialStore a n v) a n (s.piecesBefore a n) := by
  have memory : s.partialStore a n v = (s.writtenBytes a n).foldl (State.storePiece a v) s := by
    rw [partialStore_pieces]
    refine List.foldl_ext _ _ s fun u p hp => ?_
    obtain ⟨-, i, -, -, rfl, hok⟩ := mem_writtenBytes hm hp
    rw [State.writePiece, if_neg (by simp [(checkByte_ok hok).1])]
  obtain ⟨cover, -⟩ := pieces_cover (a := a) hn
  obtain ⟨g, hg, bytes, -⟩ := storePieces_wrote hw a v (s.writtenBytes a n) fun p hp => by
    obtain ⟨fits, inside, -⟩ := cover p (mem_writtenBytes hm hp).1
    exact ⟨fits, by omega⟩
  obtain ⟨m, st, d, k, frame⟩ := storePieces_frame a v (s.writtenBytes a n) s
  rw [memory]
  refine ⟨by rw [frame], g, mayFind_mono hg fun l ⟨p, hp, hl⟩ => ?_, fun c hc => (bytes c).2 ?_⟩
  · exact (pieces_lines hn l).mp ⟨p, (mem_writtenBytes hm hp).1, hl⟩
  · rintro ⟨p, hp, hin⟩
    obtain ⟨-, i, hbefore, hi, rfl, hok⟩ := mem_writtenBytes hm hp
    obtain rfl : c = a + BitVec.ofNat 32 i := by
      dsimp only at hin
      bv_omega
    rcases hc with hc | hc
    · bv_omega
    · rw [(checkByte_ok hok).2] at hc; cases hc

theorem partlyStored_frame {u : State} (h : s.partlyStored u a n j) :
    u = { s with mem := u.mem, stale := u.stale, dirty := u.dirty, kept := u.kept } := by
  obtain ⟨frame, -⟩ := h
  exact frame

/-- A split store that a denied byte ends. -/
theorem store_split_denied (hw : s.mem.wf = true) (hn : n = 1 ∨ n = 2 ∨ n = 4 ∨ n = 8) (hm : misaligned a n = true)
    (hmm : s.mxstatus.mm = true) (hj : j < n) (hp : ∀ i, i < j → s.passesByte .store (a + BitVec.ofNat 32 i))
    (he : s.pmpAllows .write s.dataPriv (a + BitVec.ofNat 32 j) = false) :
    ∃ u, s.partlyStored u a n j ∧ s.store a n v 4 =
      State.raise { u with busErrors := s.busErrors ++ s.leftErrors .store a j } .storeAccessFault (a + BitVec.ofNat 32 j) := by
  obtain ⟨check, earlier, before⟩ := checkAccess_split_ends (bus := false) hp hm hj (.inl ⟨rfl, he⟩)
  have partly := partialStore_partlyStored (v := v) hw hm hn
  rw [State.piecesBefore, before] at partly
  have errors : (s.partialStore a n v).busErrors = s.busErrors := (congrArg State.busErrors (partlyStored_frame partly) :)
  refine ⟨_, partly, ?_⟩
  rw [State.store, if_neg (trapsMisaligned_split (k := .store) rfl hmm), check, ← errors,
    ← queueEarlier_firstError _ (.inr rfl), ← earlier]
  rfl

/-- A split store that a bus error ends. -/
theorem store_split_busError (hw : s.mem.wf = true) (hn : n = 1 ∨ n = 2 ∨ n = 4 ∨ n = 8) (hm : misaligned a n = true)
    (hmm : s.mxstatus.mm = true) (hj : j < n) (hp : ∀ i, i < j → s.passesByte .store (a + BitVec.ofNat 32 i))
    (he : s.endsAtByte .store (a + BitVec.ofNat 32 j) true) :
    ∃ u, s.partlyStored u a n j ∧ s.store a n v 4 =
      State.raise { u with busErrors := s.busErrors ++ s.leftErrors .store a j } .storeAccessFault (a + BitVec.ofNat 32 j)
        true := by
  obtain ⟨check, -, before⟩ := checkAccess_split_ends hp hm hj he
  have partly := partialStore_partlyStored (v := v) hw hm hn
  rw [State.piecesBefore, before] at partly
  have frame := partlyStored_frame partly
  obtain ⟨late, kept⟩ := not_late_of_endsAtByte he
  have kept : s.losesError (a + BitVec.ofNat 32 j) = false := kept
  refine ⟨_, partly, ?_⟩
  have now : (s.partialStore a n v).reportsNow = true := by
    rw [frame]
    show s.reportsNow = true
    rw [reportsNow_eq, late]; rfl
  rw [State.store, if_neg (trapsMisaligned_split (k := .store) rfl hmm), check]
  show s.storeError _ a n v 4 = _
  rw [State.storeError, if_neg (by simp [kept]), State.busErrorAt, if_pos now, leftErrors_nil hp late, List.append_nil, frame]
  rfl

/-- A split store whose errors are lost or wait. -/
theorem store_split_retires (hw : s.mem.wf = true) (hn : n = 1 ∨ n = 2 ∨ n = 4 ∨ n = 8) (hm : misaligned a n = true)
    (hmm : s.mxstatus.mm = true) (hp : ∀ i, i < n → s.passesByte .store (a + BitVec.ofNat 32 i))
    (he : ∃ i, i < n ∧ dataError s.params .store (a + BitVec.ofNat 32 i) = true) :
    ∃ t u, s.partlyStored u a n n ∧ s.store a n v 4 = .next t ∧ s.retiredTo t (s.pc + 4) ∧
      t = { u with
            pc := t.pc, minstret := t.minstret, hpm := (s.countEvent 13 1).hpm,
            busErrors := s.busErrors ++ s.leftErrors .store a n } := by
  obtain ⟨waits, lost, before⟩ := checkAccess_split_retires hm hp
  have partly := partialStore_partlyStored (v := v) hw hm hn
  rw [State.piecesBefore, before] at partly
  have frame := partlyStored_frame partly
  cases hf : s.firstError .store a n with
  | none =>
    obtain ⟨b, check, loses⟩ := lost hf he
    have run : s.store a n v 4 = .next (((s.partialStore a n v).countEvent 13 1).advance 4) := by
      rw [State.store, if_neg (trapsMisaligned_split (k := .store) rfl hmm), check]
      show s.storeError b a n v 4 = _
      rw [State.storeError, if_pos loses]
    refine ⟨_, _, partly, run, ?_, ?_⟩
    · rw [frame]; exact ⟨rfl, rfl⟩
    · rw [State.leftErrors, hf, frame]
      simp
      rfl
  | some i =>
    obtain ⟨aee, defer⟩ := errorsLate_iff.mp (errorsLate_of_firstError hp hf)
    have kept := not_losesError_of_firstError hp hf
    have run : s.store a n v 4 = .next ((State.countEvent
        ((s.partialStore a n v).queueError .store (a + BitVec.ofNat 32 i)) 13 1).advance 4) := by
      rw [State.store, if_neg (trapsMisaligned_split (k := .store) rfl hmm), waits i hf]
      show s.storeError _ a n v 4 = _
      rw [State.storeError, if_neg (by simpa using kept)]
      exact busErrorAt_waits (by rw [frame]; exact aee) (by rw [frame]; exact defer)
    refine ⟨_, _, partly, run, ?_, ?_⟩
    · rw [frame]; exact ⟨rfl, rfl⟩
    · rw [State.leftErrors, hf, frame]; rfl

end

/-! ## The statement -/

section

variable {s : State} {rd rs1 rs2 : Reg} {imm : BitVec 12}

/-- The loads that may be misaligned, each with its size and what it gives. -/
theorem exec_misalignedLoads {l : Instr × Nat × ((Word → Byte) → Word)} {a : Word}
    (ha : a = s.readX rs1 + BitVec.ofInt 32 imm.toInt)
    (h : l ∈ [(Instr.lh rd rs1 imm, 2, fun g : Word → Byte => BitVec.ofInt 32 (BitVec.ofNat 16 (bytesOf g a 2)).toInt),
       (.lhu rd rs1 imm, 2, fun g => BitVec.ofNat 32 (bytesOf g a 2)),
       (.lw rd rs1 imm, 4, fun g => BitVec.ofNat 32 (bytesOf g a 4))]) :
    (l.2.1 = 2 ∨ l.2.1 = 4) ∧ ∃ ext : Dword → Dword, exec l.1 s = s.load (.int rd) a l.2.1 ext 4 ∧
      ∀ g, (ext (BitVec.ofNat 64 (bytesOf g a l.2.1))).setWidth 32 = l.2.2 g := by
  subst ha
  simp only [List.mem_cons, List.not_mem_nil, or_false] at h
  rcases h with rfl | rfl | rfl
  · exact ⟨.inl rfl, _, rfl, fun g => extend_signed (by decide) _⟩
  · refine ⟨.inl rfl, _, rfl, fun g => ?_⟩
    have hb := bytesOf_lt g (s.readX rs1 + BitVec.ofInt 32 imm.toInt) 2
    rw [extend_unsigned (by decide), BitVec.toNat_ofNat, Nat.mod_eq_of_lt hb]
  · exact ⟨.inr rfl, _, rfl, fun g => extend_word _⟩

/-- The stores that may be misaligned, each with its size. -/
theorem exec_misalignedStores {l : Instr × Nat} (h : l ∈ [(Instr.sh rs2 rs1 imm, 2), (.sw rs2 rs1 imm, 4)]) :
    (l.2 = 2 ∨ l.2 = 4) ∧
      exec l.1 s = s.store (s.readX rs1 + BitVec.ofInt 32 imm.toInt) l.2 ((s.readX rs2).setWidth 64) 4 := by
  simp only [List.mem_cons, List.not_mem_nil, or_false] at h
  rcases h with rfl | rfl
  · exact ⟨.inl rfl, rfl⟩
  · exact ⟨.inr rfl, rfl⟩

end

/-- Every byte of a split access is allowed, answered and outside strong-order regions. -/
theorem checkAccess_split_ok {s : State} {k : Access} {a : Word} {n : Nat} (hm : misaligned a n = true) (hn : 0 < n)
    (h : ∀ i, i < n → s.pmpAllows k.perm s.dataPriv (a + BitVec.ofNat 32 i) = true ∧ inTcip (a + BitVec.ofNat 32 i) = false ∧
      dataError s.params k (a + BitVec.ofNat 32 i) = false ∧
      (attrOf s.params.sysmap (a + BitVec.ofNat 32 i)).strongOrder = false) :
    inTcip a = false ∧ s.checkAccess k a n = .ok := by
  constructor
  · obtain ⟨-, ht, -⟩ := h 0 hn
    rwa [show a + BitVec.ofNat 32 0 = a from BitVec.add_zero a] at ht
  refine checkAccess_ok_iff.mpr fun p hp => ?_
  rw [pieces, if_pos hm] at hp
  obtain ⟨i, hi, rfl⟩ := List.mem_map.mp hp
  obtain ⟨allowed, memory, answered, weak⟩ := h i (List.mem_range.mp hi)
  have ok := checkByte_reaches ⟨allowed, memory, weak⟩
  rw [answered] at ok
  simpa [State.checkPieceOf, hm, State.checkByte] using ok

/-- An access whose first byte lies in a strong-order region is refused. -/
theorem checkAccess_split_strong {s : State} {k : Access} {a : Word} {n : Nat} (hm : misaligned a n = true) (hn : 0 < n)
    (hp : s.pmpAllows k.perm s.dataPriv a = true) (ht : inTcip a = false)
    (hs : (attrOf s.params.sysmap a).strongOrder = true) : s.checkAccess k a n = .refused (.misalignedDevice a) := by
  obtain ⟨rest, split⟩ := checkPieces_split_at (s := s) (k := k) hm hn
  have first : s.checkByte k (a + BitVec.ofNat 32 0) = .refused (.misalignedDevice a) := by
    rw [show a + BitVec.ofNat 32 0 = a from BitVec.add_zero a, checkByte_strong hp ht hs]
  rw [first] at split
  exact (checkAccess_ends split (by simp) rfl).1

section

variable {s : State} {a : Word} {n : Nat}

/-- A split load all of whose bytes are allowed and answered. -/
theorem load_split_gaveX (hw : s.mem.wf = true) {rd : Reg} {ext : Dword → Dword} {v : (Word → Byte) → Word}
    (hm : misaligned a n = true) (hmm : s.mxstatus.mm = true) (h0 : 0 < n) (hn : n ≤ 8)
    (hv : ∀ g, (ext (BitVec.ofNat 64 (bytesOf g a n))).setWidth 32 = v g)
    (h : ∀ i, i < n → s.pmpAllows .read s.dataPriv (a + BitVec.ofNat 32 i) = true ∧ inTcip (a + BitVec.ofNat 32 i) = false ∧
      dataError s.params .load (a + BitVec.ofNat 32 i) = false ∧
      (attrOf s.params.sysmap (a + BitVec.ofNat 32 i)).strongOrder = false) :
    ∃ t g, (∀ c, ∃ h, s.mayFind (touches c 1) h ∧ g c = h c) ∧ s.load (.int rd) a n ext 4 = .next t ∧
      s.gaveX t rd (v g) 4 := by
  obtain ⟨ht, ok⟩ := checkAccess_split_ok (k := .load) hm h0 h
  obtain ⟨g, found, loaded⟩ := loadValue_found_split hw ht hm hn
  have enter : s.trapsMisaligned .load a n = false := eq_false_of_ne_true (trapsMisaligned_split rfl hmm)
  obtain ⟨t, e, gave⟩ := load_gaveX_of_checks (rd := rd) (ext := ext) (len := 4) enter ok
  rw [loaded, hv] at gave
  exact ⟨t, g, found, e, gave⟩

/-- A split store all of whose bytes are allowed and answered. -/
theorem store_split_stored (hw : s.mem.wf = true) {v : Dword} (hm : misaligned a n = true) (hmm : s.mxstatus.mm = true)
    (hn : n = 1 ∨ n = 2 ∨ n = 4 ∨ n = 8)
    (h : ∀ i, i < n → s.pmpAllows .write s.dataPriv (a + BitVec.ofNat 32 i) = true ∧ inTcip (a + BitVec.ofNat 32 i) = false ∧
      dataError s.params .store (a + BitVec.ofNat 32 i) = false ∧
      (attrOf s.params.sysmap (a + BitVec.ofNat 32 i)).strongOrder = false) :
    ∃ t, s.store a n v 4 = .next t ∧ s.stored t a n v 4 := by
  obtain ⟨ht, ok⟩ := checkAccess_split_ok (k := .store) hm (by omega) h
  exact store_stored_of_checks hw hn ht (eq_false_of_ne_true (trapsMisaligned_split rfl hmm)) ok

/-- A split load from a strong-order region. -/
theorem load_split_strong {d : Dest} {ext : Dword → Dword} (hm : misaligned a n = true) (hmm : s.mxstatus.mm = true)
    (h0 : 0 < n) (hp : s.pmpAllows .read s.dataPriv a = true) (ht : inTcip a = false)
    (hs : (attrOf s.params.sysmap a).strongOrder = true) :
    s.load d a n ext 4 = .refused (.misalignedDevice a) := by
  rw [State.load, if_neg (trapsMisaligned_split (k := .load) rfl hmm), checkAccess_split_strong (k := .load) hm h0 hp ht hs]

/-- A split store to a strong-order region. -/
theorem store_split_strong {v : Dword} (hm : misaligned a n = true) (hmm : s.mxstatus.mm = true) (h0 : 0 < n)
    (hp : s.pmpAllows .write s.dataPriv a = true) (ht : inTcip a = false)
    (hs : (attrOf s.params.sysmap a).strongOrder = true) : s.store a n v 4 = .refused (.misalignedDevice a) := by
  rw [State.store, if_neg (trapsMisaligned_split (k := .store) rfl hmm), checkAccess_split_strong (k := .store) hm h0 hp ht hs]

end

/-- Settles O44. -/
theorem misalignedAccess : Obligations.MisalignedAccess := by
  intro s rd rs1 rs2 imm hw a loads stores splits at' reaches late lost fails passes ends left unstated partly trapped
  have split : ∀ {n}, a.toNat % n ≠ 0 → misaligned a n = true := fun h => by simp [misaligned, h]
  have trap : ∀ {i : Instr} {u : State} {c : Cause} {j : Nat} {bus : Bool}, u.mexstatus = s.mexstatus →
      exec i s = u.raise c (at' j) bus → c.neverLocks = false → c.isAccessFault = true →
      trapped u i c.code j bus := fun {i u c j bus} hu run hc hf => by
    obtain ⟨t, ht, htrap, -, buserr⟩ := raise_trapped_buserr u c (at' j) bus hc
    rw [hu] at buserr
    exact ⟨t, run.trans ht, htrap, buserr hf⟩
  refine ⟨fun l hl ha hmm => ?_, fun l hl ha hmm => ?_, fun l hl ha => ?_, fun l hl ha => ?_⟩
  · obtain ⟨-, ext, run, -⟩ := exec_misalignedLoads (s := s) rfl hl
    refine ⟨fun j bus hj ⟨before, ends⟩ => ?_, fun hp hleft => ?_⟩
    · rcases ends with ⟨rfl, denied⟩ | ⟨rfl, ends⟩
      · obtain ⟨u, unstated, unchanged, e⟩ := load_split_denied (rd := rd) (ext := ext) (split ha) hmm hj before denied
        exact ⟨u, unstated, fun _ => unchanged, trap (by rw [unstatedX_frame unstated]) (run.trans e) rfl rfl⟩
      · obtain ⟨u, unstated, e⟩ := load_split_busError (rd := rd) (ext := ext) (split ha) hmm hj before (.inr ⟨rfl, ends⟩)
        exact ⟨u, unstated, nofun, trap (by rw [unstatedX_frame unstated]) (run.trans e) rfl rfl⟩
    · obtain ⟨t, u, unstated, e, rest⟩ := load_split_retires (rd := rd) (ext := ext) (split ha) hmm hp hleft
      exact ⟨t, u, unstated, run.trans e, rest⟩
  · obtain ⟨size, run⟩ := exec_misalignedStores (s := s) hl
    have hn : l.2 = 1 ∨ l.2 = 2 ∨ l.2 = 4 ∨ l.2 = 8 := by omega
    refine ⟨fun j bus hj ⟨before, ends⟩ => ?_, fun hp he => ?_⟩
    · rcases ends with ⟨rfl, denied⟩ | ⟨rfl, ends⟩
      · obtain ⟨u, partly, e⟩ := store_split_denied hw hn (split ha) hmm hj before denied
        exact ⟨u, partly, trap (by rw [partlyStored_frame partly]) (run.trans e) rfl rfl⟩
      · obtain ⟨u, partly, e⟩ := store_split_busError hw hn (split ha) hmm hj before (.inr ⟨rfl, ends⟩)
        exact ⟨u, partly, trap (by rw [partlyStored_frame partly]) (run.trans e) rfl rfl⟩
    · obtain ⟨t, u, partly, e, rest⟩ := store_split_retires hw hn (split ha) hmm hp he
      exact ⟨t, u, partly, run.trans e, rest⟩
  · obtain ⟨size, ext, run, value⟩ := exec_misalignedLoads (s := s) rfl hl
    rw [run]
    exact ⟨load_misaligned ha, fun hmm all => load_split_gaveX hw (split ha) hmm (by omega) (by omega) value all,
      fun hmm hp ht hs => load_split_strong (split ha) hmm (by omega) hp ht hs⟩
  · obtain ⟨size, run⟩ := exec_misalignedStores (s := s) hl
    rw [run]
    exact ⟨store_misaligned ha, fun hmm all => store_split_stored hw (split ha) hmm (by omega) all,
      fun hmm hp ht hs => store_split_strong (split ha) hmm (by omega) hp ht hs⟩

end Sys2Proof.Machine
end

section
/-! SUPPORT. Decoding and encoding undo each other (rules R200 to R210, R220 to R222, R482): each decoding function reads what
the encoder writes, and what it accepts is what the encoder writes. -/

namespace Sys2Proof

/-! ## Decoding what the encoder writes -/

/-- The two parts of a 6-bit immediate (rule R221). -/
theorem imm6_join (imm : BitVec 6) : imm.extractLsb' 5 1 ++ imm.extractLsb' 0 5 = imm :=
  (slice_join imm 0 5 1).trans (slice_whole imm)

/-- The high bit of a shift amount of C.SLLI is 0 (rule R505). -/
theorem shamt6_high (sh : BitVec 5) : (0b0#1 ++ sh).extractLsb' 5 1 = 0b0#1 := by
  apply BitVec.eq_of_toNat_eq
  simp only [toNat_slice_eq, toNat_append_eq, BitVec.reduceToNat]; omega

/-- The low five bits of a shift amount of C.SLLI (rule R505). -/
theorem shamt6_low (sh : BitVec 5) : (0b0#1 ++ sh).extractLsb' 0 5 = sh := by
  apply BitVec.eq_of_toNat_eq
  simp only [toNat_slice_eq, toNat_append_eq, BitVec.reduceToNat]; omega

/-- The field lemmas of Sys2Proof/Laws/Encoding.lean bring the decoder from an encoding to its own branch. The cases are grouped
by the decoding function that reads them. -/
theorem decodeCode_encode (i : Instr) (hw : i.wf = true) : decodeCode (encode i) = .ok i := by
  cases i with
  | lb | lbu | lh | lhu | lw => simp [encode, decodeCode, decodeWord, decodeLoad]
  | flw | fld => simp [encode, decodeCode, decodeWord, decodeLoadFp]
  | fence | fenceI => simp [encode, decodeCode, decodeWord, decodeMiscMem]
  | addi | slli | slti | sltiu | xori | srli | srai | ori | andi => simp [encode, decodeCode, decodeWord, decodeOpImm]
  | sb | sh | sw => simp [encode, decodeCode, decodeWord, decodeStore]
  | fsw | fsd => simp [encode, decodeCode, decodeWord, decodeStoreFp]
  | amoaddW | amoandW | amomaxW | amomaxuW | amominW | amominuW | amoorW | amoswapW | amoxorW | scW | lrW =>
    simp [encode, decodeCode, decodeWord, decodeAmo]
  | add | sub | sll | slt | sltu | xor | srl | sra | or | and | mul | mulh | mulhsu | mulhu | div | divu | rem | remu =>
    simp [encode, decodeCode, decodeWord, decodeOp]
  | lui | auipc | jal | jalr => simp [encode, decodeCode, decodeWord]
  | fmaddS | fmsubS | fnmsubS | fnmaddS | fmaddD | fmsubD | fnmsubD | fnmaddD =>
    simp [encode, decodeCode, decodeWord, decodeFused]
  | faddS | fsubS | fmulS | fdivS | fsqrtS | fsgnjS | fsgnjnS | fsgnjxS | fminS | fmaxS | feqS | fltS | fleS | fclassS
  | fcvtSW | fcvtSWu | fcvtWS | fcvtWuS | fmvWX | fmvXW
  | faddD | fsubD | fmulD | fdivD | fsqrtD | fsgnjD | fsgnjnD | fsgnjxD | fminD | fmaxD | feqD | fltD | fleD | fclassD
  | fcvtDS | fcvtDW | fcvtDWu | fcvtSD | fcvtWD | fcvtWuD =>
    simp [encode, decodeCode, decodeWord, decodeOpFp]
  | beq | bne | blt | bge | bltu | bgeu => simp [encode, decodeCode, decodeWord, decodeBranch]
  | csrrw | csrrs | csrrc | csrrwi | csrrsi | csrrci => simp [encode, decodeCode, decodeWord, decodeSystem]
  | dcacheCsw | dcacheIsw | dcacheCisw | dcacheCpa | dcacheIpa | dcacheCipa | icacheIpa =>
    simp [encode, decodeCode, decodeWord, decodeCustom0]
  | wfi | mret | ecall | ebreak | dcacheCall | dcacheIall | dcacheCiall | icacheIall | sync | syncI | cNop | cEbreak => rfl
  | cAddi4spn rd imm =>
    have nonzero : imm ≠ 0#8 := by simpa [Instr.wf] using hw
    simp [encode, decodeCode, decodeHalf, decodeQuadrant0, nonzero]
  | cLw | cSw => simp [encode, decodeCode, decodeHalf, decodeQuadrant0]
  | cAddi rd imm =>
    have noNop : ¬ (rd = 0#5 ∧ imm = 0#6) := by simpa [Instr.wf, or_iff_not_imp_left] using hw
    simp [encode, decodeCode, decodeHalf, decodeQuadrant1, noNop]
  | cAddi16sp imm =>
    have nonzero : imm ≠ 0#6 := by simpa [Instr.wf] using hw
    simp [encode, decodeCode, decodeHalf, decodeQuadrant1, nonzero]
  | cLui rd imm =>
    have operands : rd ≠ 2#5 ∧ ¬ (imm = 0#6 ∧ ¬ rd = 0#5) := by simpa [Instr.wf, or_iff_not_imp_left] using hw
    simp [encode, decodeCode, decodeHalf, decodeQuadrant1, operands]
  | cJal | cLi | cJ | cBeqz | cBnez => simp [encode, decodeCode, decodeHalf, decodeQuadrant1]
  | cSrli | cSrai | cAndi | cSub | cXor | cOr | cAnd =>
    simp [encode, decodeCode, decodeHalf, decodeQuadrant1, decodeAlu, imm6_join]
  | cSlli => simp [encode, decodeCode, decodeHalf, decodeQuadrant2, shamt6_high, shamt6_low]
  | cSwsp => simp [encode, decodeCode, decodeHalf, decodeQuadrant2]
  | cLwsp r | cJr r | cMv _ r | cJalr r | cAdd _ r =>
    have nonzero : r ≠ 0#5 := by simpa [Instr.wf] using hw
    simp [encode, decodeCode, decodeHalf, decodeQuadrant2, nonzero]

/-! ## Decoding bytes in memory (rules R141, R200) -/

/-- Only words whose bits 1:0 are 11 are accepted: all major opcodes end so (rules R200, R203). -/
theorem isLong_of_decodeWord {w : Word} {i : Instr} (h : decodeWord w = .ok i) : isLong (w.extractLsb' 0 16) = true := by
  have major : (opcode w).toNat % 4 = 3 := by
    unfold decodeWord at h
    split at h
    case h_21 => cases h
    all_goals rename_i ho; rw [ho]
  have low : cQuadrant (w.extractLsb' 0 16) = 3 := by
    apply BitVec.eq_of_toNat_eq
    simp only [opcode, cQuadrant, toNat_slice_eq, BitVec.reduceToNat] at major ⊢; omega
  simp [isLong, low]

/-- No halfword whose bits 1:0 are 11 is accepted (rule R200). -/
theorem isLong_of_decodeHalf {h : Half} {i : Instr} (hd : decodeHalf h = .ok i) : isLong h = false := by
  cases hl : isLong h with
  | false => rfl
  | true =>
    have quadrant : cQuadrant h = 3 := by simpa [isLong] using hl
    simp [decodeHalf, quadrant, undefinedHalf] at hd

/-- The two bytes of a halfword. -/
theorem half_bytes (h : Half) : h.extractLsb' 8 8 ++ h.extractLsb' 0 8 = h := (slice_join h 0 8 8).trans (slice_whole h)

/-- The four bytes of a word. -/
theorem word_bytes (w : Word) :
    w.extractLsb' 24 8 ++ w.extractLsb' 16 8 ++ w.extractLsb' 8 8 ++ w.extractLsb' 0 8 = w := by
  apply BitVec.eq_of_toNat_eq
  simp only [toNat_slice_eq, toNat_append_eq]; omega

/-- An accepted code is read from its bytes, whatever stands behind them. -/
theorem decodeBytes_of_decodeCode {c : Code} {i : Instr} (h : decodeCode c = .ok i) (rest : List Byte) :
    decodeBytes (c.bytes ++ rest) = .ok (i, rest) := by
  cases c with
  | half v =>
    have hd : decodeHalf v = .ok i := h
    simp [Code.bytes, decodeBytes, half_bytes, isLong_of_decodeHalf hd, hd, Except.map]
  | word w =>
    have hd : decodeWord w = .ok i := h
    have low : w.extractLsb' 8 8 ++ w.extractLsb' 0 8 = w.extractLsb' 0 16 := slice_join w 0 8 8
    simp [Code.bytes, decodeBytes, low, isLong_of_decodeWord hd, word_bytes, hd, Except.map]

/-- The bytes of a code's table word begin with the code's own (rule R200). -/
theorem tableWord_bytes (c : Code) : ∃ rest, (Code.word c.value).bytes = c.bytes ++ rest := by
  cases c with
  | half h =>
    refine ⟨[0, 0], ?_⟩
    have byte (s : Nat) : (h.setWidth 32).extractLsb' s 8 = h.extractLsb' s 8 := by
      apply BitVec.eq_of_toNat_eq
      simp only [toNat_slice_eq, BitVec.toNat_setWidth, Nat.mod_eq_of_lt (show h.toNat < 2 ^ 32 by omega)]
    have zero (s : Nat) (hs : 16 ≤ s) : h.extractLsb' s 8 = 0 := by
      apply BitVec.eq_of_toNat_eq
      rw [toNat_slice_eq, Nat.div_eq_of_lt (lt_of_lt_of_le h.isLt (Nat.pow_le_pow_right (by decide) hs))]
      rfl
    simp only [Code.value, Code.bytes, byte, zero 16 (by decide), zero 24 (by decide)]
    rfl
  | word w => exact ⟨[], rfl⟩

/-- An accepted code is read from its table word. -/
theorem decodeTableWord_of_decodeCode {c : Code} {i : Instr} (h : decodeCode c = .ok i) :
    decodeTableWord 32 c.value.toNat = some i := by
  obtain ⟨rest, e⟩ := tableWord_bytes c
  have whole : BitVec.ofNat 32 (c.value.toNat % 2 ^ 32) = c.value := by
    rw [Nat.mod_eq_of_lt c.value.isLt, BitVec.ofNat_toNat, BitVec.setWidth_eq]
  rw [decodeTableWord, whole, e, decodeBytes_of_decodeCode h]

/-- Settles O1: the bytes and the table word of an accepted code are read as the code is. -/
theorem decodeInvertsEncode : Obligations.DecodeInvertsEncode := fun i hw =>
  have h := decodeCode_encode i hw
  ⟨h, decodeBytes_of_decodeCode h, decodeTableWord_of_decodeCode h⟩

end Sys2Proof
end

section
/-! SUPPORT. What the decoder accepts is what the encoder writes (rules R200 to R210, R482): the format functions rebuild a word
from its fields, and every branch of the decoder answers an instruction whose fixed fields it has asked for. -/

namespace Sys2Proof

/-! ## Words from their fields (rules R201, R350, R530) -/

section

variable {w : Word}

theorem rType_of_fields {f7 : BitVec 7} {rs2 rs1 rd : Reg} {f3 : BitVec 3} {op : BitVec 7} (h7 : funct7 w = f7)
    (h2 : rs2Field w = rs2) (h1 : rs1Field w = rs1) (h3 : funct3 w = f3) (hd : rdField w = rd) (ho : opcode w = op) :
    rType f7 rs2 rs1 f3 rd op = w := by
  subst h7 h2 h1 h3 hd ho
  apply BitVec.eq_of_toNat_eq
  simp only [rType, funct7, rs2Field, rs1Field, funct3, rdField, opcode, toNat_append_eq, toNat_slice_eq]; omega

theorem iType_of_fields {imm : BitVec 12} {rs1 rd : Reg} {f3 : BitVec 3} {op : BitVec 7} (hi : iImm w = imm)
    (h1 : rs1Field w = rs1) (h3 : funct3 w = f3) (hd : rdField w = rd) (ho : opcode w = op) :
    iType imm rs1 f3 rd op = w := by
  subst hi h1 h3 hd ho
  apply BitVec.eq_of_toNat_eq
  simp only [iType, iImm, rs1Field, funct3, rdField, opcode, toNat_append_eq, toNat_slice_eq]; omega

theorem sType_of_fields {f3 : BitVec 3} {op : BitVec 7} (h3 : funct3 w = f3) (ho : opcode w = op) :
    sType (sImm w) (rs2Field w) (rs1Field w) f3 op = w := by
  rw [← h3, ← ho]
  apply BitVec.eq_of_toNat_eq
  simp only [sType, sImm, rs2Field, rs1Field, funct3, opcode, toNat_append_eq, toNat_slice_eq]; omega

theorem bType_of_fields {f3 : BitVec 3} {op : BitVec 7} (h3 : funct3 w = f3) (ho : opcode w = op) :
    bType (bImm w) (rs2Field w) (rs1Field w) f3 op = w := by
  rw [← h3, ← ho]
  apply BitVec.eq_of_getLsbD_eq
  intro k hk
  simp only [bType, bImm, rs2Field, rs1Field, funct3, opcode, BitVec.getLsbD_append, BitVec.getLsbD_extractLsb']
  interval_cases k <;> rfl

theorem uType_of_fields {op : BitVec 7} (ho : opcode w = op) : uType (uImm w) (rdField w) op = w := by
  rw [← ho]
  apply BitVec.eq_of_toNat_eq
  simp only [uType, uImm, rdField, opcode, toNat_append_eq, toNat_slice_eq]; omega

theorem jType_of_fields {op : BitVec 7} (ho : opcode w = op) : jType (jImm w) (rdField w) op = w := by
  rw [← ho]
  apply BitVec.eq_of_getLsbD_eq
  intro k hk
  simp only [jType, jImm, rdField, opcode, BitVec.getLsbD_append, BitVec.getLsbD_extractLsb']
  interval_cases k <;> rfl

theorem r4Type_of_fields {fmt : BitVec 2} {op : BitVec 7} (hf : w.extractLsb' 25 2 = fmt) (ho : opcode w = op) :
    r4Type (rs3Field w) fmt (rs2Field w) (rs1Field w) (funct3 w) (rdField w) op = w := by
  rw [← hf, ← ho]
  apply BitVec.eq_of_toNat_eq
  simp only [r4Type, rs3Field, rs2Field, rs1Field, funct3, rdField, opcode, toNat_append_eq, toNat_slice_eq]; omega

theorem amoType_of_fields {f5 : BitVec 5} {rs2 : Reg} (h5 : w.extractLsb' 27 5 = f5) (h2 : rs2Field w = rs2)
    (h3 : funct3 w = 0b010) (ho : opcode w = 0b0101111) :
    amoType f5 (w.extractLsb' 26 1) (w.extractLsb' 25 1) rs2 (rs1Field w) (rdField w) = w := by
  rw [amoType, ← h5, ← h2, ← h3, ← ho]
  apply BitVec.eq_of_toNat_eq
  simp only [rs2Field, rs1Field, funct3, rdField, opcode, toNat_append_eq, toNat_slice_eq]; omega

theorem fenceType_of_fields (h3 : funct3 w = 0b000) (ho : opcode w = 0b0001111) :
    fenceType (w.extractLsb' 28 4) (w.extractLsb' 24 4) (w.extractLsb' 20 4) (rs1Field w) (rdField w) = w := by
  rw [fenceType, ← h3, ← ho]
  apply BitVec.eq_of_toNat_eq
  simp only [rs1Field, funct3, rdField, opcode, toNat_append_eq, toNat_slice_eq]; omega

end

/-! ## Halfwords from their fields (rules R220, R221) -/

section

variable {h : Half}

theorem ciType_of_fields {f3 : BitVec 3} {imm : BitVec 6} {rd : Reg} {op : BitVec 2} (h3 : cFunct3 h = f3)
    (hi : cImm6 h = imm) (hd : cRdField h = rd) (hq : cQuadrant h = op) : ciType f3 imm rd op = h := by
  subst h3 hi hd hq
  apply BitVec.eq_of_getLsbD_eq
  intro k hk
  simp only [ciType, cImm6, cFunct3, cRdField, cQuadrant, BitVec.getLsbD_append, BitVec.getLsbD_extractLsb']
  interval_cases k <;> rfl

theorem crType_of_fields {f4 : BitVec 4} {rd rs2 : Reg} (h4 : cFunct3 h ++ cBit12 h = f4) (hd : cRdField h = rd)
    (h2 : cRs2Field h = rs2) (hq : cQuadrant h = 0b10) : crType f4 rd rs2 = h := by
  rw [crType, ← h4, ← hd, ← h2, ← hq]
  apply BitVec.eq_of_toNat_eq
  simp only [cRdField, cRs2Field, cBit12, cFunct3, cQuadrant, toNat_append_eq, toNat_slice_eq]; omega

theorem cbShiftType_of_fields {b : BitVec 1} {f2 : BitVec 2} {low : BitVec 5} (hb : cBit12 h = b)
    (h2 : h.extractLsb' 10 2 = f2) (hl : cShamt h = low) (h3 : cFunct3 h = 0b100) (hq : cQuadrant h = 0b01) :
    cbShiftType b f2 (cHighField h) low = h := by
  rw [cbShiftType, ← hb, ← h2, ← hl, ← h3, ← hq]
  apply BitVec.eq_of_toNat_eq
  simp only [cHighField, cShamt, cBit12, cFunct3, cQuadrant, toNat_append_eq, toNat_slice_eq]; omega

theorem caType_of_fields {f2 : BitVec 2} (h2 : h.extractLsb' 5 2 = f2) (h10 : h.extractLsb' 10 2 = 0b11)
    (hb : cBit12 h = 0) (h3 : cFunct3 h = 0b100) (hq : cQuadrant h = 0b01) :
    caType f2 (cHighField h) (cLowField h) = h := by
  have fixed : (0b100011 : BitVec 6) = cFunct3 h ++ cBit12 h ++ h.extractLsb' 10 2 := by
    rw [h3, hb, h10]; rfl
  rw [caType, ← h2, fixed, ← hq]
  apply BitVec.eq_of_toNat_eq
  simp only [cHighField, cLowField, cBit12, cFunct3, cQuadrant, toNat_append_eq, toNat_slice_eq]; omega

theorem ciwType_of_fields (h3 : cFunct3 h = 0b000) (hq : cQuadrant h = 0b00) :
    ciwType (cSpImm h) (cLowField h) = h := by
  rw [ciwType, ← h3, ← hq]
  apply BitVec.eq_of_getLsbD_eq
  intro k hk
  simp only [cSpImm, cLowField, cFunct3, cQuadrant, BitVec.getLsbD_append, BitVec.getLsbD_extractLsb']
  interval_cases k <;> rfl

theorem clType_of_fields {f3 : BitVec 3} (h3 : cFunct3 h = f3) (hq : cQuadrant h = 0b00) :
    clType f3 (cWordImm h) (cHighField h) (cLowField h) = h := by
  rw [clType, ← h3, ← hq]
  apply BitVec.eq_of_getLsbD_eq
  intro k hk
  simp only [cWordImm, cHighField, cLowField, cFunct3, cQuadrant, BitVec.getLsbD_append, BitVec.getLsbD_extractLsb']
  interval_cases k <;> rfl

theorem cLwspType_of_fields (h3 : cFunct3 h = 0b010) (hq : cQuadrant h = 0b10) :
    cLwspType (cLwspImm h) (cRdField h) = h := by
  rw [cLwspType, ← h3, ← hq]
  apply BitVec.eq_of_getLsbD_eq
  intro k hk
  simp only [cLwspImm, cRdField, cFunct3, cQuadrant, BitVec.getLsbD_append, BitVec.getLsbD_extractLsb']
  interval_cases k <;> rfl

theorem cSwspType_of_fields (h3 : cFunct3 h = 0b110) (hq : cQuadrant h = 0b10) :
    cSwspType (cSwspImm h) (cRs2Field h) = h := by
  rw [cSwspType, ← h3, ← hq]
  apply BitVec.eq_of_getLsbD_eq
  intro k hk
  simp only [cSwspImm, cRs2Field, cFunct3, cQuadrant, BitVec.getLsbD_append, BitVec.getLsbD_extractLsb']
  interval_cases k <;> rfl

theorem cAddi16Type_of_fields (hrd : cRdField h = 2) (h3 : cFunct3 h = 0b011) (hq : cQuadrant h = 0b01) :
    cAddi16Type (cAddi16Imm h) = h := by
  have hrd : cRdField h = 0b00010 := hrd
  rw [cAddi16Type, ← hrd, ← h3, ← hq]
  apply BitVec.eq_of_getLsbD_eq
  intro k hk
  simp only [cAddi16Imm, cRdField, cFunct3, cQuadrant, BitVec.getLsbD_append, BitVec.getLsbD_extractLsb']
  interval_cases k <;> rfl

theorem cbType_of_fields {f3 : BitVec 3} (h3 : cFunct3 h = f3) (hq : cQuadrant h = 0b01) :
    cbType f3 (cBranchImm h) (cHighField h) = h := by
  rw [cbType, ← h3, ← hq]
  apply BitVec.eq_of_getLsbD_eq
  intro k hk
  simp only [cBranchImm, cHighField, cFunct3, cQuadrant, BitVec.getLsbD_append, BitVec.getLsbD_extractLsb']
  interval_cases k <;> rfl

theorem cjType_of_fields {f3 : BitVec 3} (h3 : cFunct3 h = f3) (hq : cQuadrant h = 0b01) :
    cjType f3 (cJumpImm h) = h := by
  rw [cjType, ← h3, ← hq]
  apply BitVec.eq_of_getLsbD_eq
  intro k hk
  simp only [cJumpImm, cFunct3, cQuadrant, BitVec.getLsbD_append, BitVec.getLsbD_extractLsb']
  interval_cases k <;> rfl

end

/-! ## What the decoding functions accept -/

/-- A field from its number, by which the decoding functions match. -/
theorem field_eq {n k : Nat} {x : BitVec n} (h : x.toNat = k) : x = BitVec.ofNat n k := by
  rw [← h, BitVec.ofNat_toNat, BitVec.setWidth_eq]

/-- An instruction that is decoded from a code has that code and is well-formed. -/
def Faithful (c : Code) (d : Decoded) : Prop := ∀ i, d = .ok i → encode i = c ∧ i.wf = true

theorem Faithful.word {i : Instr} {v w : Word} (he : encode i = .word v) (h : v = w) (hw : i.wf = true) :
    Faithful (.word w) (.ok i) := by
  rintro j ⟨⟩
  exact ⟨he.trans (congrArg Code.word h), hw⟩

theorem Faithful.half {i : Instr} {v h : Half} (he : encode i = .half v) (e : v = h) (hw : i.wf = true) :
    Faithful (.half h) (.ok i) := by
  rintro j ⟨⟩
  exact ⟨he.trans (congrArg Code.half e), hw⟩

/-- What is no instruction is decoded from no code. -/
theorem Faithful.error {c : Code} (e : DecodeError) : Faithful c (.error e) := nofun

/-! ### 32-bit words (rules R203, R210) -/

section

variable {w : Word}

theorem decodeLoad_faithful (ho : opcode w = 0x03) : Faithful (.word w) (decodeLoad w) := by
  unfold decodeLoad
  split
  case h_6 => exact .error _
  all_goals
    rename_i h3
    exact .word rfl (iType_of_fields rfl rfl (field_eq h3) rfl ho) rfl

theorem decodeLoadFp_faithful (ho : opcode w = 0x07) : Faithful (.word w) (decodeLoadFp w) := by
  unfold decodeLoadFp
  split
  case h_3 => exact .error _
  all_goals
    rename_i h3
    exact .word rfl (iType_of_fields rfl rfl (field_eq h3) rfl ho) rfl

theorem decodeCustom0_faithful (ho : opcode w = 0x0B) : Faithful (.word w) (decodeCustom0 w) := by
  unfold decodeCustom0
  split
  case isFalse => exact .error _
  case isTrue fixed =>
    obtain ⟨h3, hd⟩ := fixed
    split
    case h_1 h7 =>
      split
      case isFalse => exact .error _
      case isTrue h1 =>
        split
        case h_7 => exact .error _
        all_goals
          rename_i h2
          exact .word rfl (rType_of_fields (field_eq h7) (field_eq h2) h1 h3 hd ho) rfl
    case h_2 h7 =>
      split
      case h_8 => exact .error _
      all_goals
        rename_i h2
        exact .word rfl (rType_of_fields (field_eq h7) (field_eq h2) rfl h3 hd ho) rfl
    case h_3 => exact .error _

theorem decodeMiscMem_faithful (ho : opcode w = 0x0F) : Faithful (.word w) (decodeMiscMem w) := by
  unfold decodeMiscMem
  split
  case h_1 h3 => exact .word rfl (fenceType_of_fields (field_eq h3) ho) rfl
  case h_2 h3 => exact .word rfl (iType_of_fields rfl rfl (field_eq h3) rfl ho) rfl
  case h_3 => exact .error _

theorem decodeOpImm_faithful (ho : opcode w = 0x13) : Faithful (.word w) (decodeOpImm w) := by
  have imm {i : Instr} (k : Nat) (h3 : (funct3 w).toNat = k)
      (he : encode i = .word (iType (iImm w) (rs1Field w) (BitVec.ofNat 3 k) (rdField w) 0x13)) (hw : i.wf = true) :
      Faithful (.word w) (.ok i) := .word he (iType_of_fields rfl rfl (field_eq h3) rfl ho) hw
  unfold decodeOpImm
  split
  case h_1 h3 | h_3 h3 | h_4 h3 | h_5 h3 | h_7 h3 => exact imm _ h3 rfl rfl
  case h_2 h3 =>
    split
    case isTrue h7 => exact .word rfl (rType_of_fields h7 rfl rfl (field_eq h3) rfl ho) rfl
    case isFalse => exact .error _
  case h_6 h3 =>
    split
    case h_1 h7 | h_2 h7 => exact .word rfl (rType_of_fields (field_eq h7) rfl rfl (field_eq h3) rfl ho) rfl
    case h_3 => exact .error _
  case h_8 =>
    have h3 : (funct3 w).toNat = 7 := by have := (funct3 w).isLt; grind
    exact imm 7 h3 rfl rfl

theorem decodeStore_faithful (ho : opcode w = 0x23) : Faithful (.word w) (decodeStore w) := by
  unfold decodeStore
  split
  case h_1 h3 | h_2 h3 | h_3 h3 => exact .word rfl (sType_of_fields (field_eq h3) ho) rfl
  case h_4 => exact .error _

theorem decodeStoreFp_faithful (ho : opcode w = 0x27) : Faithful (.word w) (decodeStoreFp w) := by
  unfold decodeStoreFp
  split
  case h_1 h3 | h_2 h3 => exact .word rfl (sType_of_fields (field_eq h3) ho) rfl
  case h_3 => exact .error _

theorem decodeAmo_faithful (ho : opcode w = 0x2F) : Faithful (.word w) (decodeAmo w) := by
  unfold decodeAmo
  split
  case isFalse => exact .error _
  case isTrue h3 =>
    split
    case h_3 h5 =>
      split
      case isTrue h2 => exact .word rfl (amoType_of_fields (field_eq h5) h2 h3 ho) rfl
      case isFalse => exact .error _
    case h_12 => exact .error _
    all_goals
      rename_i h5
      exact .word rfl (amoType_of_fields (field_eq h5) rfl h3 ho) rfl

theorem decodeOp_faithful (ho : opcode w = 0x33) : Faithful (.word w) (decodeOp w) := by
  have op {i : Instr} {j k : Nat} (h7 : (funct7 w).toNat = j) (h3 : (funct3 w).toNat = k)
      (he : encode i = .word (rType (BitVec.ofNat 7 j) (rs2Field w) (rs1Field w) (BitVec.ofNat 3 k) (rdField w) 0x33))
      (hw : i.wf = true) : Faithful (.word w) (.ok i) :=
    .word he (rType_of_fields (field_eq h7) rfl rfl (field_eq h3) rfl ho) hw
  unfold decodeOp
  split
  case h_1 h7 | h_2 h7 =>
    split
    case h_8 =>
      have h3 : (funct3 w).toNat = 7 := by have := (funct3 w).isLt; grind
      exact op h7 h3 rfl rfl
    all_goals
      rename_i h3
      exact op h7 h3 rfl rfl
  case h_3 h7 =>
    split
    case h_1 h3 | h_2 h3 => exact op h7 h3 rfl rfl
    case h_3 => exact .error _
  case h_4 => exact .error _

theorem decodeFused_faithful {op : BitVec 7} (ho : opcode w = op) {single double : Instr}
    (hs : encode single = .word (r4Type (rs3Field w) 0b00 (rs2Field w) (rs1Field w) (funct3 w) (rdField w) op))
    (hd : encode double = .word (r4Type (rs3Field w) 0b01 (rs2Field w) (rs1Field w) (funct3 w) (rdField w) op))
    (ws : single.wf = true) (wd : double.wf = true) : Faithful (.word w) (decodeFused single double w) := by
  unfold decodeFused
  split
  case h_1 hf => exact .word hs (r4Type_of_fields (field_eq hf) ho) ws
  case h_2 hf => exact .word hd (r4Type_of_fields (field_eq hf) ho) wd
  case h_3 => exact .error _

theorem decodeOpFp_faithful (ho : opcode w = 0x53) : Faithful (.word w) (decodeOpFp w) := by
  unfold decodeOpFp
  split
  case h_26 => exact .error _
  case h_5 h7 | h_11 h7 | h_18 h7 | h_24 h7 =>
    split
    case isTrue h2 => exact .word rfl (rType_of_fields (field_eq h7) h2 rfl rfl rfl ho) rfl
    case isFalse => exact .error _
  case h_6 h7 | h_8 h7 | h_19 h7 | h_21 h7 =>
    split
    case h_4 => exact .error _
    all_goals
      rename_i h3
      exact .word rfl (rType_of_fields (field_eq h7) rfl rfl (field_eq h3) rfl ho) rfl
  case h_7 h7 | h_20 h7 =>
    split
    case h_1 h3 | h_2 h3 => exact .word rfl (rType_of_fields (field_eq h7) rfl rfl (field_eq h3) rfl ho) rfl
    case h_3 => exact .error _
  case h_9 h7 | h_10 h7 | h_22 h7 | h_23 h7 =>
    split
    case h_1 h2 | h_2 h2 => exact .word rfl (rType_of_fields (field_eq h7) (field_eq h2) rfl rfl rfl ho) rfl
    case h_3 => exact .error _
  case h_12 h7 =>
    split
    case isFalse => exact .error _
    case isTrue h2 =>
      split
      case h_1 h3 | h_2 h3 => exact .word rfl (rType_of_fields (field_eq h7) h2 rfl (field_eq h3) rfl ho) rfl
      case h_3 => exact .error _
  case h_13 h7 | h_25 h7 =>
    split
    case isTrue h => exact .word rfl (rType_of_fields (field_eq h7) h.1 rfl h.2 rfl ho) rfl
    case isFalse => exact .error _
  all_goals
    rename_i h7
    exact .word rfl (rType_of_fields (field_eq h7) rfl rfl rfl rfl ho) rfl

theorem decodeBranch_faithful (ho : opcode w = 0x63) : Faithful (.word w) (decodeBranch w) := by
  unfold decodeBranch
  split
  case h_7 => exact .error _
  all_goals
    rename_i h3
    exact .word rfl (bType_of_fields (field_eq h3) ho) rfl

theorem decodeSystem_faithful (ho : opcode w = 0x73) : Faithful (.word w) (decodeSystem w) := by
  unfold decodeSystem
  split
  case h_8 => exact .error _
  case h_1 h3 =>
    split
    case isFalse => exact .error _
    case isTrue fixed =>
      obtain ⟨hd, h1⟩ := fixed
      split
      case h_5 => exact .error _
      all_goals
        rename_i hi
        exact .word rfl (iType_of_fields (field_eq hi) h1 (field_eq h3) hd ho) rfl
  all_goals
    rename_i h3
    exact .word rfl (iType_of_fields rfl rfl (field_eq h3) rfl ho) rfl

theorem decodeWord_faithful (w : Word) : Faithful (.word w) (decodeWord w) := by
  unfold decodeWord
  split
  case h_1 ho => exact decodeLoad_faithful (field_eq ho)
  case h_2 ho => exact decodeLoadFp_faithful (field_eq ho)
  case h_3 ho => exact decodeCustom0_faithful (field_eq ho)
  case h_4 ho => exact decodeMiscMem_faithful (field_eq ho)
  case h_5 ho => exact decodeOpImm_faithful (field_eq ho)
  case h_6 ho | h_11 ho => exact .word rfl (uType_of_fields (field_eq ho)) rfl
  case h_7 ho => exact decodeStore_faithful (field_eq ho)
  case h_8 ho => exact decodeStoreFp_faithful (field_eq ho)
  case h_9 ho => exact decodeAmo_faithful (field_eq ho)
  case h_10 ho => exact decodeOp_faithful (field_eq ho)
  case h_12 ho | h_13 ho | h_14 ho | h_15 ho => exact decodeFused_faithful (field_eq ho) rfl rfl rfl rfl
  case h_16 ho => exact decodeOpFp_faithful (field_eq ho)
  case h_17 ho => exact decodeBranch_faithful (field_eq ho)
  case h_18 ho =>
    split
    case isTrue h3 => exact .word rfl (iType_of_fields rfl rfl h3 rfl (field_eq ho)) rfl
    case isFalse => exact .error _
  case h_19 ho => exact .word rfl (jType_of_fields (field_eq ho)) rfl
  case h_20 ho => exact decodeSystem_faithful (field_eq ho)
  case h_21 => exact .error _

end

/-! ### 16-bit words (rules R223, R482) -/

section

variable {h : Half}

theorem decodeQuadrant0_faithful (hq : cQuadrant h = 0) : Faithful (.half h) (decodeQuadrant0 h) := by
  unfold decodeQuadrant0
  split
  case h_1 h3 =>
    split
    case isTrue => exact .error _
    case isFalse nonzero => exact .half rfl (ciwType_of_fields (field_eq h3) hq) (by simpa [Instr.wf] using nonzero)
  case h_2 h3 | h_4 h3 => exact .half rfl (clType_of_fields (field_eq h3) hq) rfl
  case h_3 | h_5 => exact .error _

/-- The parts of a 6-bit immediate (rule R221). -/
theorem cImm6_parts (h : Half) : (cImm6 h).extractLsb' 5 1 = cBit12 h ∧ (cImm6 h).extractLsb' 0 5 = cShamt h := by
  constructor <;> apply BitVec.eq_of_toNat_eq <;>
    simp only [cImm6, cBit12, cShamt, toNat_slice_eq, toNat_append_eq] <;> omega

theorem decodeAlu_faithful (h3 : cFunct3 h = 0b100) (hq : cQuadrant h = 0b01) : Faithful (.half h) (decodeAlu h) := by
  obtain ⟨high, low⟩ := cImm6_parts h
  unfold decodeAlu
  split
  case h_1 h2 | h_2 h2 =>
    split
    case isTrue hb => exact .half rfl (cbShiftType_of_fields hb (field_eq h2) rfl h3 hq) rfl
    case isFalse => exact .error _
  case h_3 h2 => exact .half rfl (cbShiftType_of_fields high.symm (field_eq h2) low.symm h3 hq) rfl
  case h_4 =>
    have h10 : (h.extractLsb' 10 2).toNat = 3 := by have := (h.extractLsb' 10 2).isLt; grind
    split
    case isFalse => exact .error _
    case isTrue hb =>
      split
      case h_4 =>
        have h2 : (h.extractLsb' 5 2).toNat = 3 := by have := (h.extractLsb' 5 2).isLt; grind
        exact .half rfl (caType_of_fields (field_eq h2) (field_eq h10) hb h3 hq) rfl
      all_goals
        rename_i h2
        exact .half rfl (caType_of_fields (field_eq h2) (field_eq h10) hb h3 hq) rfl

theorem decodeQuadrant1_faithful (hq : cQuadrant h = 0b01) : Faithful (.half h) (decodeQuadrant1 h) := by
  unfold decodeQuadrant1
  split
  case h_1 h3 =>
    split
    case isTrue nop => exact .half rfl (ciType_of_fields (field_eq h3) nop.2 nop.1 hq) rfl
    case isFalse noNop =>
      exact .half rfl (ciType_of_fields (field_eq h3) rfl rfl hq) (by simpa [Instr.wf, or_iff_not_imp_left] using noNop)
  case h_2 h3 | h_6 h3 => exact .half rfl (cjType_of_fields (field_eq h3) hq) rfl
  case h_3 h3 => exact .half rfl (ciType_of_fields (field_eq h3) rfl rfl hq) rfl
  case h_4 h3 =>
    split
    case isTrue hd =>
      split
      case isTrue => exact .error _
      case isFalse nonzero =>
        exact .half rfl (cAddi16Type_of_fields hd (field_eq h3) hq) (by simpa [Instr.wf] using nonzero)
    case isFalse hd =>
      split
      case isTrue => exact .error _
      case isFalse nonzero =>
        have wf : (Instr.cLui (cRdField h) (cImm6 h)).wf = true := by
          simpa [Instr.wf, or_iff_not_imp_left] using And.intro hd nonzero
        exact .half rfl (ciType_of_fields (field_eq h3) rfl rfl hq) wf
  case h_5 h3 => exact decodeAlu_faithful (field_eq h3) hq
  case h_7 h3 => exact .half rfl (cbType_of_fields (field_eq h3) hq) rfl
  case h_8 =>
    have h3 : (cFunct3 h).toNat = 7 := by have := (cFunct3 h).isLt; grind
    exact .half rfl (cbType_of_fields (field_eq h3) hq) rfl

theorem decodeQuadrant2_faithful (hq : cQuadrant h = 0b10) : Faithful (.half h) (decodeQuadrant2 h) := by
  unfold decodeQuadrant2
  split
  case h_1 h3 =>
    split
    case isFalse => exact .error _
    case isTrue hb =>
      have imm : cImm6 h = 0b0#1 ++ cShamt h := congrArg (· ++ cShamt h) hb
      exact .half rfl (ciType_of_fields (field_eq h3) imm rfl hq) rfl
  case h_2 h3 =>
    split
    case isTrue => exact .error _
    case isFalse nonzero => exact .half rfl (cLwspType_of_fields (field_eq h3) hq) (by simpa [Instr.wf] using nonzero)
  case h_3 h3 =>
    have h3 : cFunct3 h = 0b100 := field_eq h3
    split
    case isTrue hb =>
      have h4 : cFunct3 h ++ cBit12 h = 0b1000 := by rw [h3, hb]; rfl
      split
      case isTrue h2 =>
        split
        case isTrue => exact .error _
        case isFalse nonzero => exact .half rfl (crType_of_fields h4 rfl h2 hq) (by simpa [Instr.wf] using nonzero)
      case isFalse nonzero => exact .half rfl (crType_of_fields h4 rfl rfl hq) (by simpa [Instr.wf] using nonzero)
    case isFalse hb =>
      have hb : cBit12 h = 1 := by
        have lt := (cBit12 h).isLt
        have ne : (cBit12 h).toNat ≠ 0 := fun e => hb (field_eq e)
        exact field_eq (k := 1) (by omega)
      have h4 : cFunct3 h ++ cBit12 h = 0b1001 := by rw [h3, hb]; rfl
      split
      case isTrue h2 =>
        split
        case isTrue hd => exact .half rfl (crType_of_fields h4 hd h2 hq) rfl
        case isFalse nonzero => exact .half rfl (crType_of_fields h4 rfl h2 hq) (by simpa [Instr.wf] using nonzero)
      case isFalse nonzero => exact .half rfl (crType_of_fields h4 rfl rfl hq) (by simpa [Instr.wf] using nonzero)
  case h_4 h3 => exact .half rfl (cSwspType_of_fields (field_eq h3) hq) rfl
  case h_5 => exact .error _

theorem decodeHalf_faithful (h : Half) : Faithful (.half h) (decodeHalf h) := by
  unfold decodeHalf
  split
  case h_1 hq => exact decodeQuadrant0_faithful (field_eq hq)
  case h_2 hq => exact decodeQuadrant1_faithful (field_eq hq)
  case h_3 hq => exact decodeQuadrant2_faithful (field_eq hq)
  case h_4 => exact .error _

end

/-- Settles O2: every decoding function is faithful to the code. -/
theorem encodeInvertsDecode : Obligations.EncodeInvertsDecode
  | .half h => decodeHalf_faithful h
  | .word w => decodeWord_faithful w

end Sys2Proof
end

section
/-! SUPPORT. The compressed integer instructions (rules R485 to R511): the operands of their fields as numbers, and the results
of the shared operations as arithmetic. -/

namespace Sys2Proof.Machine

/-! ## Immediates as numbers (rule R221) -/

theorem imm6Value_eq (i : BitVec 6) : imm6Value i = BitVec.ofInt 32 i.toInt := rfl

theorem cAddi4spnValue_eq (i : BitVec 8) : cAddi4spnValue i = BitVec.ofNat 32 (4 * i.toNat) := by revert i; decide

theorem cAddi16spValue_eq (i : BitVec 6) : cAddi16spValue i = BitVec.ofInt 32 (16 * i.toInt) := by revert i; decide

theorem cLuiValue_eq (i : BitVec 6) : cLuiValue i = BitVec.ofInt 32 (i.toInt * 4096) := by revert i; decide

theorem cBranchOffset_eq (i : BitVec 8) : cBranchOffset i = BitVec.ofInt 32 (i.toInt * 2) := by revert i; decide

/-! ## Operations as arithmetic -/

theorem add_eq_ofNat (a b : Word) : a + b = BitVec.ofNat 32 (a.toNat + b.toNat) := by
  simp [BitVec.ofNat_add]

theorem add_ofNat (a : Word) (n : Nat) : a + BitVec.ofNat 32 n = BitVec.ofNat 32 (a.toNat + n) := by
  simp [BitVec.ofNat_add]

theorem add_ofInt (a : Word) (i : Int) : a + BitVec.ofInt 32 i = BitVec.ofInt 32 (a.toInt + i) := by
  simp [BitVec.ofInt_add]

theorem sub_eq_ofInt (a b : Word) : a - b = BitVec.ofInt 32 (a.toInt - b.toInt) := by
  simp [Int.sub_eq_add_neg, BitVec.ofInt_add, BitVec.ofInt_neg, BitVec.sub_eq_add_neg]

theorem and_eq_ofNat (a b : Word) : a &&& b = BitVec.ofNat 32 (a.toNat &&& b.toNat) := by
  simp [← BitVec.toNat_and]

theorem or_eq_ofNat (a b : Word) : a ||| b = BitVec.ofNat 32 (a.toNat ||| b.toNat) := by
  simp [← BitVec.toNat_or]

theorem xor_eq_ofNat (a b : Word) : a ^^^ b = BitVec.ofNat 32 (a.toNat ^^^ b.toNat) := by
  simp [← BitVec.toNat_xor]

theorem shiftLeft_eq_ofNat (v : Word) (n : BitVec 5) : shiftLeft v n = BitVec.ofNat 32 (v.toNat * 2 ^ n.toNat) := by
  apply BitVec.eq_of_toNat_eq
  simp [shiftLeft, Nat.shiftLeft_eq]

theorem shiftRight_eq_ofNat (v : Word) (n : BitVec 5) : shiftRight v n = BitVec.ofNat 32 (v.toNat / 2 ^ n.toNat) := by
  apply BitVec.eq_of_toNat_eq
  have lt : v.toNat / 2 ^ n.toNat < 2 ^ 32 := lt_of_le_of_lt (Nat.div_le_self _ _) v.isLt
  rw [shiftRight, BitVec.toNat_ushiftRight, Nat.shiftRight_eq_div_pow, BitVec.toNat_ofNat, Nat.mod_eq_of_lt lt]

theorem shiftArith_eq_ofInt (v : Word) (n : BitVec 5) : shiftArith v n = BitVec.ofInt 32 (v.toInt / 2 ^ n.toNat) := by
  simp [shiftArith, BitVec.sshiftRight, Int.shiftRight_eq_div_pow]

/-! ## What the instructions leave -/

/-- A conditional branch: it goes to its target or on, and counts; no register and no byte of memory changes (rule R61). -/
theorem branch_goes (s : State) {taken : Bool} {p : Prop} (hp : taken = true ↔ p) (off len : Word) :
    ∃ t, s.branch taken off len = .next t ∧ (p → s.retiredTo t (s.pc + off)) ∧ (¬ p → s.retiredTo t (s.pc + len)) ∧
      (∀ r, t.readX r = s.readX r) ∧ s.sameMemory t ∧ t.hpm = (s.countEvent 9 1).hpm ∧
      t = { s with pc := t.pc, minstret := t.minstret, hpm := t.hpm } := by
  have retires (target : Word) : s.retiredTo ((s.countEvent 9 1).goto target) target := ⟨rfl, rfl⟩
  refine ⟨_, branch_eq _ _ _ _, fun h => ?_, fun h => ?_, fun r => rfl, fun a => rfl, rfl, rfl⟩
  · rw [if_pos (hp.mpr h)]; exact retires _
  · rw [if_neg (mt hp.mp h)]; exact retires _

/-- Settles O40: each instruction writes one register, or branches, with a value that is the rule's number. -/
theorem compressedResults : Obligations.CompressedResults := by
  intro s rd rs2 d d2 imm sh wide
  rw [← wideReg_eq d, ← wideReg_eq d2]
  intro D a b gives goes
  have writes {i : Instr} {r : Reg} {v w : Word} (run : exec i s = s.writeRd r w 2) (value : w = v) : gives i r v := by
    obtain ⟨t, ht, gave⟩ := writeRd_gaveX s r w 2
    exact ⟨t, run.trans ht, value ▸ gave⟩
  have branches {i : Instr} {taken : Bool} {p : Prop} (run : exec i s = s.branch taken (cBranchOffset wide) 2)
      (hp : taken = true ↔ p) : goes i p := by
    obtain ⟨t, ht, rest⟩ := branch_goes s hp (cBranchOffset wide) 2
    rw [cBranchOffset_eq] at rest
    exact ⟨t, run.trans ht, rest⟩
  exact ⟨
    writes (i := .cAdd rd rs2) rfl (add_eq_ofNat _ _),
    writes (i := .cAddi rd imm) rfl (add_ofInt _ _),
    writes (i := .cAddi4spn d wide) rfl (by rw [cAddi4spnValue_eq, add_ofNat]; rfl),
    writes (i := .cAddi16sp imm) rfl (by rw [cAddi16spValue_eq, add_ofInt]; rfl),
    writes (i := .cAnd d d2) rfl (and_eq_ofNat _ _),
    writes (i := .cAndi d imm) rfl rfl,
    writes (i := .cOr d d2) rfl (or_eq_ofNat _ _),
    writes (i := .cXor d d2) rfl (xor_eq_ofNat _ _),
    writes (i := .cSub d d2) rfl (sub_eq_ofInt _ _),
    writes (i := .cLi rd imm) rfl rfl,
    writes (i := .cLui rd imm) rfl (cLuiValue_eq imm),
    writes (i := .cMv rd rs2) rfl rfl,
    writes (i := .cSlli rd sh) rfl (shiftLeft_eq_ofNat _ _),
    writes (i := .cSrli d sh) rfl (shiftRight_eq_ofNat _ _),
    writes (i := .cSrai d sh) rfl (shiftArith_eq_ofInt _ _),
    writes (i := .cNop) (r := 0) (w := 0) rfl rfl,
    branches (i := .cBeqz d wide) rfl beq_iff_eq,
    branches (i := .cBnez d wide) rfl bne_iff_ne⟩

end Sys2Proof.Machine
end

section
/-! SUPPORT. A compressed instruction and its 32-bit expansion (rules R224, R480): their operands are the same values, and what
their length decides is the pc of an instruction that goes on, and a link. -/

namespace Sys2Proof.Machine

open Sys2Proof.Config

/-! ## Operands of the expansions (rules R221, R480) -/

theorem imm12Value_signExtend (i : BitVec 6) : imm12Value (i.signExtend 12) = imm6Value i := by revert i; decide

theorem imm12Value_cAddi4spn (i : BitVec 8) : imm12Value (BitVec.ofNat 12 (4 * i.toNat)) = cAddi4spnValue i := by
  revert i; decide

theorem imm12Value_cAddi16sp (i : BitVec 6) : imm12Value (BitVec.ofInt 12 (16 * i.toInt)) = cAddi16spValue i := by
  revert i; decide

theorem imm20Value_signExtend (i : BitVec 6) : imm20Value (i.signExtend 20) = cLuiValue i := by revert i; decide

theorem imm12Value_cWord (i : BitVec 5) : imm12Value (BitVec.ofNat 12 (4 * i.toNat)) = BitVec.ofNat 32 (4 * i.toNat) := by
  revert i; decide

theorem imm12Value_cSp (i : BitVec 6) : imm12Value (BitVec.ofNat 12 (4 * i.toNat)) = BitVec.ofNat 32 (4 * i.toNat) := by
  revert i; decide

theorem branchOffset_signExtend (i : BitVec 8) : branchOffset (i.signExtend 12) = cBranchOffset i := by revert i; decide

theorem jumpOffset_signExtend (i : BitVec 11) : jumpOffset (i.signExtend 20) = cJumpOffset i := by
  apply BitVec.eq_of_getLsbD_eq
  intro k hk
  simp only [jumpOffset, cJumpOffset, BitVec.getLsbD_signExtend, BitVec.getLsbD_append, BitVec.msb_append,
    BitVec.msb_signExtend]
  grind

/-- The expansion of C.JR and C.JALR adds no offset. -/
theorem add_imm12Value_zero (v : Word) : v + imm12Value 0 = v := BitVec.add_zero v

/-! ## Retiring with either length -/

/-- What retires and goes on keeps everything but the pc whatever its length. -/
theorem advance_two {s v : State} (h : v.pc = s.pc) :
    (v.advance 4).pc = s.pc + 4 ∧ v.advance 2 = { v.advance 4 with pc := s.pc + 2 } := by
  simp [State.advance, State.goto, h]

/-- Writing a register once more. -/
theorem setX_goto_setX (s : State) (r : Reg) (v w target : Word) :
    ((s.setX r v).goto target).setX r w = (s.setX r w).goto target := by
  by_cases hr : r = 0
  · subst hr; rfl
  · have set (u : State) (y : Word) : u.setX r y = { u with x := u.x.set r.toNat y (reg_lt r) } := if_neg hr
    simp [State.goto, set, State.retired, State.counting, State.gated]

/-! ## Accesses (rules R146, R160, R566) -/

/-- The access of a load or store raises an exception: it is misaligned and may not be, denied, or its bus error is reported at
the instruction and not lost. -/
def State.accessTraps (s : State) (k : Access) (a : Word) (n : Nat) : Prop :=
  s.trapsMisaligned k a n = true ∨ (∃ b, s.checkAccess k a n = .denied b) ∨
    ∃ b, s.checkAccess k a n = .busError b ∧ s.reportsNow = true ∧ (k = .store → s.losesError b = false)

/-- The length of an instruction decides nothing about its access: it traps in one state or is refused whatever the length, or
retires with the same effect. -/
structure State.EndsAlike (s : State) (k : Access) (a : Word) (n : Nat) (run : Word → Result) : Prop where
  traps : s.accessTraps k a n → ∃ t, ∀ len, run len = .next t
  refused : ∀ r, ¬ s.trapsMisaligned k a n = true → s.checkAccess k a n = .refused r → ∀ len, run len = .refused r
  retires : ¬ s.accessTraps k a n → (∀ r, s.checkAccess k a n ≠ .refused r) →
    ∃ v : State, v.pc = s.pc ∧ ∀ len, run len = .next (v.advance len)

section

variable {s : State} {k : Access} {a : Word} {n : Nat} {run : Word → Result}

/-- An access that traps whatever the length. -/
theorem State.EndsAlike.of_traps (h : s.accessTraps k a n)
    (hr : s.trapsMisaligned k a n = true ∨ ∀ r, s.checkAccess k a n ≠ .refused r) {t : State}
    (e : ∀ len, run len = .next t) : s.EndsAlike k a n run :=
  ⟨fun _ => ⟨t, e⟩, fun r hm hc => absurd hc (hr.resolve_left hm r), fun not => absurd h not⟩

/-- An access that retires, or loses its error, or leaves it to be reported. -/
theorem State.EndsAlike.of_retires (h : ¬ s.accessTraps k a n) (hr : ∀ r, s.checkAccess k a n ≠ .refused r) {v : State}
    (pc : v.pc = s.pc) (e : ∀ len, run len = .next (v.advance len)) : s.EndsAlike k a n run :=
  ⟨fun traps => absurd traps h, fun r _ hc => absurd hc (hr r), fun _ _ => ⟨v, pc, e⟩⟩

/-- An access that is refused. -/
theorem State.EndsAlike.of_refused (h : ¬ s.accessTraps k a n) {r : Refusal} (hc : s.checkAccess k a n = .refused r)
    (e : ∀ len, run len = .refused r) : s.EndsAlike k a n run := by
  refine ⟨fun traps => absurd traps h, fun q _ hq => ?_, fun _ none => absurd hc (none r)⟩
  rw [hc] at hq
  cases hq
  exact e

end

/-- A bus error that is reported at once. -/
theorem busErrorAt_now {s : State} (h : s.reportsNow = true) (k : Access) (a : Word) (done : State → State) (len : Word) :
    s.busErrorAt k a done len = s.raise k.faultCause a true := if_pos h

/-- A bus error that waits. -/
theorem busErrorAt_late {s : State} (h : s.reportsNow = false) (k : Access) (a : Word) (done : State → State) (len : Word) :
    s.busErrorAt k a done len = .next ((done (s.queueError k a)).advance len) := if_neg (by simp [h])

/-- The state in which the bus error of a load is handled. -/
theorem unstated_reportsNow (s : State) (d : Dest) : ∃ u : State, (if s.aee then s else s.deliverUnstated d) = u ∧
    u.reportsNow = s.reportsNow ∧ u.pc = s.pc := by
  obtain ⟨x, f, m, e⟩ := deliverUnstated_frame s d
  split
  · exact ⟨s, rfl, rfl, rfl⟩
  · exact ⟨_, e, rfl, rfl⟩

/-- Loads (rules R290, R566). -/
theorem load_endsAlike (s : State) (d : Dest) (a : Word) (n : Nat) (ext : Dword → Dword) :
    s.EndsAlike .load a n (s.load d a n ext) := by
  by_cases hm : s.trapsMisaligned .load a n = true
  · exact .of_traps (.inl hm) (.inl hm) fun len => if_pos hm
  cases hc : s.checkAccess .load a n with
  | ok =>
    obtain ⟨x, f, m, e⟩ := deliver_frame s d (ext (s.loadValue a n))
    refine .of_retires (by simp [State.accessTraps, hm, hc]) (by simp [hc]) (congrArg State.pc e :) fun len => ?_
    rw [State.load, if_neg hm, hc]
  | denied b =>
    have run (len : Word) : s.load d a n ext len = s.loadDenied b d (s.earlierError .load a n) := by
      rw [State.load, if_neg hm, hc]
    exact .of_traps (.inr (.inl ⟨b, hc⟩)) (.inr (by simp [hc])) run
  | busError b =>
    obtain ⟨u, hu, now, pc⟩ := unstated_reportsNow s d
    have run (len : Word) : s.load d a n ext len = u.busErrorAt .load b id len := by
      rw [State.load, if_neg hm, hc, ← hu]; rfl
    cases hn : s.reportsNow with
    | true =>
      exact .of_traps (.inr (.inr ⟨b, hc, hn, nofun⟩)) (.inr (by simp [hc]))
        fun len => (run len).trans (busErrorAt_now (now.trans hn) ..)
    | false =>
      refine .of_retires (by simp [State.accessTraps, hm, hc, hn]) (by simp [hc]) (v := u.queueError .load b) pc fun len => ?_
      rw [run, busErrorAt_late (now.trans hn)]
      rfl
  | refused r =>
    refine .of_refused (by simp [State.accessTraps, hm, hc]) hc fun len => ?_
    rw [State.load, if_neg hm, hc]

/-- Stores, which may also lose their error (rules R172, R566). -/
theorem store_endsAlike (s : State) (a : Word) (n : Nat) (v : Dword) : s.EndsAlike .store a n (s.store a n v) := by
  by_cases hm : s.trapsMisaligned .store a n = true
  · exact .of_traps (.inl hm) (.inl hm) fun len => if_pos hm
  cases hc : s.checkAccess .store a n with
  | ok =>
    have pc : (s.storeValue a n v).pc = s.pc := (congrArg State.pc (storeValue_frame s a n v) :)
    refine .of_retires (by simp [State.accessTraps, hm, hc]) (by simp [hc]) (v := (s.storeValue a n v).countEvent 13 1) pc
      fun len => ?_
    rw [State.store, if_neg hm, hc]
  | denied b =>
    have run (len : Word) : s.store a n v len =
        ((s.partialStore a n v).queueEarlier .store (s.earlierError .store a n)).raise .storeAccessFault b := by
      rw [State.store, if_neg hm, hc]
    exact .of_traps (.inr (.inl ⟨b, hc⟩)) (.inr (by simp [hc])) run
  | busError b =>
    obtain ⟨_, _, _, _, _, _, e⟩ := partialStore_frame s a n v
    have pc : (s.partialStore a n v).pc = s.pc := by rw [e]
    have now : (s.partialStore a n v).reportsNow = s.reportsNow := by rw [e]; rfl
    have run (len : Word) : s.store a n v len = s.storeError b a n v len := by rw [State.store, if_neg hm, hc]
    cases hl : s.losesError b with
    | true =>
      refine .of_retires (by simp [State.accessTraps, hm, hc, hl]) (by simp [hc])
        (v := (s.partialStore a n v).countEvent 13 1) pc fun len => ?_
      rw [run, State.storeError, if_pos hl]
    | false =>
      have waits (len : Word) : s.storeError b a n v len =
          (s.partialStore a n v).busErrorAt .store b (fun t => t.countEvent 13 1) len := if_neg (by simp [hl])
      cases hn : s.reportsNow with
      | true =>
        exact .of_traps (.inr (.inr ⟨b, hc, hn, fun _ => hl⟩)) (.inr (by simp [hc]))
          fun len => ((run len).trans (waits len)).trans (busErrorAt_now (now.trans hn) ..)
      | false =>
        refine .of_retires (by simp [State.accessTraps, hm, hc, hn]) (by simp [hc])
          (v := ((s.partialStore a n v).queueError .store b).countEvent 13 1) pc fun len => ?_
        rw [run, waits, busErrorAt_late (now.trans hn)]
  | refused r =>
    refine .of_refused (by simp [State.accessTraps, hm, hc]) hc fun len => ?_
    rw [State.store, if_neg hm, hc]

/-- Settles O41: the operands are the same values, so that a shared operation runs with length 2 and with length 4. -/
theorem compressedEqualsExpansion : Obligations.CompressedEqualsExpansion := by
  intro s rd rs1 rs2 d d2 imm sh wide near
  rw [← wideReg_eq d, ← wideReg_eq d2]
  intro D D2 imm12 both sequential same linked access branch
  have goesOn {c e : Instr} {v : State} (pc : v.pc = s.pc) (hc : exec c s = .next (v.advance 2))
      (he : exec e s = .next (v.advance 4)) : sequential c e := by
    obtain ⟨four, two⟩ := advance_two pc
    exact ⟨_, _, hc, he, four, two⟩
  have writes {c e : Instr} {r : Reg} {v w : Word} (hc : exec c s = s.writeRd r v 2) (he : exec e s = s.writeRd r w 4)
      (value : v = w) : sequential c e := by
    subst value
    exact goesOn (setX_pc s r v) hc he
  have accesses {c e : Instr} {k : Access} {a : Word} {run : Word → Result} (alike : s.EndsAlike k a 4 run)
      (hc : exec c s = run 2) (he : exec e s = run 4) : access c e k a := by
    refine ⟨fun traps => ?_, fun r aligned hr => ?_, fun passes answered => ?_⟩
    · obtain ⟨t, ht⟩ := alike.traps traps
      exact ⟨t, t, hc.trans (ht 2), he.trans (ht 4), rfl⟩
    · have refused := alike.refused r aligned hr
      exact ⟨hc.trans (refused 2), he.trans (refused 4)⟩
    · obtain ⟨v, pc, hv⟩ := alike.retires passes answered
      exact goesOn pc (hc.trans (hv 2)) (he.trans (hv 4))
  have branches {c e : Instr} {taken : Bool} {p : Prop} (hc : exec c s = s.branch taken (cBranchOffset wide) 2)
      (he : exec e s = s.branch taken (branchOffset (wide.signExtend 12)) 4) (hp : taken = true ↔ p) : branch c e p := by
    rw [branchOffset_signExtend, branch_eq] at he
    rw [branch_eq] at hc
    refine ⟨fun h => ⟨_, _, hc, he, ?_⟩, fun h => ⟨_, _, hc, he, ?_, ?_⟩⟩
    · rw [if_pos (hp.mpr h), if_pos (hp.mpr h)]
    · rw [if_neg (mt hp.mp h)]; rfl
    · rw [if_neg (mt hp.mp h), if_neg (mt hp.mp h)]; rfl
  have links {c e : Instr} {target : Word} (hc : exec c s = s.link ra target 2) (he : exec e s = s.link ra target 4) :
      linked c e := by
    refine ⟨_, _, hc, he, ?_, (setX_goto_setX s ra _ _ target).symm⟩
    rw [readX_goto, readX_setX]; rfl
  have word : s.readX D2 + cWordOffset sh = s.readX D2 + BitVec.ofNat 32 (4 * sh.toNat) := by rw [cWordOffset_eq]
  have stack : s.readX sp + cSpOffset imm = s.readX 2 + BitVec.ofNat 32 (4 * imm.toNat) := cSpAddress_eq s imm
  have word' : s.address D2 (BitVec.ofNat 12 (4 * sh.toNat)) = s.readX D2 + BitVec.ofNat 32 (4 * sh.toNat) := by
    rw [State.address, imm12Value_cWord]
  have stack' : s.address 2 (BitVec.ofNat 12 (4 * imm.toNat)) = s.readX 2 + BitVec.ofNat 32 (4 * imm.toNat) := by
    rw [State.address, imm12Value_cSp]
  exact ⟨
    writes (c := .cAdd rd rs2) (r := rd) rfl rfl rfl,
    writes (c := .cMv rd rs2) (r := rd) rfl rfl (BitVec.zero_add _).symm,
    writes (c := .cNop) (r := 0) (v := 0) rfl rfl rfl,
    writes (c := .cAddi rd imm) (r := rd) rfl rfl (by rw [imm12Value_signExtend]),
    writes (c := .cLi rd imm) (r := rd) rfl rfl (by rw [imm12Value_signExtend]; exact (BitVec.zero_add _).symm),
    writes (c := .cAddi4spn d wide) (r := D) rfl rfl (by rw [imm12Value_cAddi4spn]; rfl),
    writes (c := .cAddi16sp imm) (r := 2) rfl rfl (by rw [imm12Value_cAddi16sp]; rfl),
    writes (c := .cLui rd imm) (r := rd) rfl rfl (imm20Value_signExtend imm).symm,
    writes (c := .cAndi d imm) (r := D) rfl rfl (by rw [imm12Value_signExtend]),
    writes (c := .cSlli rd sh) (r := rd) rfl rfl rfl,
    writes (c := .cSrli d sh) (r := D) rfl rfl rfl,
    writes (c := .cSrai d sh) (r := D) rfl rfl rfl,
    writes (c := .cAnd d d2) (r := D) rfl rfl rfl,
    writes (c := .cOr d d2) (r := D) rfl rfl rfl,
    writes (c := .cXor d d2) (r := D) rfl rfl rfl,
    writes (c := .cSub d d2) (r := D) rfl rfl rfl,
    accesses (c := .cLw d d2 sh) (load_endsAlike s (.int D) _ 4 (extend false 32)) (word ▸ rfl) (word' ▸ rfl),
    accesses (c := .cSw d d2 sh) (store_endsAlike s _ 4 ((s.readX D).setWidth 64)) (word ▸ rfl) (word' ▸ rfl),
    accesses (c := .cLwsp rd imm) (load_endsAlike s (.int rd) _ 4 (extend false 32)) (stack ▸ rfl) (stack' ▸ rfl),
    accesses (c := .cSwsp rs2 imm) (store_endsAlike s _ 4 ((s.readX rs2).setWidth 64)) (stack ▸ rfl) (stack' ▸ rfl),
    branches (c := .cBeqz d wide) (taken := s.readX D == 0) rfl rfl beq_iff_eq,
    branches (c := .cBnez d wide) (taken := s.readX D != 0) rfl rfl bne_iff_ne,
    ⟨_, _, rfl, rfl, by rw [jumpOffset_signExtend]; rfl⟩,
    ⟨_, _, rfl, rfl, by rw [add_imm12Value_zero]; rfl⟩,
    ⟨_, _, rfl, rfl, rfl⟩,
    links (c := .cJal near) (target := s.pc + cJumpOffset near) rfl (by rw [← jumpOffset_signExtend]; rfl),
    links (c := .cJalr rs1) (target := evenTarget (s.readX rs1)) rfl
      (congrArg (fun v => s.link ra (evenTarget v) 4) (add_imm12Value_zero _))⟩

end Sys2Proof.Machine
end

section
/-! SUPPORT. The instructions of RV32I that compute, branch and jump (rules R261 to R289, R494 to R497): the values and targets
of the model as the numbers of the rules, and what a result and a link leave. -/

namespace Sys2Proof.Machine

/-! ## Values as numbers -/

/-- SLT as a comparison of integers (rule R276). -/
theorem lessSigned_eq (v w : Word) : lessSigned v w = if v.toInt < w.toInt then 1 else 0 := by
  simp [lessSigned, BitVec.slt]

/-- SLTU as a comparison of natural numbers (rule R277). -/
theorem lessUnsigned_eq (v w : Word) : lessUnsigned v w = if v.toNat < w.toNat then 1 else 0 := by
  simp [lessUnsigned, BitVec.ult]

/-- A shift amount in a register is its low five bits (rule R270). -/
theorem shiftAmount_toNat (v : Word) : (v.setWidth 5).toNat = v.toNat % 32 := BitVec.toNat_setWidth 5 v

/-- Sign extension keeps the integer. -/
theorem imm12Value_toInt (i : BitVec 12) : (imm12Value i).toInt = i.toInt := BitVec.toInt_signExtend_of_le (by decide)

/-- An upper immediate is its field times 4096 (rules R280, R281). -/
theorem imm20Value_eq (i : BitVec 20) : imm20Value i = BitVec.ofNat 32 (i.toNat * 4096) := by
  apply BitVec.eq_of_toNat_eq
  rw [imm20Value, BitVec.toNat_append, Nat.shiftLeft_eq, BitVec.toNat_ofNat, Nat.mod_eq_of_lt (by omega)]
  exact Nat.or_zero _

/-- A field scaled by 2 is twice its integer. -/
theorem scaled_eq {n : Nat} (i : BitVec n) : (i ++ (0 : BitVec 1)).signExtend 32 = BitVec.ofInt 32 (i.toInt * 2) := by
  rw [BitVec.signExtend, show (0 : BitVec 1) = 0#1 from rfl, BitVec.toInt_append_zero, mul_comm, pow_one]

/-- Clearing bit 0 rounds down to an even number (rule R289). -/
theorem evenTarget_eq (v : Word) : evenTarget v = BitVec.ofNat 32 (v.toNat / 2 * 2) := by
  have clears : evenTarget v = v >>> 1 <<< 1 := by rw [BitVec.shiftLeft_ushiftRight]; rfl
  rw [clears]
  apply BitVec.eq_of_toNat_eq
  simp [Nat.shiftRight_eq_div_pow, Nat.shiftLeft_eq]

/-! ## Register results -/

/-- An instruction that writes `rd` gives the value of its rule. -/
theorem exec_gaveX {s : State} {i : Instr} {rd : Reg} {v w len : Word} (run : exec i s = s.writeRd rd w len) (value : w = v) :
    ∃ t, exec i s = .next t ∧ s.gaveX t rd v len := by
  obtain ⟨t, ht, gave⟩ := writeRd_gaveX s rd w len
  exact ⟨t, run.trans ht, value ▸ gave⟩

/-- Settles O34. -/
theorem integerRegisterResults : Obligations.IntegerRegisterResults := by
  intro s rd rs1 rs2 a b word gives
  rw [← shiftAmount_toNat b]
  exact ⟨
    ⟨rfl, exec_gaveX rfl (add_eq_ofNat a b)⟩,
    ⟨rfl, exec_gaveX rfl (sub_eq_ofInt a b)⟩,
    ⟨rfl, exec_gaveX rfl (and_eq_ofNat a b)⟩,
    ⟨rfl, exec_gaveX rfl (or_eq_ofNat a b)⟩,
    ⟨rfl, exec_gaveX rfl (xor_eq_ofNat a b)⟩,
    ⟨rfl, exec_gaveX rfl (shiftLeft_eq_ofNat a _)⟩,
    ⟨rfl, exec_gaveX rfl (shiftRight_eq_ofNat a _)⟩,
    ⟨rfl, exec_gaveX rfl (shiftArith_eq_ofInt a _)⟩,
    ⟨rfl, exec_gaveX rfl (lessSigned_eq a b)⟩,
    ⟨rfl, exec_gaveX rfl (lessUnsigned_eq a b)⟩⟩

/-- Settles O35. -/
theorem integerImmediateResults : Obligations.IntegerImmediateResults := by
  intro s rd rs1 imm sh up a b gives
  have slti : lessSigned a (imm12Value imm) = if a.toInt < imm.toInt then 1 else 0 := by
    rw [lessSigned_eq, imm12Value_toInt]
  have auipc : s.pc + imm20Value up = BitVec.ofNat 32 (s.pc.toNat + up.toNat * 4096) := by
    rw [imm20Value_eq, add_ofNat]
  exact ⟨
    exec_gaveX rfl (add_ofInt a imm.toInt),
    exec_gaveX rfl (and_eq_ofNat a b),
    exec_gaveX rfl (or_eq_ofNat a b),
    exec_gaveX rfl (xor_eq_ofNat a b),
    exec_gaveX rfl slti,
    exec_gaveX rfl (lessUnsigned_eq a b),
    exec_gaveX rfl (shiftLeft_eq_ofNat a sh),
    exec_gaveX rfl (shiftRight_eq_ofNat a sh),
    exec_gaveX rfl (shiftArith_eq_ofInt a sh),
    exec_gaveX rfl (imm20Value_eq up),
    exec_gaveX rfl auipc⟩

/-! ## Branches and jumps -/

/-- Settles O38: each branch is `State.branch` with a test that says what its rule says. -/
theorem branchResults : Obligations.BranchResults := by
  intro s rs1 rs2 imm a b word goes
  have branches {i : Instr} {c : Code} {taken : Bool} {p : Prop} (code : encode i = c)
      (run : exec i s = s.branch taken (branchOffset imm) 4) (test : taken = true ↔ p) : goes i c p := by
    obtain ⟨t, ht, rest⟩ := branch_goes s test (branchOffset imm) 4
    rw [branchOffset, scaled_eq] at rest
    exact ⟨code, t, run.trans ht, rest⟩
  have signed : (!a.slt b) = true ↔ b.toInt ≤ a.toInt := by simp [BitVec.slt]
  have unsigned : (!a.ult b) = true ↔ b.toNat ≤ a.toNat := by simp [BitVec.ult]
  exact ⟨
    branches (i := .beq rs1 rs2 imm) rfl rfl beq_iff_eq,
    branches (i := .bne rs1 rs2 imm) rfl rfl bne_iff_ne,
    branches (i := .blt rs1 rs2 imm) rfl rfl decide_eq_true_iff,
    branches (i := .bge rs1 rs2 imm) rfl rfl signed,
    branches (i := .bltu rs1 rs2 imm) rfl rfl decide_eq_true_iff,
    branches (i := .bgeu rs1 rs2 imm) rfl rfl unsigned⟩

/-- A jump: the link and the target, and nothing else. -/
theorem link_jumps (s : State) (rd : Reg) (target len : Word) :
    ∃ t, s.link rd target len = .next t ∧ s.wroteX t rd (s.pc + len) ∧ s.retiredTo t target ∧ s.sameMemory t ∧
      t = { s with x := t.x, pc := t.pc, minstret := t.minstret } := by
  obtain ⟨x, hx⟩ := setX_frame s rd (s.pc + len)
  have reads (r : Reg) := readX_setX s rd r (s.pc + len)
  rw [link_eq]
  rw [hx] at reads ⊢
  exact ⟨_, rfl, reads, ⟨rfl, rfl⟩, fun _ => rfl, rfl⟩

/-- Settles O39. -/
theorem jumpResults : Obligations.JumpResults := by
  intro s rd rs1 imm far near jumps
  have links {i : Instr} {link : Reg} {len target v : Word} (run : exec i s = s.link link v len) (ht : v = target) :
      jumps i link len target := by
    obtain ⟨t, next, rest⟩ := link_jumps s link v len
    exact ⟨t, run.trans next, ht ▸ rest⟩
  exact ⟨
    links rfl (congrArg (s.pc + ·) (scaled_eq far)),
    links rfl (evenTarget_eq _),
    links rfl (congrArg (s.pc + ·) (scaled_eq near)),
    links rfl (congrArg (s.pc + ·) (scaled_eq near)),
    links rfl (evenTarget_eq _),
    links rfl (evenTarget_eq _)⟩

end Sys2Proof.Machine
end

section
/-! SUPPORT. The CSR reads, the traps of ECALL, EBREAK and of privileged and T-Head instructions, MRET, and words of the spec
(rules R299 to R311, R531, R580, R603). -/

namespace Sys2Proof.Machine

/-! ## Decoding -/

/-- Settles O3: each word is the encoding of its instruction, and decoding inverts encoding. -/
theorem decodesSpecWords : Obligations.DecodesSpecWords := by
  have long {w : Word} {i : Instr} (he : encode i = .word w) (hw : i.wf = true) : decodeWord w = .ok i := by
    have := decodeCode_encode i hw
    rwa [he] at this
  have short {h : Half} {i : Instr} (he : encode i = .half h) (hw : i.wf = true) : decodeHalf h = .ok i := by
    have := decodeCode_encode i hw
    rwa [he] at this
  exact ⟨long rfl rfl, long rfl rfl, long rfl rfl, long rfl rfl, long rfl rfl, long rfl rfl, long rfl rfl, long rfl rfl,
    long rfl rfl, long rfl rfl, long rfl rfl, long rfl rfl, short rfl rfl, short rfl rfl⟩

/-! ## Reading control and status registers (rule R299) -/

theorem isPlain_of_ne {c : Csr} (hn : c ≠ .mnxti) (hs : c ≠ .mscratchcsw) (hl : c ≠ .mscratchcswl) : c.isPlain = true := by
  unfold Csr.isPlain
  split
  · contradiction
  · contradiction
  · contradiction
  · rfl

/-- Settles O27. -/
theorem csrPureReads : Obligations.CsrPureReads := by
  intro s rd a c ha allowed hn hs hl i hi
  rw [csrReads_exec hi ha (isPlain_of_ne hn hs hl) allowed]
  exact csrDone_read s c rd _

/-! ## ECALL and EBREAK (rules R310, R311, R493, R590) -/

/-- An exception that never locks the core up changes, beside what `State.inHandler` names, EXPT_VLD alone. -/
theorem raise_neverLocks (s : State) {c : Cause} (hc : c.neverLocks = true) (info : Word) (b : Bool) :
    ∃ t, s.raise c info b = .next t ∧ s.inHandler t c.code s.pc info ∧ t.lockedUp = s.lockedUp ∧
      t.mexstatus = { s.mexstatus with exptVld := true } ∧ t.fcsr = s.fcsr := by
  have noAccess : c.isAccessFault = false := by
    unfold Cause.isAccessFault
    split
    · cases hc
    · cases hc
    · rfl
  refine ⟨_, raise_eq _ _ _ _, ?_⟩
  rcases takeException_cases s.countTrap c s.pc info b with ⟨_, locks, _⟩ | ⟨_, e⟩
  · simp [hc] at locks
  · rw [e, noAccess]
    exact ⟨⟨rfl, rfl, rfl, rfl, rfl, rfl, handler_eq s, countTrap_minstret s, rfl⟩, rfl, rfl, rfl⟩

/-- Settles O15. -/
theorem ecallEbreak : Obligations.EcallEbreak := by
  refine ⟨rfl, rfl, rfl, fun s => ⟨?_, raise_neverLocks s (c := .breakpoint) rfl 0 false,
    raise_neverLocks s (c := .breakpoint) rfl 0 false⟩⟩
  show ∃ t, s.raise (if s.priv = .user then .ecallFromU else .ecallFromM) 0 = .next t ∧ _
  split
  · exact raise_neverLocks s (c := .ecallFromU) rfl 0 false
  · exact raise_neverLocks s (c := .ecallFromM) rfl 0 false

/-! ## Where instructions are illegal (rules R307, R531, R720) -/

/-- The eleven cache instructions (rule R530). -/
def cacheInstrs (rs1 : Reg) : List Instr :=
  [.dcacheCall, .dcacheIall, .dcacheCiall, .icacheIall, .dcacheCsw rs1, .dcacheIsw rs1, .dcacheCisw rs1,
    .dcacheCpa rs1, .dcacheIpa rs1, .dcacheCipa rs1, .icacheIpa rs1]

/-- Each cache instruction is a `State.cacheOp`. -/
theorem exec_cacheInstrs {rs1 : Reg} {i : Instr} (h : i ∈ cacheInstrs rs1) (s : State) :
    ∃ op, exec i s = s.cacheOp i op := by
  simp only [cacheInstrs, List.mem_cons, List.not_mem_nil, or_false] at h
  rcases h with rfl | rfl | rfl | rfl | rfl | rfl | rfl | rfl | rfl | rfl | rfl <;>
    exact ⟨fun t => _, rfl⟩

/-- A cache instruction is illegal in user mode, and without THEADISAE. -/
theorem cacheInstrs_illegal {s : State} (h : s.mxstatus.thead = false ∨ s.priv = .user) {rs1 : Reg} {i : Instr}
    (hi : i ∈ cacheInstrs rs1) : exec i s = s.illegal i := by
  obtain ⟨op, e⟩ := exec_cacheInstrs hi s
  have off : (s.mxstatus.thead && s.priv == .machine) = false := by rcases h with h | h <;> simp [h]
  rw [e, State.cacheOp, off, if_neg Bool.false_ne_true]

theorem execMret_user {s : State} (h : s.priv = .user) : execMret s = s.illegal .mret := by simp [execMret, h]

theorem execWfi_user {s : State} (h : s.priv = .user) : execWfi s = s.illegal .wfi := by simp [execWfi, h]

theorem syncOp_illegal {s t : State} {i : Instr} (h : s.mxstatus.thead = false) : s.syncOp i t = s.illegal i := by
  simp [State.syncOp, h]

/-- Settles O17. -/
theorem machineOnlyIllegal : Obligations.MachineOnlyIllegal := by
  intro s rs1 cache
  have traps {i : Instr} (h : exec i s = s.illegal i) : ∃ t, exec i s = .next t ∧ s.trapped t 2 (encode i).value := by
    rw [h]; exact illegal_trapped s i
  refine ⟨rfl, rfl, fun hu => ?_, fun ht => ?_⟩
  · exact List.forall_mem_cons.mpr ⟨traps (execMret_user hu), List.forall_mem_cons.mpr ⟨traps (execWfi_user hu),
      fun i hi => traps (cacheInstrs_illegal (.inr hu) hi)⟩⟩
  · exact List.forall_mem_cons.mpr ⟨traps (syncOp_illegal ht), List.forall_mem_cons.mpr ⟨traps (syncOp_illegal ht),
      fun i hi => traps (cacheInstrs_illegal (.inl ht) hi)⟩⟩

/-! ## MRET (rules R307, R580, R603) -/

/-- When MRET returns from an NMI. -/
theorem returnsFromNmi_iff {s : State} : s.returnsFromNmi = true ↔
    s.mexstatus.nmi = true ∧ s.mcause.interrupt = false ∧ s.mcause.code = 24 := by
  simp [State.returnsFromNmi, and_assoc]

/-- MRET in machine mode, outside the return from an NMI. -/
theorem execMret_trapReturn {s : State} (hm : s.priv = .machine) (hn : s.returnsFromNmi = false) :
    execMret s = .next { s.trapReturn with minstret := s.retired } := by simp [execMret, hm, hn]

/-- MRET in machine mode that returns from an NMI. -/
theorem execMret_nmiReturn {s : State} (hm : s.priv = .machine) (hn : s.returnsFromNmi = true) :
    execMret s = .next { s.nmiReturn with minstret := s.retired } := by simp [execMret, hm, hn]

/-- With no handler running, every exception enters its handler (rules R570, R590). -/
theorem raise_enters {s : State} (hv : s.mexstatus.exptVld = false) (hn : s.mexstatus.nmi = false) (c : Cause) (info : Word)
    (b : Bool) : ∃ t, s.raise c info b = .next t ∧ s.inHandler t c.code s.pc info := by
  cases hc : c.neverLocks with
  | true => exact raise_inHandler s c info b hc
  | false =>
    obtain ⟨t, ht, trap⟩ := raise_trapped s c info b hc
    rw [State.trapped, if_neg (by simp [hv, hn])] at trap
    exact ⟨t, ht, trap⟩

/-- MRET undoes the entry of an exception handler outside an NMI (rule R581). -/
theorem execMret_inHandler {s t : State} {code : BitVec 12} {epc info : Word} (hn : s.mexstatus.nmi = false)
    (h : s.inHandler t code epc info) :
    ∃ v, execMret t = .next v ∧ v.pc = epc ∧ v.priv = s.priv ∧ v.mstatus.mie = s.mstatus.mie ∧ v.mil = s.mil ∧
      v.mexstatus.exptVld = false ∧ v.x = s.x ∧ v.f = s.f ∧ v.mem = s.mem ∧ v.mcause.code = code ∧ v.mtval = info := by
  obtain ⟨hepc, hinfo, hcause, hstatus, hpriv, hex, -, -, frame⟩ := h
  have hint : t.mcause.interrupt = false := by rw [hcause]
  have noNmi : t.returnsFromNmi = false := by
    rw [State.returnsFromNmi, hex, hn]; rfl
  refine ⟨_, execMret_trapReturn hpriv noNmi, hepc, ?_, ?_, ?_, ?_, (congrArg State.x frame :), (congrArg State.f frame :),
    (congrArg State.mem frame :), ?_, hinfo⟩
  · exact (congrArg Mstatus.mpp hstatus :)
  · exact (congrArg Mstatus.mpie hstatus :)
  · simpa [State.trapReturn, hint] using congrArg State.mil frame
  · simp [State.trapReturn, hint]
  · exact (congrArg Mcause.code hcause :)

/-- Settles O16. -/
theorem mretReturns : Obligations.MretReturns := by
  refine ⟨fun s hm hn => ?_, fun s hm hnmi hint hcode => ?_, fun s c info b hv hn => ?_⟩
  · refine ⟨_, execMret_trapReturn hm (Bool.eq_false_iff.mpr (mt returnsFromNmi_iff.mp hn)), ?_⟩
    cases hi : s.mcause.interrupt <;> simp [State.trapReturn, State.retired, hi]
  · exact ⟨_, execMret_nmiReturn hm (returnsFromNmi_iff.mpr ⟨hnmi, hint, hcode⟩), rfl⟩
  · obtain ⟨t, ht, entered⟩ := raise_enters hv hn c info b
    obtain ⟨v, returned, rest⟩ := execMret_inHandler hn entered
    exact ⟨t, v, ht, returned, rest⟩

end Sys2Proof.Machine
end

section
/-! SUPPORT. RV32M (rules R330 to R337): products as words of the exact product, and quotients and remainders as numbers in the
three cases of the rules, a divisor of zero, the signed overflow and everything else. -/

namespace Sys2Proof.Machine

/-! ## Products as numbers -/

/-- The low word of a product is the same for signed and unsigned operands (rule R330). -/
theorem mul_eq_ofInt (a b : Word) : a * b = BitVec.ofInt 32 (a.toInt * b.toInt) := by
  rw [BitVec.ofInt_mul, BitVec.ofInt_toInt, BitVec.ofInt_toInt]

/-- The high word of a doubleword is its integer divided by 2^32, rounded down. -/
theorem highWord_ofInt (k : Int) : (BitVec.ofInt 64 k).extractLsb' 32 32 = BitVec.ofInt 32 (k / 2 ^ 32) := by
  apply BitVec.eq_of_toNat_eq
  rw [BitVec.extractLsb'_toNat, BitVec.toNat_ofInt, BitVec.toNat_ofInt, Nat.shiftRight_eq_div_pow]
  omega

/-- Operands extended to doublewords, each with its own signedness, give the high word of the exact product. -/
theorem mulHigh_ofInt (m n : Int) :
    mulHigh (BitVec.ofInt 64 m) (BitVec.ofInt 64 n) = BitVec.ofInt 32 (m * n / 2 ^ 32) := by
  rw [mulHigh, ← BitVec.ofInt_mul, highWord_ofInt]

/-- Sign extension as an integer. -/
theorem signExtend_eq_ofInt (v : Word) : v.signExtend 64 = BitVec.ofInt 64 v.toInt := rfl

/-- Zero extension as an integer. -/
theorem setWidth_eq_ofInt (v : Word) : v.setWidth 64 = BitVec.ofInt 64 v.toNat := by
  rw [BitVec.ofInt_natCast, BitVec.ofNat_toNat]

/-- MULH (rule R331). -/
theorem mulHigh_signed (a b : Word) :
    mulHigh (a.signExtend 64) (b.signExtend 64) = BitVec.ofInt 32 (a.toInt * b.toInt / 2 ^ 32) := by
  rw [signExtend_eq_ofInt, signExtend_eq_ofInt, mulHigh_ofInt]

/-- MULHSU (rule R332). -/
theorem mulHigh_mixed (a b : Word) :
    mulHigh (a.signExtend 64) (b.setWidth 64) = BitVec.ofInt 32 (a.toInt * b.toNat / 2 ^ 32) := by
  rw [signExtend_eq_ofInt, setWidth_eq_ofInt, mulHigh_ofInt]

/-- MULHU (rule R333). -/
theorem mulHigh_unsigned (a b : Word) :
    mulHigh (a.setWidth 64) (b.setWidth 64) = BitVec.ofNat 32 (a.toNat * b.toNat / 2 ^ 32) := by
  rw [setWidth_eq_ofInt, setWidth_eq_ofInt, mulHigh_ofInt, ← BitVec.ofInt_natCast]
  push_cast; rfl

/-- Settles O36. -/
theorem multiplyResults : Obligations.MultiplyResults := by
  intro s rd rs1 rs2 a b word gives
  exact ⟨
    ⟨rfl, exec_gaveX rfl (mul_eq_ofInt a b)⟩,
    ⟨rfl, exec_gaveX rfl (mulHigh_signed a b)⟩,
    ⟨rfl, exec_gaveX rfl (mulHigh_mixed a b)⟩,
    ⟨rfl, exec_gaveX rfl (mulHigh_unsigned a b)⟩⟩

/-! ## Quotients and remainders as numbers -/

/-- DIV by zero gives all ones (rule R334). -/
theorem divSigned_zero (a : Word) : divSigned a 0 = 0xFFFFFFFF := rfl

/-- DIVU by zero gives all ones (rule R335). -/
theorem divUnsigned_zero (a : Word) : divUnsigned a 0 = 0xFFFFFFFF := rfl

/-- REM by zero gives the dividend (rule R336). -/
theorem remSigned_zero (a : Word) : remSigned a 0 = a := rfl

/-- REMU by zero gives the dividend (rule R337). -/
theorem remUnsigned_zero (a : Word) : remUnsigned a 0 = a := rfl

/-- DIV on overflow gives the dividend (rule R334). -/
theorem divSigned_overflow : divSigned 0x80000000 0xFFFFFFFF = 0x80000000 := rfl

/-- REM on overflow gives 0 (rule R336). -/
theorem remSigned_overflow : remSigned 0x80000000 0xFFFFFFFF = 0 := rfl

section
variable {a b : Word}

/-- DIVU gives the quotient rounded down. -/
theorem divUnsigned_toNat (hb : b ≠ 0) : (divUnsigned a b).toNat = a.toNat / b.toNat := by
  rw [divUnsigned, if_neg hb, ← BitVec.udiv_def, BitVec.toNat_udiv]

/-- REMU gives the remainder of that quotient. -/
theorem remUnsigned_toNat (hb : b ≠ 0) : (remUnsigned a b).toNat = a.toNat % b.toNat := by
  rw [remUnsigned, if_neg hb, ← BitVec.umod_def, BitVec.toNat_umod]

/-- Outside the overflow, DIV gives the quotient rounded toward zero: it fits in a word. -/
theorem divSigned_toInt (hb : b ≠ 0) (ho : ¬ (a = 0x80000000 ∧ b = 0xFFFFFFFF)) :
    (divSigned a b).toInt = a.toInt.tdiv b.toInt := by
  have fits := BitVec.toInt_sdiv_of_ne_or_ne a b (not_and_or.mp ho)
  rw [divSigned, if_neg hb, if_neg ho, ← fits, BitVec.ofInt_toInt]

/-- Outside the overflow, REM gives the remainder of that quotient. -/
theorem remSigned_toInt (hb : b ≠ 0) (ho : ¬ (a = 0x80000000 ∧ b = 0xFFFFFFFF)) :
    (remSigned a b).toInt = a.toInt.tmod b.toInt := by
  rw [remSigned, if_neg hb, if_neg ho, ← BitVec.toInt_srem, BitVec.ofInt_toInt]

end

/-- The remainder of division toward zero has the sign of the dividend, where it is not 0. -/
theorem tmod_mul_self_nonneg (m n : Int) : 0 ≤ m.tmod n * m := by
  rw [← Int.sign_nonneg_iff, Int.sign_mul, Int.sign_tmod]
  split
  · simp
  · exact mul_self_nonneg m.sign

/-- The unsigned division identity (rules R335, R337). -/
theorem unsignedDivision {a b : Word} (hb : b ≠ 0) :
    (divUnsigned a b).toNat * b.toNat + (remUnsigned a b).toNat = a.toNat ∧ (remUnsigned a b).toNat < b.toNat := by
  rw [divUnsigned_toNat hb, remUnsigned_toNat hb]
  exact ⟨Nat.div_add_mod' _ _, Nat.mod_lt _ (Nat.pos_of_ne_zero (BitVec.toNat_ne.mp hb))⟩

/-- The signed division identity with truncation toward zero (rules R334, R336). -/
theorem signedDivision {a b : Word} (hb : b ≠ 0) (ho : ¬ (a = 0x80000000 ∧ b = 0xFFFFFFFF)) :
    (divSigned a b).toInt * b.toInt + (remSigned a b).toInt = a.toInt ∧
      (remSigned a b).toInt.natAbs < b.toInt.natAbs ∧ 0 ≤ (remSigned a b).toInt * a.toInt := by
  have nonzero : b.toInt ≠ 0 := fun h => hb (BitVec.eq_of_toInt_eq h)
  rw [divSigned_toInt hb ho, remSigned_toInt hb ho]
  refine ⟨Int.tdiv_mul_add_tmod _ _, ?_, tmod_mul_self_nonneg _ _⟩
  rw [Int.natAbs_tmod]
  exact Nat.mod_lt _ (Int.natAbs_pos.mpr nonzero)

/-- Settles O37. -/
theorem divideResults : Obligations.DivideResults := by
  intro s rd rs1 rs2 a b gives
  refine ⟨divSigned a b, remSigned a b, divUnsigned a b, remUnsigned a b,
    exec_gaveX rfl rfl, exec_gaveX rfl rfl, exec_gaveX rfl rfl, exec_gaveX rfl rfl,
    fun hb => ?_, unsignedDivision, fun ha hb => ?_, signedDivision⟩
  · rw [hb]; exact ⟨divSigned_zero a, remSigned_zero a, divUnsigned_zero a, remUnsigned_zero a⟩
  · rw [ha, hb]; exact ⟨divSigned_overflow, remSigned_overflow⟩

end Sys2Proof.Machine
end

section
/-! SUPPORT. The AMOs (rules R351 to R359, R362 to R364): the store of an AMO goes where its load came from, so that the line it
finds is the one that was read. -/

namespace Sys2Proof.Machine

/-! ## The bytes that a store finds are those that a load of the same address reads (rules R180, R181; log 24) -/

section

variable {s : State} {a : Word}

/-- In write-back mode a store works on the memory that a load of its address reads. -/
theorem reviveKept_mem (hwb : s.mhcr.wb = true) (a : Word) : (s.reviveKept a).mem = s.view a := by
  cases hk : s.keptHit a <;> simp [State.reviveKept, State.view, hwb, hk]

/-- The bytes that an access of one transfer to an address finds. -/
def State.foundAt (s : State) (a : Word) : Word → Byte := fun c => (s.view a).read c.toNat

theorem mayFind_foundAt (hw : s.mem.wf = true) (a : Word) {n : Nat} (hn : 0 < n) : s.mayFind (touches a n) (s.foundAt a) :=
  mayFind_view hw a hn

theorem loadValue_foundAt (ha : inTcip a = false) (hm : misaligned a 4 = false) :
    (s.loadValue a 4).setWidth 32 = BitVec.ofNat 32 (bytesOf (s.foundAt a) a 4) := by
  rw [loadValue_memory s ha hm (by decide), readLE_bytesOf _ _ _ (by decide), BitVec.setWidth_ofNat_of_le (by decide)]
  rfl

/-- What a store says it found may be replaced by the bytes that it left around its own. -/
theorem wroteBytes_found {t : State} {g k : Word → Byte} {n : Nat} {v : Dword} (h : s.wroteBytes t g a n v)
    (hk : s.mhcr.wb = true → ∀ c : Word, ¬ (c - a).toNat < n → t.mem.read c.toNat = k c) : s.wroteBytes t k a n v := by
  obtain ⟨bytes, rest⟩ := h
  refine ⟨fun c => ?_, rest⟩
  by_cases hc : (c - a).toNat < n
  · rw [bytes c, if_pos hc, if_pos hc]
  · cases hwb : s.mhcr.wb with
    | true => rw [hk hwb c hc, if_neg hc, if_pos rfl]
    | false => rw [bytes c, hwb]; rfl

/-- An aligned store finds what an aligned load reads. -/
theorem storeValue_wrote_foundAt (hw : s.mem.wf = true) (ha : inTcip a = false) {n : Nat} (hm : misaligned a n = false)
    (hn : n = 1 ∨ n = 2 ∨ n = 4) (v : Dword) : s.wroteBytes (s.storeValue a n v) (s.foundAt a) a n v := by
  obtain ⟨g, -, written⟩ := storeValue_wrote hw ha (n := n) (by omega) v
  refine wroteBytes_found written fun hwb c hc => ?_
  rw [storeValue_memory s ha hm (by omega), storeBytes_mem, Memory.read_writeLE (reviveKept_wf hw a) _ _ _ (by omega),
    if_neg hc, reviveKept_mem hwb, State.foundAt]

/-! ## What an AMO leaves -/

/-- An AMO that has retired: `rd` holds the old word and memory what `w` makes of it, where `g` are the bytes that its access
found (rule R353); whether it counts as a store is free (log 12). -/
def State.amoGave (s t : State) (g : Word → Byte) (rd : Reg) (a : Word) (w : Word → Word) : Prop :=
  (s.wroteX t rd (BitVec.ofNat 32 (bytesOf g a 4)) ∧
    s.wroteBytes t g a 4 ((w (BitVec.ofNat 32 (bytesOf g a 4))).setWidth 64)) ∧
  s.retiredTo t (s.pc + 4) ∧ (t.hpm = s.hpm ∨ t.hpm = (s.countEvent 13 1).hpm) ∧
  t = { s with
        x := t.x, mem := t.mem, stale := t.stale, dirty := t.dirty, kept := t.kept, hpm := t.hpm, pc := t.pc,
        minstret := t.minstret }

variable {rd : Reg} {src : Word} {op : Word → Word → Word}

/-- An AMO whose access succeeds. -/
theorem amo_plain (hw : s.mem.wf = true) (h : s.plainAccess .amo a 4) :
    ∃ t g, s.mayFind (touches a 4) g ∧ s.amo rd a src op = .next t ∧ s.amoGave t g rd a fun old => op old src := by
  obtain ⟨hm, -, hok⟩ := plainAccess_checks h (by decide)
  obtain ⟨-, ha, -⟩ := h
  have old := loadValue_foundAt (s := s) ha hm
  have written := storeValue_wrote_foundAt hw ha hm (by decide)
    ((op (BitVec.ofNat 32 (bytesOf (s.foundAt a) a 4)) src).setWidth 64)
  obtain ⟨m, st, d, k, stored⟩ := storePieces_frame a _ (pieces a 4) s
  rw [← storeValue_pieces s ha] at stored
  rw [stored] at written
  obtain ⟨t, run, result, retired, counted, frame⟩ :=
    setX_countAtomic_advance { s with mem := m, stale := st, dirty := d, kept := k } rd
      (BitVec.ofNat 32 (bytesOf (s.foundAt a) a 4))
  refine ⟨t, s.foundAt a, mayFind_foundAt hw a (by decide), ?_, ⟨result, ?_⟩, retired, counted, ?_⟩
  · rw [State.amo, if_neg (by simp [hm]), hok]
    simp only [old]
    rw [← run, ← stored]
  · exact wroteBytes_congr written (by rw [frame]) (by rw [frame]) (by rw [frame])
  · rw [frame]

/-- A misaligned AMO (rule R352). -/
theorem amo_misaligned (h : a.toNat % 4 ≠ 0) : ∃ t, s.amo rd a src op = .next t ∧ s.trapped t 6 a := by
  rw [State.amo, if_pos (by simp [misaligned, h])]
  exact raise_trapped s .storeAddrMisaligned a false rfl

/-- An instruction that is an AMO whose operation has the value `w` of the old word. -/
theorem exec_amo {i : Instr} {w : Word → Word} (hw : s.mem.wf = true) (run : exec i s = s.amo rd a src op)
    (hop : ∀ old, op old src = w old) :
    (s.plainAccess .amo a 4 → ∃ t g, s.mayFind (touches a 4) g ∧ exec i s = .next t ∧ s.amoGave t g rd a w) ∧
      (a.toNat % 4 ≠ 0 → ∃ t, exec i s = .next t ∧ s.trapped t 6 a) := by
  obtain rfl : (fun old => op old src) = w := funext hop
  rw [run]
  exact ⟨amo_plain hw, amo_misaligned⟩

end

/-! ## Larger and smaller words (rules R356 to R359) -/

theorem maxSigned_eq_ofInt (v w : Word) : (if v.slt w then w else v) = BitVec.ofInt 32 (max v.toInt w.toInt) := by
  by_cases h : v.toInt < w.toInt
  · rw [if_pos (BitVec.slt_iff_toInt_lt.mpr h), max_eq_right h.le, BitVec.ofInt_toInt]
  · rw [if_neg (mt BitVec.slt_iff_toInt_lt.mp h), max_eq_left (not_lt.mp h), BitVec.ofInt_toInt]

theorem minSigned_eq_ofInt (v w : Word) : (if w.slt v then w else v) = BitVec.ofInt 32 (min v.toInt w.toInt) := by
  by_cases h : w.toInt < v.toInt
  · rw [if_pos (BitVec.slt_iff_toInt_lt.mpr h), min_eq_right h.le, BitVec.ofInt_toInt]
  · rw [if_neg (mt BitVec.slt_iff_toInt_lt.mp h), min_eq_left (not_lt.mp h), BitVec.ofInt_toInt]

theorem maxUnsigned_eq_ofNat (v w : Word) : (if v.ult w then w else v) = BitVec.ofNat 32 (max v.toNat w.toNat) := by
  by_cases h : v.toNat < w.toNat
  · rw [if_pos (BitVec.ult_iff_lt.mpr h), max_eq_right h.le, BitVec.ofNat_toNat, BitVec.setWidth_eq]
  · rw [if_neg (mt BitVec.ult_iff_lt.mp h), max_eq_left (not_lt.mp h), BitVec.ofNat_toNat, BitVec.setWidth_eq]

theorem minUnsigned_eq_ofNat (v w : Word) : (if w.ult v then w else v) = BitVec.ofNat 32 (min v.toNat w.toNat) := by
  by_cases h : w.toNat < v.toNat
  · rw [if_pos (BitVec.ult_iff_lt.mpr h), min_eq_right h.le, BitVec.ofNat_toNat, BitVec.setWidth_eq]
  · rw [if_neg (mt BitVec.ult_iff_lt.mp h), min_eq_left (not_lt.mp h), BitVec.ofNat_toNat, BitVec.setWidth_eq]

/-- Settles O46: each AMO is `State.amo` with an operation whose value is the rule's. -/
theorem amoResults : Obligations.AmoResults := by
  intro s aq rl rd rs1 rs2 hw a b gives
  have gave {i : Instr} {w : Word → Word} (op : Word → Word → Word) (run : exec i s = s.amo rd a b op)
      (hop : ∀ old, op old b = w old) : gives i w := exec_amo hw run hop
  -- Unification is to take the arguments of `gives` as they stand, and not to look into its body for them.
  clear_value gives
  exact ⟨gave (fun old src => old + src) rfl fun old => add_eq_ofNat old b,
    gave (fun old src => old &&& src) rfl fun old => and_eq_ofNat old b,
    gave (fun old src => old ||| src) rfl fun old => or_eq_ofNat old b,
    gave (fun old src => old ^^^ src) rfl fun old => xor_eq_ofNat old b,
    gave (fun _ src => src) rfl fun _ => rfl,
    gave (fun old src => if old.slt src then src else old) rfl fun old => maxSigned_eq_ofInt old b,
    gave (fun old src => if src.slt old then src else old) rfl fun old => minSigned_eq_ofInt old b,
    gave (fun old src => if old.ult src then src else old) rfl fun old => maxUnsigned_eq_ofNat old b,
    gave (fun old src => if src.ult old then src else old) rfl fun old => minUnsigned_eq_ofNat old b⟩

end Sys2Proof.Machine
end

section
/-! SUPPORT. Bus errors of the atomics and of floating-point loads and stores (rules R145, R172, R352, R386, R400, R415, R431,
R563, R566, R567): when the error is reported at the instruction, when it waits, and what has changed by then. -/

namespace Sys2Proof.Machine

open Sys2Proof.Config

/-! ## Reported at the instruction, or later (rule R566; log 16) -/

theorem reportsNow_iff {s : State} : s.reportsNow = true ↔ s.aee = true ∨ s.pins.deferBusError = false := by
  simp [State.reportsNow]

theorem not_reportsNow_iff {s : State} :
    s.reportsNow = false ↔ ¬ (s.aee = true ∨ s.pins.deferBusError = false) := by
  rw [← reportsNow_iff, Bool.not_eq_true]

/-- The exception `code` has been raised for the bus error of an access to `a`. -/
def State.raisedBusError (s t : State) (code : BitVec 12) (a : Word) : Prop :=
  s.trapped t code a ∧ (s.mexstatus.exptVld = false → s.mexstatus.nmi = false → t.mexstatus.buserr = true)

/-! ## AMO and SC.W (rules R352, R361; logs 12, 17, 18) -/

/-- An atomic whose bus error waits has retired; it may count as a store, and has changed nothing else. -/
def State.leftWaiting (s t : State) (a : Word) : Prop :=
  s.retiredTo t (s.pc + 4) ∧ s.sameMemory t ∧ (t.hpm = s.hpm ∨ t.hpm = (s.countEvent 13 1).hpm) ∧
    t = { s with
          pc := t.pc, minstret := t.minstret, hpm := t.hpm,
          busErrors := s.busErrors ++ [{ store := true, addr := a }] }

/-- SC.W has failed without an access. -/
def State.missedStore (s t : State) (rd : Reg) : Prop :=
  s.wroteX t rd 1 ∧ s.sameMemory t ∧ s.retiredTo t (s.pc + 4) ∧
    (t.hpm = s.hpm ∨ t.hpm = (s.countEvent 13 1).hpm) ∧
    t = { s with x := t.x, reservation := none, hpm := t.hpm, pc := t.pc, minstret := t.minstret }

section

variable {s : State} {rd : Reg} {a src : Word}

/-- Whether an atomic counts as a store is free (log 12). -/
theorem countAtomic_frame (s : State) :
    ∃ h, s.countAtomic = { s with hpm := h } ∧ (h = s.hpm ∨ h = (s.countEvent 13 1).hpm) := by
  unfold State.countAtomic
  split
  · exact ⟨_, rfl, .inr rfl⟩
  · exact ⟨_, countEvent_zero s 13, .inl rfl⟩

/-- The bus error of an atomic that is checked as a store. -/
theorem busErrorAt_atomic {k : Access} (hk : k.faultCause = .storeAccessFault) :
    (s.reportsNow = true → ∃ t, s.busErrorAt k a State.countAtomic 4 = .next t ∧ s.raisedBusError t 7 a) ∧
      (s.reportsNow = false → ∃ t, s.busErrorAt k a State.countAtomic 4 = .next t ∧ s.leftWaiting t a) := by
  refine ⟨fun now => ?_, fun late => ?_⟩
  · have reported := busErrorAt_reported (a := a) (k := k) (done := State.countAtomic) (len := 4) now
    rwa [hk] at reported
  · obtain ⟨h, counted, free⟩ := countAtomic_frame (s.queueError k a)
    refine ⟨_, busErrorAt_late late .., ?_⟩
    rw [counted]
    refine ⟨⟨rfl, rfl⟩, fun _ => rfl, free, ?_⟩
    simp only [State.queueError, hk]
    rfl

theorem amo_busError {op : Word → Word → Word} (hm : misaligned a 4 = false) (hc : s.checkAccess .amo a 4 = .busError a) :
    s.amo rd a src op = s.busErrorAt .amo a State.countAtomic 4 := by
  rw [State.amo, if_neg (by simp [hm]), hc]

/-- An SC.W that the bus would answer with an error: it fails without an access, or it has the reservation and gets the
error. -/
theorem storeConditional_busError (hm : misaligned a 4 = false)
    (hc : s.checkAccess .storeConditional a 4 = .busError a) :
    (∃ t, s.storeConditional rd a src = .next t ∧ s.missedStore t rd) ∨
      s.reservation = some a ∧
        s.storeConditional rd a src = s.busErrorAt .storeConditional a State.countAtomic 4 := by
  cases hr : s.reserves a with
  | false =>
    obtain ⟨t, run, written, retired, counted, frame⟩ := setX_countAtomic_advance { s with reservation := none } rd 1
    refine .inl ⟨t, ?_, written, fun _ => by rw [frame], retired, counted, frame⟩
    simp only [State.storeConditional, hm, hc, hr, run, Bool.false_eq_true, if_false]
  | true =>
    obtain ⟨held, -⟩ : s.reservation = some a ∧ scSpurious s.freeCtr = false := by simpa [State.reserves] using hr
    refine .inr ⟨held, ?_⟩
    simp only [State.storeConditional, hm, hc, hr, Bool.false_eq_true, if_false, if_true]

end

/-! ## Loads and LR.W (rules R360, R566; U15, log 17) -/

section

variable {s : State} {k : Access} {a : Word} {d : Dest} {len : Word}

theorem loadError_precise (h : s.aee = true) :
    ∃ t, s.loadError k a d len = .next t ∧ s.raisedBusError t k.faultCause.code a := by
  rw [State.loadError, if_pos h]
  exact busErrorAt_reported (reportsNow_iff.mpr (.inl h))

theorem deliverUnstated_reportsNow (s : State) (d : Dest) : (s.deliverUnstated d).reportsNow = s.reportsNow := by
  obtain ⟨x, f, m, e⟩ := deliverUnstated_frame s d
  rw [e]
  rfl

theorem deliverUnstated_mexstatus (s : State) (d : Dest) : (s.deliverUnstated d).mexstatus = s.mexstatus := by
  obtain ⟨x, f, m, e⟩ := deliverUnstated_frame s d
  rw [e]

/-- In imprecise mode the destination is unstated, also when the error is reported at once. -/
theorem loadError_now (h : s.aee = false) (now : s.reportsNow = true) :
    ∃ t, s.loadError k a d len = .next t ∧ (s.deliverUnstated d).trapped t k.faultCause.code a ∧
      (s.mexstatus.exptVld = false → s.mexstatus.nmi = false → t.mexstatus.buserr = true) := by
  rw [State.loadError, if_neg (by simp [h]), ← deliverUnstated_mexstatus s d]
  exact busErrorAt_reported ((deliverUnstated_reportsNow s d).trans now)

theorem loadError_late (late : s.reportsNow = false) :
    s.loadError k a d len = .next (((s.deliverUnstated d).queueError k a).advance len) := by
  have h : s.aee = false := Bool.eq_false_iff.mpr fun h => not_reportsNow_iff.mp late (.inl h)
  rw [State.loadError, if_neg (by simp [h])]
  exact busErrorAt_late ((deliverUnstated_reportsNow s d).trans late) ..

theorem loadReserved_busError {rd : Reg} (hm : misaligned a 4 = false)
    (hc : s.checkAccess .loadReserved a 4 = .busError a) :
    s.loadReserved rd a = s.loadError .loadReserved a (.int rd) 4 := by
  rw [State.loadReserved, if_neg (by simp [hm]), hc]

/-- An unstated floating-point destination: no other register, and of the rest only FS. -/
def State.unstatedF (s u : State) (fd : Reg) : Prop :=
  (∀ r, r ≠ fd → u.readF r = s.readF r) ∧ u = { s with f := u.f, mstatus := { s.mstatus with fs := u.mstatus.fs } }

theorem unstatedF_deliverUnstated (s : State) (fd : Reg) : s.unstatedF (s.deliverUnstated (.float fd)) fd := by
  unfold State.deliverUnstated
  split
  · exact ⟨fun r hr => by rw [State.deliver, readF_setF, if_neg hr], rfl⟩
  · exact ⟨fun _ _ => rfl, rfl⟩

end

/-! ## Accesses of one or two word transfers (rules R145, R431, R563; log 20) -/

/-- An aligned access of 4 or 8 bytes outside the device window, allowed by the PMP, one of whose transfers the platform answers
with an error. -/
def State.failingAccess (s : State) (k : Access) (a : Word) (n : Nat) : Prop :=
  a.toNat % n = 0 ∧ inTcip a = false ∧ s.pmpAllows k.perm s.dataPriv a = true ∧
    (n = 8 → s.pmpAllows k.perm s.dataPriv (a + 4) = true) ∧
    (dataError s.params k a = true ∨ n = 8 ∧ dataError s.params k (a + 4) = true)

/-- An access all of whose answers are `ok` or one bus error, which is among them. -/
theorem checkAccess_busError {s : State} {k : Access} {a b : Word} {n : Nat}
    (h : ∀ c ∈ s.checkPieces k a n, c = .ok ∨ c = .busError b) (he : .busError b ∈ s.checkPieces k a n) :
    s.checkAccess k a n = .busError b := by
  rcases checkAccess_cases s k a n with ⟨l, c, m, e, -, ends, check, -⟩ | ⟨-, ⟨-, ok⟩ | ⟨c, check, hc, -⟩⟩
  · rw [check]
    refine (h c (by simp [e])).resolve_left fun ok => ?_
    rw [ok] at ends
    cases ends
  · cases ok _ he
  · rw [check]
    exact (h _ hc).resolve_left nofun

/-- The device window begins and ends at a multiple of 8 bytes. -/
theorem inTcip_upper {a : Word} (h : a.toNat % 8 = 0) : inTcip (a + 4) = inTcip a := by
  have e : (a + 4).extractLsb' 28 4 = a.extractLsb' 28 4 := by
    apply BitVec.eq_of_toNat_eq
    simp only [BitVec.extractLsb'_toNat, Nat.shiftRight_eq_div_pow]
    bv_omega
  rw [inTcip, e, inTcip]

section

variable {s : State} {k : Access} {a : Word} {n : Nat}

/-- Every transfer is answered with `ok` or with an error that reports the address of the access (rule R563). -/
theorem failingAccess_pieces (hn : n = 4 ∨ n = 8) (h : s.failingAccess k a n) :
    misaligned a n = false ∧ (∀ p ∈ pieces a n, inTcip p.1 = false ∧
      s.checkPieceOf k a n p = if dataError s.params k p.1 then .busError a else .ok) ∧
      ∃ p ∈ pieces a n, dataError s.params k p.1 = true := by
  obtain ⟨align, window, allowed, upper, error⟩ := h
  have hm : misaligned a n = false := by simp [misaligned, align]
  have answer (p : Word × Nat) (hp : s.pmpAllows k.perm s.dataPriv p.1 = true) (ht : inTcip p.1 = false) :
      inTcip p.1 = false ∧ s.checkPieceOf k a n p = if dataError s.params k p.1 then .busError a else .ok := by
    refine ⟨ht, ?_⟩
    simp [State.checkPieceOf, State.checkPiece, hm, hp, ht]
  refine ⟨hm, ?_⟩
  rcases hn with rfl | rfl
  · have one : pieces a 4 = [(a, 4)] := by simp [pieces, hm]
    rw [one, List.forall_mem_singleton]
    exact ⟨answer (a, 4) allowed window, (a, 4), List.mem_singleton_self _, error.resolve_right nofun⟩
  · have two : pieces a 8 = [(a, 4), (a + 4, 4)] := by simp [pieces, hm]
    rw [two, List.forall_mem_cons, List.forall_mem_singleton]
    refine ⟨⟨answer (a, 4) allowed window, answer (a + 4, 4) (upper rfl) ((inTcip_upper align).trans window)⟩, ?_⟩
    rcases error with lower | ⟨-, higher⟩
    · exact ⟨(a, 4), by simp, lower⟩
    · exact ⟨(a + 4, 4), by simp, higher⟩

theorem failingAccess_checks (hn : n = 4 ∨ n = 8) (h : s.failingAccess k a n) :
    s.trapsMisaligned k a n = false ∧ s.checkAccess k a n = .busError a := by
  obtain ⟨hm, answers, p, hp, error⟩ := failingAccess_pieces hn h
  refine ⟨by simp [State.trapsMisaligned, hm], checkAccess_busError (fun c hc => ?_) ?_⟩
  · obtain ⟨q, hq, rfl⟩ := List.mem_map.mp hc
    obtain ⟨-, answer⟩ := answers q hq
    rw [answer]
    split
    · exact .inr rfl
    · exact .inl rfl
  · obtain ⟨-, answer⟩ := answers p hp
    exact List.mem_map.mpr ⟨p, hp, by rw [answer, if_pos error]⟩

theorem load_failing {d : Dest} {ext : Dword → Dword} {len : Word} (hn : n = 4 ∨ n = 8) (h : s.failingAccess .load a n) :
    s.load d a n ext len = s.loadError .load a d len := by
  obtain ⟨hm, hc⟩ := failingAccess_checks hn h
  rw [State.load, if_neg (by simp [hm]), hc]

theorem store_failing {v : Dword} {len : Word} (hn : n = 4 ∨ n = 8) (h : s.failingAccess .store a n) :
    s.store a n v len = s.storeError a a n v len := by
  obtain ⟨hm, hc⟩ := failingAccess_checks hn h
  rw [State.store, if_neg (by simp [hm]), hc]

/-! ## What a failing floating-point store leaves (U2; logs 18, 20, 24) -/

/-- FSW has written nothing, FSD perhaps some of its own eight bytes; a line kept in the data cache may have become dirty as it
was. -/
def State.partlyWritten (s u : State) (a : Word) (n : Nat) : Prop :=
  (n = 4 → u = s) ∧ u = { s with mem := u.mem, stale := u.stale, dirty := u.dirty, kept := u.kept } ∧
    ∃ g, s.mayFind (touches a 8) g ∧ ∀ c : Word, 8 ≤ (c - a).toNat →
      u.mem.read c.toNat = if s.mhcr.wb = true then g c else s.mem.read c.toNat

theorem partlyWritten_frame {u : State} (h : s.partlyWritten u a n) :
    u = { s with mem := u.mem, stale := u.stale, dirty := u.dirty, kept := u.kept } := by
  obtain ⟨-, frame, -⟩ := h
  exact frame

theorem writtenBytes_subset : ∀ p ∈ s.writtenBytes a n, p ∈ pieces a n := by
  intro p hp
  obtain ⟨⟨q, i⟩, hq, rfl⟩ := List.mem_map.mp hp
  obtain ⟨hmem, -⟩ := List.mem_filter.mp hq
  exact (List.mem_zipIdx' hmem).2 ▸ List.getElem_mem _

/-- Outside the device window a store that fails writes its pieces to memory. -/
theorem partialStore_memory {v : Dword} (ht : ∀ p ∈ pieces a n, inTcip p.1 = false) :
    s.partialStore a n v = (s.writtenBytes a n).foldl (State.storePiece a v) s := by
  rw [partialStore_pieces]
  refine List.foldl_ext _ _ s fun u p hp => ?_
  rw [State.writePiece, if_neg (by simp [ht p (writtenBytes_subset p hp)])]

theorem partialStore_partlyWritten {v : Dword} (hw : s.mem.wf = true) (hn : n = 4 ∨ n = 8)
    (h : s.failingAccess .store a n) : s.partlyWritten (s.partialStore a n v) a n := by
  obtain ⟨hm, answers, error⟩ := failingAccess_pieces hn h
  have sizes : n = 1 ∨ n = 2 ∨ n = 4 ∨ n = 8 := by omega
  obtain ⟨cover, -⟩ := pieces_cover (a := a) sizes
  obtain ⟨g, found, bytes, -⟩ := storePieces_wrote hw a v (s.writtenBytes a n) fun p hp => by
    obtain ⟨fits, inside, -⟩ := cover p (writtenBytes_subset p hp)
    exact ⟨fits, by omega⟩
  obtain ⟨m, st, d, k, frame⟩ := storePieces_frame a v (s.writtenBytes a n) s
  have memory := partialStore_memory (s := s) (v := v) fun p hp => (answers p hp).1
  refine ⟨fun h4 => ?_, by rw [memory, frame], g, mayFind_mono found fun l ⟨p, hp, hl⟩ => ?_, fun c hc => ?_⟩
  · have one : pieces a n = [(a, n)] := by rw [pieces, if_neg (by simp [hm]), if_neg (by omega)]
    rw [one] at answers error
    obtain ⟨p, hp, error⟩ := error
    obtain rfl := List.mem_singleton.mp hp
    obtain ⟨-, answer⟩ := answers _ hp
    exact partialStore_failing one (by rw [answer, if_pos error]; nofun)
  · obtain ⟨i, hi, line⟩ := (pieces_lines sizes l).mp ⟨p, writtenBytes_subset p hp, hl⟩
    exact ⟨i, by omega, line⟩
  · rw [memory]
    refine (bytes c).2 fun ⟨p, hp, inside⟩ => ?_
    obtain ⟨-, within, -⟩ := cover p (writtenBytes_subset p hp)
    bv_omega

/-- A store whose error is lost. -/
theorem storeError_lost {u : State} {v : Dword} (hu : s.partialStore a n v = u) (hp : s.partlyWritten u a n)
    (lost : s.losesError a = true) : ∃ t, s.storeError a a n v 4 = .next t ∧ s.retiredTo t (s.pc + 4) ∧
      t = { u with pc := t.pc, minstret := t.minstret, hpm := (s.countEvent 13 1).hpm } := by
  have frame := partlyWritten_frame hp
  refine ⟨_, by rw [State.storeError, if_pos lost], ?_⟩
  rw [hu, frame]
  exact ⟨⟨rfl, rfl⟩, rfl⟩

/-- A store whose error is reported at the instruction. -/
theorem storeError_now {u : State} {v : Dword} (hu : s.partialStore a n v = u) (hp : s.partlyWritten u a n)
    (kept : s.losesError a = false) (now : s.reportsNow = true) : ∃ t, s.storeError a a n v 4 = .next t ∧
      u.trapped t 7 a ∧ (s.mexstatus.exptVld = false → s.mexstatus.nmi = false → t.mexstatus.buserr = true) := by
  have frame := partlyWritten_frame hp
  rw [State.storeError, if_neg (by simp [kept]), hu, frame]
  exact busErrorAt_reported (k := .store) now

/-- A store whose error waits. -/
theorem storeError_late {u : State} {v : Dword} (hu : s.partialStore a n v = u) (hp : s.partlyWritten u a n)
    (kept : s.losesError a = false) (late : s.reportsNow = false) :
    ∃ t, s.storeError a a n v 4 = .next t ∧ s.retiredTo t (s.pc + 4) ∧
      t = { u with
            pc := t.pc, minstret := t.minstret, hpm := (s.countEvent 13 1).hpm,
            busErrors := s.busErrors ++ [{ store := true, addr := a }] } := by
  have frame := partlyWritten_frame hp
  have late : u.reportsNow = false := by rw [frame]; exact late
  refine ⟨_, by rw [State.storeError, if_neg (by simp [kept]), hu, busErrorAt_late late], ?_⟩
  rw [frame]
  exact ⟨⟨rfl, rfl⟩, rfl⟩

end

/-! ## The statement -/

section

variable {s : State} {fd rs1 rs2 : Reg} {imm : BitVec 12} {l : Instr × Nat}

/-- The floating-point loads, where they are enabled, each with its size. -/
theorem exec_floatLoads (hf : s.params.fpu ≠ .none) (hs : s.mstatus.fs ≠ 0)
    (h : l ∈ [(Instr.flw fd rs1 imm, 4)] ++ if s.params.fpu = .double then [(.fld fd rs1 imm, 8)] else []) :
    (l.2 = 4 ∨ l.2 = 8) ∧ ∃ ext : Dword → Dword,
      exec l.1 s = s.load (.float fd) (s.readX rs1 + BitVec.ofInt 32 imm.toInt) l.2 ext 4 := by
  rcases List.mem_append.mp h with h | h
  · obtain rfl := List.mem_singleton.mp h
    refine ⟨.inl rfl, fun v => boxed s.params (v.setWidth 32), ?_⟩
    show s.fp s.fpEnabled _ _ = _
    rw [State.fp, if_pos (fpEnabled_on hf hs)]
    rfl
  · split at h
    · obtain rfl := List.mem_singleton.mp h
      refine ⟨.inr rfl, fun v => v, ?_⟩
      show s.fp s.fpEnabledD _ _ = _
      rw [State.fp, if_pos (fpEnabledD_on ‹_› hs)]
      rfl
    · cases h

/-- The floating-point stores, where they are enabled, each with its size. -/
theorem exec_floatStores (hf : s.params.fpu ≠ .none) (hs : s.mstatus.fs ≠ 0)
    (h : l ∈ [(Instr.fsw fd rs1 imm, 4)] ++ if s.params.fpu = .double then [(.fsd fd rs1 imm, 8)] else []) :
    (l.2 = 4 ∨ l.2 = 8) ∧
      exec l.1 s = s.store (s.readX rs1 + BitVec.ofInt 32 imm.toInt) l.2 (s.readF fd) 4 := by
  rcases List.mem_append.mp h with h | h
  · obtain rfl := List.mem_singleton.mp h
    refine ⟨.inl rfl, ?_⟩
    show s.fp s.fpEnabled _ _ = _
    rw [State.fp, if_pos (fpEnabled_on hf hs)]
    rfl
  · split at h
    · obtain rfl := List.mem_singleton.mp h
      refine ⟨.inr rfl, ?_⟩
      show s.fp s.fpEnabledD _ _ = _
      rw [State.fp, if_pos (fpEnabledD_on ‹_› hs)]
      rfl
    · cases h

end

/-- Settles O60. -/
theorem busErrorAtomicsAndFloats : Obligations.BusErrorAtomicsAndFloats := by
  intro s aq rl rd rs1 rs2 fd imm hw reported now a fails waits missed
  have checks {k : Access} (hf : fails k) : misaligned a 4 = false ∧ s.checkAccess k a 4 = .busError a := by
    obtain ⟨align, window, allowed, error⟩ := hf
    obtain ⟨-, -, -, answer⟩ := busError_checks (n := 4) (by decide) align window allowed error
    exact ⟨by simp [misaligned, align], answer⟩
  refine ⟨fun hf i hi => ?_, fun hf => ⟨fun hr => ?_, fun _ hn => ?_, fun _ hn => ?_⟩,
    fun hf => ⟨fun h => ?_, fun h hn => ?_, fun hn => ?_⟩, fun hfpu hfs => ⟨fun l hl hf => ?_, fun l hl hf => ?_⟩⟩
  · obtain ⟨hm, hc⟩ := checks hf
    obtain ⟨op, run⟩ := exec_amos (s := s) hi
    obtain ⟨atOnce, later⟩ := busErrorAt_atomic (s := s) (a := a) (k := .amo) rfl
    rw [← amo_busError (rd := rd) (src := s.readX rs2) (op := op) hm hc, ← run] at atOnce later
    exact ⟨fun hn => atOnce (reportsNow_iff.mpr hn), fun hn => later (not_reportsNow_iff.mpr hn)⟩
  · obtain ⟨hm, hc⟩ := checks hf
    exact (storeConditional_busError hm hc).resolve_right fun ⟨held, _⟩ => hr held
  · obtain ⟨hm, hc⟩ := checks hf
    refine (storeConditional_busError hm hc).imp_right fun ⟨_, run⟩ => ?_
    obtain ⟨atOnce, -⟩ := busErrorAt_atomic (s := s) (a := a) (k := .storeConditional) rfl
    obtain ⟨t, ht, raised⟩ := atOnce (reportsNow_iff.mpr hn)
    exact ⟨t, run.trans ht, raised⟩
  · obtain ⟨hm, hc⟩ := checks hf
    refine (storeConditional_busError hm hc).imp_right fun ⟨_, run⟩ => ?_
    obtain ⟨-, later⟩ := busErrorAt_atomic (s := s) (a := a) (k := .storeConditional) rfl
    obtain ⟨t, ht, left⟩ := later (not_reportsNow_iff.mpr hn)
    exact ⟨t, run.trans ht, left⟩
  · obtain ⟨hm, hc⟩ := checks hf
    obtain ⟨t, ht, raised⟩ := loadError_precise (k := .loadReserved) (a := a) (d := .int rd) (len := 4) h
    exact ⟨t, (loadReserved_busError hm hc).trans ht, raised⟩
  · obtain ⟨hm, hc⟩ := checks hf
    obtain ⟨u, v, hu, written, frame⟩ := deliverUnstated_int s rd
    have raises := loadError_now (k := .loadReserved) (a := a) (d := .int rd) (len := 4) h (reportsNow_iff.mpr hn)
    rw [hu] at raises
    obtain ⟨t, ht, raised⟩ := raises
    exact ⟨u, v, written, frame, t, (loadReserved_busError hm hc).trans ht, raised⟩
  · obtain ⟨hm, hc⟩ := checks hf
    obtain ⟨u, v, hu, written, frame⟩ := deliverUnstated_int s rd
    have run := loadError_late (k := .loadReserved) (a := a) (d := .int rd) (len := 4) (not_reportsNow_iff.mpr hn)
    rw [hu] at run
    refine ⟨_, v, (loadReserved_busError hm hc).trans run, written, ?_⟩
    rw [frame]
    exact ⟨⟨rfl, rfl⟩, fun _ => rfl, rfl⟩
  · obtain ⟨size, ext, run⟩ := exec_floatLoads hfpu hfs hl
    have run := run.trans (load_failing size hf)
    have unstated := unstatedF_deliverUnstated s fd
    refine ⟨fun h => ?_, fun h hn => ?_, fun hn => ?_⟩
    · obtain ⟨t, ht, raised⟩ := loadError_precise (s := s) h
      exact ⟨t, run.trans ht, raised⟩
    · obtain ⟨t, ht, raised⟩ := loadError_now h (reportsNow_iff.mpr hn)
      exact ⟨_, unstated, t, run.trans ht, raised⟩
    · refine ⟨_, _, unstated, run.trans (loadError_late (not_reportsNow_iff.mpr hn)), ?_⟩
      obtain ⟨-, frame⟩ := unstated
      rw [frame]
      exact ⟨⟨rfl, rfl⟩, rfl⟩
  · obtain ⟨size, run⟩ := exec_floatStores hfpu hfs hl
    have run := run.trans (store_failing size hf)
    have partly := partialStore_partlyWritten (v := s.readF fd) hw size hf
    refine ⟨fun h => ?_, fun h hn => ?_, fun h hn => ?_⟩
    · obtain ⟨t, ht, left⟩ := storeError_lost rfl partly (losesError_iff.mpr h)
      exact ⟨t, _, partly, run.trans ht, left⟩
    · have kept := Bool.eq_false_iff.mpr (mt losesError_iff.mp h)
      obtain ⟨t, ht, raised⟩ := storeError_now rfl partly kept (reportsNow_iff.mpr hn)
      exact ⟨_, partly, t, run.trans ht, raised⟩
    · have kept := Bool.eq_false_iff.mpr (mt losesError_iff.mp h)
      obtain ⟨t, ht, left⟩ := storeError_late rfl partly kept (not_reportsNow_iff.mpr hn)
      exact ⟨t, _, partly, run.trans ht, left⟩

end Sys2Proof.Machine
end

section
/-! SUPPORT. The floating-point instructions: when one is illegal, what the single-precision ones leave, and the loads and
stores (rules R166, R380 to R386, R390 to R415, R430, R431, R450, R460). -/

namespace Sys2Proof.Machine

open Sys2Proof.Config

/-! ## Enabling and rounding modes (rules R380, R382, R383, R430; D47) -/

section

variable {s : State} {i : Instr} {en : Bool} {rm : BitVec 3} {m : Rounding}

theorem fp_off {k : Result} (h : en = false) : s.fp en i k = s.illegal i := by simp [State.fp, h]

theorem fp_on {k : Result} (h : en = true) : s.fp en i k = k := by simp [State.fp, h]

theorem fpRounded_off {k : Rounding → Result} (h : en = false) : s.fpRounded en i rm k = s.illegal i := fp_off h

/-- A reserved rounding mode is illegal whether the unit is enabled or not. -/
theorem fpRounded_reserved {k : Rounding → Result} (h : s.rounding rm = none) : s.fpRounded en i rm k = s.illegal i := by
  cases en <;> simp [State.fpRounded, State.fp, h]

theorem fpEnabled_off (h : s.params.fpu = .none ∨ s.mstatus.fs = 0) : s.fpEnabled = false := by
  rcases h with h | h <;> simp [State.fpEnabled, h]

theorem fpEnabledD_off (h : s.params.fpu ≠ .double ∨ s.mstatus.fs = 0) : s.fpEnabledD = false := by
  rcases h with h | h <;> simp [State.fpEnabledD, h]

/-- The modes in the order of their numbers. -/
theorem roundingOf_eq_getD (n : BitVec 3) :
    roundingOf n = [some Rounding.rne, some .rtz, some .rdn, some .rup, some .rmm].getD n.toNat none := by
  revert n; decide

theorem roundingOf_eq_none_iff (n : BitVec 3) : roundingOf n = none ↔ 5 ≤ n.toNat := by
  revert n; decide

theorem rounding_eq_getD (s : State) (rm : BitVec 3) :
    s.rounding rm = [some Rounding.rne, some .rtz, some .rdn, some .rup, some .rmm].getD
      (if rm.toNat = 7 then s.fcsr.frm.toNat else rm.toNat) none := by
  by_cases h : rm = 7
  · simp [State.rounding, h, roundingOf_eq_getD]
  · have h7 : rm.toNat ≠ 7 := fun h' => h (BitVec.eq_of_toNat_eq h')
    rw [State.rounding, if_neg h, if_neg h7, roundingOf_eq_getD]

theorem rounding_eq_none_iff (s : State) (rm : BitVec 3) :
    s.rounding rm = none ↔ rm.toNat = 5 ∨ rm.toNat = 6 ∨ rm.toNat = 7 ∧ 5 ≤ s.fcsr.frm.toNat := by
  by_cases h : rm = 7
  · simp [State.rounding, h, roundingOf_eq_none_iff]
  · have h7 : rm.toNat ≠ 7 := fun h' => h (BitVec.eq_of_toNat_eq h')
    rw [State.rounding, if_neg h, roundingOf_eq_none_iff]
    omega

end

/-! ## The instructions of each unit -/

/-- The single-precision instructions with a rounding mode. -/
def roundedSingle (rm : BitVec 3) (r q fs1 fs2 fs3 : Reg) : List Instr :=
  [.faddS rm r fs1 fs2, .fsubS rm r fs1 fs2, .fmulS rm r fs1 fs2, .fdivS rm r fs1 fs2, .fsqrtS rm r fs1,
   .fmaddS rm r fs1 fs2 fs3, .fmsubS rm r fs1 fs2 fs3, .fnmsubS rm r fs1 fs2 fs3, .fnmaddS rm r fs1 fs2 fs3,
   .fcvtSW rm r q, .fcvtSWu rm r q, .fcvtWS rm r fs1, .fcvtWuS rm r fs1]

/-- The single-precision instructions without one. -/
def plainSingle (r q fs1 fs2 : Reg) (imm : BitVec 12) : List Instr :=
  [.fsgnjS r fs1 fs2, .fsgnjnS r fs1 fs2, .fsgnjxS r fs1 fs2, .fminS r fs1 fs2, .fmaxS r fs1 fs2, .feqS r fs1 fs2,
   .fltS r fs1 fs2, .fleS r fs1 fs2, .fclassS r fs1, .fmvWX r q, .fmvXW r fs1, .flw r q imm, .fsw r q imm]

/-- The double-precision instructions with a rounding mode. -/
def roundedDouble (rm : BitVec 3) (r q fs1 fs2 fs3 : Reg) : List Instr :=
  [.faddD rm r fs1 fs2, .fsubD rm r fs1 fs2, .fmulD rm r fs1 fs2, .fdivD rm r fs1 fs2, .fsqrtD rm r fs1,
   .fmaddD rm r fs1 fs2 fs3, .fmsubD rm r fs1 fs2 fs3, .fnmsubD rm r fs1 fs2 fs3, .fnmaddD rm r fs1 fs2 fs3,
   .fcvtDW rm r q, .fcvtDWu rm r q, .fcvtWD rm r fs1, .fcvtWuD rm r fs1, .fcvtDS rm r fs1, .fcvtSD rm r fs1]

/-- The double-precision instructions without one. -/
def plainDouble (r q fs1 fs2 : Reg) (imm : BitVec 12) : List Instr :=
  [.fsgnjD r fs1 fs2, .fsgnjnD r fs1 fs2, .fsgnjxD r fs1 fs2, .fminD r fs1 fs2, .fmaxD r fs1 fs2, .feqD r fs1 fs2,
   .fltD r fs1 fs2, .fleD r fs1 fs2, .fclassD r fs1, .fld r q imm, .fsd r q imm]

section

variable {s : State} {i : Instr} {rm : BitVec 3} {r q fs1 fs2 fs3 : Reg} {imm : BitVec 12}

theorem exec_roundedSingle (h : i ∈ roundedSingle rm r q fs1 fs2 fs3) :
    ∃ k, exec i s = s.fpRounded s.fpEnabled i rm k := by
  simp only [roundedSingle, List.mem_cons, List.not_mem_nil, or_false] at h
  rcases h with rfl | rfl | rfl | rfl | rfl | rfl | rfl | rfl | rfl | rfl | rfl | rfl | rfl <;> exact ⟨_, rfl⟩

theorem exec_plainSingle (h : i ∈ plainSingle r q fs1 fs2 imm) : ∃ k, exec i s = s.fp s.fpEnabled i k := by
  simp only [plainSingle, List.mem_cons, List.not_mem_nil, or_false] at h
  rcases h with rfl | rfl | rfl | rfl | rfl | rfl | rfl | rfl | rfl | rfl | rfl | rfl | rfl <;> exact ⟨_, rfl⟩

theorem exec_roundedDouble (h : i ∈ roundedDouble rm r q fs1 fs2 fs3) :
    ∃ k, exec i s = s.fpRounded s.fpEnabledD i rm k := by
  simp only [roundedDouble, List.mem_cons, List.not_mem_nil, or_false] at h
  rcases h with rfl | rfl | rfl | rfl | rfl | rfl | rfl | rfl | rfl | rfl | rfl | rfl | rfl | rfl | rfl <;> exact ⟨_, rfl⟩

theorem exec_plainDouble (h : i ∈ plainDouble r q fs1 fs2 imm) : ∃ k, exec i s = s.fp s.fpEnabledD i k := by
  simp only [plainDouble, List.mem_cons, List.not_mem_nil, or_false] at h
  rcases h with rfl | rfl | rfl | rfl | rfl | rfl | rfl | rfl | rfl | rfl | rfl <;> exact ⟨_, rfl⟩

end

/-- Settles O52. -/
theorem floatIllegal : Obligations.FloatIllegal := by
  intro s rm r q fs1 fs2 fs3 imm traps reserved roundedS plainS roundedD plainD
  have trap {i : Instr} (h : exec i s = s.illegal i) : traps i := by
    obtain ⟨t, run, trapped⟩ := illegal_trapped s i
    exact ⟨t, h.trans run, trapped⟩
  refine ⟨fun off i hi => trap ?_, fun off i hi => trap ?_, fun res i hi => trap ?_,
    fun res => ⟨rounding_eq_getD s rm, ?_⟩⟩
  · rcases List.mem_append.mp hi with hi | hi
    · obtain ⟨k, run⟩ := exec_roundedSingle (s := s) hi
      exact run.trans (fpRounded_off (fpEnabled_off off))
    · obtain ⟨k, run⟩ := exec_plainSingle (s := s) hi
      exact run.trans (fp_off (fpEnabled_off off))
  · rcases List.mem_append.mp hi with hi | hi
    · obtain ⟨k, run⟩ := exec_roundedDouble (s := s) hi
      exact run.trans (fpRounded_off (fpEnabledD_off off))
    · obtain ⟨k, run⟩ := exec_plainDouble (s := s) hi
      exact run.trans (fp_off (fpEnabledD_off off))
  · have none := (rounding_eq_none_iff s rm).mpr res
    rcases List.mem_append.mp hi with hi | hi
    · obtain ⟨k, run⟩ := exec_roundedSingle (s := s) hi
      exact run.trans (fpRounded_reserved none)
    · obtain ⟨k, run⟩ := exec_roundedDouble (s := s) hi
      exact run.trans (fpRounded_reserved none)
  · exact mt (rounding_eq_none_iff s rm).mp res

/-! ## Single-precision results (rules R381, R384, R390 to R414) -/

section

variable {s : State} {i : Instr} {en : Bool} {rm : BitVec 3} {m : Rounding} {r : Reg} {k : Rounding → Result}

/-- A single-precision operand as a number: the low half, or the canonical NaN when it is not boxed (rule R381). -/
theorem natS_eq (s : State) (q : Reg) :
    s.natS q = if s.params.fpu = .double ∧ (s.readF q).extractLsb' 32 32 ≠ BitVec.allOnes 32 then 0x7FC00000
      else (s.readF q).toNat % 2 ^ 32 := by
  unfold State.natS State.readS
  split
  · rfl
  · exact BitVec.toNat_setWidth ..

/-- The magnitude of a single with a sign. -/
theorem b32_withSign (n : Bool) (a : Nat) : b32.withSign n a = a % 2 ^ 31 + if n then 2 ^ 31 else 0 := by
  have sign : b32.signBit = 2 ^ 31 := rfl
  cases n <;> simp [Fmt.withSign, Fmt.signed, Fmt.magnitude, sign, Nat.add_comm]

/-- What an enabled instruction with a rounding mode answers. -/
theorem exec_fpRounded {p : State → Prop} (on : en = true) (hm : s.rounding rm = some m)
    (run : exec i s = s.fpRounded en i rm k) (h : ∃ t, k m = .next t ∧ p t) : ∃ t, exec i s = .next t ∧ p t := by
  rwa [run, on, fpRounded_on hm]

/-- What an enabled instruction without rounding mode answers. -/
theorem exec_fp {p : State → Prop} {k : Result} (on : en = true) (run : exec i s = s.fp en i k)
    (h : ∃ t, k = .next t ∧ p t) : ∃ t, exec i s = .next t ∧ p t := by
  rwa [run, fp_on on]

/-- A comparison's result as an integer result. -/
theorem putBool_gaveXF (s : State) (rd : Reg) (v : Bool × BitVec 5) :
    ∃ t, s.putBool rd v = .next t ∧ s.gaveXF t rd (if v.1 then 1 else 0) v.2 := putX_gaveXF ..

/-- A conversion's integer result. -/
theorem putInt_gaveXF (s : State) (rd : Reg) (v : ℤ × BitVec 5) :
    ∃ t, s.putInt rd v = .next t ∧ s.gaveXF t rd (BitVec.ofInt 32 v.1) v.2 := putX_gaveXF ..

/-- FMV.W.X raises no flag (rule R406). -/
theorem writeS_gaveF (s : State) (fd : Reg) (v : Word) :
    s.gaveF ((s.writeS fd v).advance 4) fd (boxed s.params v) 0 := setF_raise_gaveF s fd _ 0

end

/-- Settles O49. -/
theorem singleResults : Obligations.SingleResults := by
  intro s rm m r fs1 fs2 fs3 rs1 hf hs hm val
  have operands : val = s.natS := funext fun q => (natS_eq s q).symm
  clear_value val
  subst operands
  have on := fpEnabled_on hf hs
  intro a b c box float int sign injected bool
  have rounded {i : Instr} {k : Rounding → Result} {v : FpResult} (run : exec i s = s.fpRounded s.fpEnabled i rm k)
      (hk : k m = s.putS r v) : float i v := exec_fpRounded on hm run (by rw [hk]; exact putS_gaveF s r v)
  have plain {i : Instr} {v : FpResult} (run : exec i s = s.fp s.fpEnabled i (s.putS r v)) : float i v :=
    exec_fp on run (putS_gaveF s r v)
  have injects {i : Instr} {n : Bool} (run : exec i s = s.fp s.fpEnabled i (s.putS r (exactly (b32.withSign n a)))) :
      float i (injected n) := by
    have value : exactly (b32.withSign n a) = injected n := by rw [b32_withSign]; rfl
    exact plain (value ▸ run)
  have compares {i : Instr} {v : Bool × BitVec 5} (run : exec i s = s.fp s.fpEnabled i (s.putBool r v)) : bool i v :=
    exec_fp on run (putBool_gaveXF s r v)
  have moves {i : Instr} {v : Word} (run : exec i s = s.fp s.fpEnabled i (s.putX r v 0)) : int i v 0 :=
    exec_fp on run (putX_gaveXF s r v 0)
  have converts {i : Instr} {k : Rounding → Result} {v : ℤ × BitVec 5} (run : exec i s = s.fpRounded s.fpEnabled i rm k)
      (hk : k m = s.putInt r v) : int i (BitVec.ofInt 32 v.1) v.2 :=
    exec_fpRounded on hm run (by rw [hk]; exact putInt_gaveXF s r v)
  have moveW : float (.fmvWX r rs1) { bits := (s.readX rs1).toNat, flags := 0 } := by
    refine exec_fp on rfl ⟨_, rfl, ?_⟩
    have word : BitVec.ofNat 32 (s.readX rs1).toNat = s.readX rs1 := by simp
    rw [word]
    exact writeS_gaveF s r _
  have moveX : int (.fmvXW r fs1) (BitVec.ofNat 32 ((s.readF fs1).toNat % 2 ^ 32)) 0 := by
    have word : BitVec.ofNat 32 ((s.readF fs1).toNat % 2 ^ 32) = (s.readF fs1).setWidth 32 := by
      apply BitVec.eq_of_toNat_eq; simp
    rw [word]
    exact moves rfl
  -- Unification is to take the arguments as they stand, and not to look into the bodies for them.
  clear_value float int bool
  exact ⟨rounded rfl rfl, rounded rfl rfl, rounded rfl rfl, rounded rfl rfl, rounded rfl rfl, rounded rfl rfl,
    rounded rfl rfl, rounded rfl rfl, rounded rfl rfl, rounded rfl rfl, rounded rfl rfl, injects rfl, injects rfl,
    injects rfl, plain rfl, plain rfl, moveW, compares rfl, compares rfl, compares rfl, moves rfl,
    converts rfl rfl, converts rfl rfl, moveX⟩

/-! ## Loads and stores (rules R166, R386, R400, R415, R431, R450, R460) -/

section

variable {s : State} {r rs1 : Reg} {imm : BitVec 12} {a : Word}

/-- The two words of an aligned doubleword have the same permissions (rule R166). -/
theorem pmpAllows_upper (s : State) (k : Perm) (p : Priv) (h : a.toNat % 8 = 0) :
    s.pmpAllows k p (a + 4) = s.pmpAllows k p a := by
  refine pmpAllows_line s k p (lineOf_eq.mpr ?_)
  rw [← lineOf_eq.mp (rfl : lineOf a = lineOf a)]
  bv_omega

/-- An aligned access of two words, allowed and answered in both. -/
theorem plainAccess_double_checks {k : Access} (h : s.plainAccess k a 8) (upper : dataError s.params k (a + 4) = false) :
    s.trapsMisaligned k a 8 = false ∧ s.checkAccess k a 8 = .ok := by
  obtain ⟨align, window, allowed, lower⟩ := h
  have hm : misaligned a 8 = false := by simp [misaligned, align]
  have answer (p : Word × Nat) (hp : s.pmpAllows k.perm s.dataPriv p.1 = true) (ht : inTcip p.1 = false)
      (he : dataError s.params k p.1 = false) : s.checkPieceOf k a 8 p = .ok := by
    simp [State.checkPieceOf, State.checkPiece, hm, hp, ht, he]
  have two : pieces a 8 = [(a, 4), (a + 4, 4)] := by simp [pieces, hm]
  refine ⟨by simp [State.trapsMisaligned, hm], checkAccess_ok_iff.mpr ?_⟩
  rw [two, List.forall_mem_cons, List.forall_mem_singleton]
  exact ⟨answer (a, 4) allowed window lower,
    answer (a + 4, 4) ((pmpAllows_upper s _ _ align).trans allowed) ((inTcip_upper align).trans window) upper⟩

/-- A store none of whose pieces passes its check writes nothing. -/
theorem partialStore_all_failing {n : Nat} {v : Dword} (h : ∀ p ∈ pieces a n, s.checkPieceOf .store a n p ≠ .ok) :
    s.partialStore a n v = s := by
  have none : (pieces a n).zipIdx.filter (fun p => s.mayBeWritten a n p && pieceWritten s.freeCtr p.2) = [] := by
    refine List.filter_eq_nil_iff.mpr fun ⟨p, j⟩ hp => ?_
    have fails : s.checkPieceOf .store a n p ≠ .ok := h p ((List.mem_zipIdx' hp).2 ▸ List.getElem_mem _)
    simp [State.mayBeWritten, fails]
  rw [State.partialStore, none, List.foldl_nil]

/-- An aligned store of two words that the PMP denies. -/
theorem store_denied_double {v : Dword} {len : Word} (h : a.toNat % 8 = 0)
    (hp : s.pmpAllows .write s.dataPriv a = false) : ∃ t, s.store a 8 v len = .next t ∧ s.trapped t 7 a := by
  obtain ⟨hm, h2, h3, h4⟩ := denied_checks (k := .store) h hp
  have two : pieces a 8 = [(a, 4), (a + 4, 4)] := by simp [pieces, hm]
  have unwritten : s.partialStore a 8 v = s := by
    refine partialStore_all_failing fun p hmem => ?_
    rw [two, List.mem_cons, List.mem_singleton] at hmem
    have denied : s.pmpAllows .write s.dataPriv p.1 = false := by
      rcases hmem with rfl | rfl
      · exact hp
      · exact (pmpAllows_upper s _ _ h).trans hp
    simp [State.checkPieceOf, State.checkPiece, denied, Access.perm]
  unfold State.store
  rw [if_neg (by simp [h2]), h3, h4, unwritten]
  exact raise_trapped s .storeAccessFault a false rfl

theorem exec_flw (on : s.fpEnabled = true) : exec (.flw r rs1 imm) s =
    s.load (.float r) (s.readX rs1 + BitVec.ofInt 32 imm.toInt) 4 (fun v => boxed s.params (v.setWidth 32)) 4 := fp_on on

theorem exec_fsw (on : s.fpEnabled = true) : exec (.fsw r rs1 imm) s =
    s.store (s.readX rs1 + BitVec.ofInt 32 imm.toInt) 4 (s.readF r) 4 := fp_on on

theorem exec_fld (on : s.fpEnabledD = true) : exec (.fld r rs1 imm) s =
    s.load (.float r) (s.readX rs1 + BitVec.ofInt 32 imm.toInt) 8 (fun v => v) 4 := fp_on on

theorem exec_fsd (on : s.fpEnabledD = true) : exec (.fsd r rs1 imm) s =
    s.store (s.readX rs1 + BitVec.ofInt 32 imm.toInt) 8 (s.readF r) 4 := fp_on on

/-- A plain load of a single. -/
theorem load_single_gaveF (hw : s.mem.wf = true) (h : s.plainAccess .load a 4) :
    ∃ t g, s.mayFind (touches a 4) g ∧ s.load (.float r) a 4 (fun v => boxed s.params (v.setWidth 32)) 4 = .next t ∧
      s.gaveF t r (boxed s.params (BitVec.ofNat 32 (bytesOf g a 4))) 0 := by
  obtain ⟨-, h2, h3⟩ := plainAccess_checks h (by decide)
  obtain ⟨g, found, value⟩ := loadValue_found hw h (by decide) (by decide)
  obtain ⟨t, run, gave⟩ := load_gaveF (fd := r) (ext := fun v => boxed s.params (v.setWidth 32)) h2 h3 value rfl
  refine ⟨t, g, found, run, ?_⟩
  have raw : (if s.params.fpu = .double then boxed s.params ((BitVec.ofNat 64 (bytesOf g a 4)).setWidth 32)
      else ((boxed s.params ((BitVec.ofNat 64 (bytesOf g a 4)).setWidth 32)).setWidth 32).setWidth 64) =
      boxed s.params (BitVec.ofNat 32 (bytesOf g a 4)) := by
    rw [BitVec.setWidth_ofNat_of_le (by decide)]
    by_cases double : s.params.fpu = .double
    · rw [if_pos double]
    · simp [boxed, double]
  rwa [raw] at gave

/-- A plain load of a double. -/
theorem load_double_gaveF (hw : s.mem.wf = true) (double : s.params.fpu = .double) (h : s.plainAccess .load a 8)
    (upper : dataError s.params .load (a + 4) = false) :
    ∃ t g h, s.mayFind (touches a 4) g ∧ s.mayFind (touches (a + 4) 4) h ∧
      s.load (.float r) a 8 (fun v => v) 4 = .next t ∧
      s.gaveF t r (BitVec.ofNat 32 (bytesOf h (a + 4) 4) ++ BitVec.ofNat 32 (bytesOf g a 4)) 0 := by
  obtain ⟨h2, h3⟩ := plainAccess_double_checks h upper
  obtain ⟨align, window, -⟩ := h
  obtain ⟨g, h, found, found', value⟩ := loadValue_found_double hw window align
  obtain ⟨t, run, gave⟩ := load_gaveF (fd := r) (ext := fun v => v) h2 h3 value (if_pos double)
  exact ⟨t, g, h, found, found', run, gave⟩

end

/-- Settles O51. -/
theorem floatLoadsAndStores : Obligations.FloatLoadsAndStores := by
  intro s r rs1 imm hw hf hs a word traps
  have on := fpEnabled_on hf hs
  simp only [traps, exec_flw on, exec_fsw on]
  refine ⟨load_single_gaveF hw, fun h => store_stored hw h (by decide),
    fun h hm => ⟨load_misaligned h hm, store_misaligned h hm⟩, load_denied, store_denied (by decide), fun double => ?_⟩
  have on := fpEnabledD_on double hs
  simp only [exec_fld on, exec_fsd on]
  refine ⟨load_double_gaveF hw double, fun h upper => ?_,
    fun h hm => ⟨load_misaligned h hm, store_misaligned h hm⟩, load_denied, store_denied_double⟩
  obtain ⟨h2, h3⟩ := plainAccess_double_checks h upper
  obtain ⟨-, window, -⟩ := h
  exact store_stored_of_checks hw (by decide) window h2 h3

end Sys2Proof.Machine
end

section
/-! SUPPORT. The numbers of a binary format: the significand, exponent and value of a magnitude, and what a pattern stands for
(rule R29), tied to the model's unpacking and to `Fmt.value`. -/

namespace Sys2Proof.Machine

/-! ## Magnitudes -/

/-- A format with room for normal numbers and for two kinds of NaN. -/
def Fmt.regular (F : Fmt) : Prop := 2 ≤ F.expBits ∧ 1 ≤ F.fracBits

theorem regular_of_mem {F : Fmt} (h : F ∈ [b32, b64]) : F.regular := by
  simp only [List.mem_cons, List.not_mem_nil, or_false] at h
  rcases h with rfl | rfl <;> exact ⟨by decide, by decide⟩

/-- The integer that a magnitude scales: the fraction, with the hidden bit above it in a normal number. -/
def Fmt.significand (F : Fmt) (t : ℕ) : ℕ :=
  if t / 2 ^ F.fracBits = 0 then t % 2 ^ F.fracBits else t % 2 ^ F.fracBits + 2 ^ F.fracBits

/-- The exponent of the last place of a magnitude. -/
def Fmt.lastPlace (F : Fmt) (t : ℕ) : ℤ := F.minExp + (t / 2 ^ F.fracBits - 1 : ℕ)

/-- The value of a magnitude. Beyond the largest finite one this goes on as if the exponent had no bound. -/
def Fmt.magValue (F : Fmt) (K : Type) [Field K] (t : ℕ) : K := F.significand t * 2 ^ F.lastPlace t

section

variable {F : Fmt}

theorem significand_of_lt {t : ℕ} (h : t < 2 ^ F.fracBits) : F.significand t = t := by
  rw [Fmt.significand, if_pos (Nat.div_eq_of_lt h), Nat.mod_eq_of_lt h]

theorem lastPlace_of_lt {t : ℕ} (h : t < 2 ^ F.fracBits) : F.lastPlace t = F.minExp := by
  rw [Fmt.lastPlace, Nat.div_eq_of_lt h]; simp

/-- The significand and the exponent field of a normal magnitude. -/
theorem significand_normal {d k : ℕ} (hk : k < 2 ^ F.fracBits) :
    F.significand ((d + 1) * 2 ^ F.fracBits + k) = k + 2 ^ F.fracBits := by
  have pos : 0 < 2 ^ F.fracBits := by positivity
  rw [Fmt.significand, Nat.add_comm, Nat.add_mul_div_right _ _ pos, Nat.div_eq_of_lt hk, Nat.add_mul_mod_self_right,
    Nat.mod_eq_of_lt hk, if_neg (by omega)]

theorem lastPlace_normal {d k : ℕ} (hk : k < 2 ^ F.fracBits) :
    F.lastPlace ((d + 1) * 2 ^ F.fracBits + k) = F.minExp + d := by
  have pos : 0 < 2 ^ F.fracBits := by positivity
  rw [Fmt.lastPlace, Nat.add_comm, Nat.add_mul_div_right _ _ pos, Nat.div_eq_of_lt hk]
  simp

/-- A magnitude is a fraction, or a normal number. -/
theorem magnitude_cases (F : Fmt) (t : ℕ) :
    t < 2 ^ F.fracBits ∨ ∃ d k, k < 2 ^ F.fracBits ∧ t = (d + 1) * 2 ^ F.fracBits + k := by
  have pos : 0 < 2 ^ F.fracBits := by positivity
  refine (lt_or_ge t (2 ^ F.fracBits)).imp_right fun h => ?_
  obtain ⟨d, hd⟩ := Nat.exists_eq_add_of_le' ((Nat.one_le_div_iff pos).mpr h)
  exact ⟨d, t % 2 ^ F.fracBits, Nat.mod_lt _ pos, by rw [← hd, Nat.div_add_mod']⟩

end

section

variable {F : Fmt} {K : Type} [Field K] [LinearOrder K] [IsStrictOrderedRing K]

/-- Adding a significand to the exponent field gives the pattern of the scaled significand, also when it carries over. -/
theorem magValue_encode {d k : ℕ} (hk : k ≤ 2 ^ (F.fracBits + 1)) (h : d = 0 ∨ 2 ^ F.fracBits ≤ k) :
    F.magValue K (d * 2 ^ F.fracBits + k) = k * 2 ^ (F.minExp + d) := by
  have two : (2 : ℕ) ^ (F.fracBits + 1) = 2 * 2 ^ F.fracBits := by rw [pow_succ, Nat.mul_comm]
  rcases lt_or_ge k (2 ^ F.fracBits) with small | large
  · obtain rfl : d = 0 := h.resolve_right (not_le.mpr small)
    rw [Nat.zero_mul, Nat.zero_add, Fmt.magValue, significand_of_lt small, lastPlace_of_lt small]
    simp
  · obtain ⟨j, rfl⟩ := Nat.exists_eq_add_of_le' large
    have split : d * 2 ^ F.fracBits + (j + 2 ^ F.fracBits) = (d + 1) * 2 ^ F.fracBits + j := by ring
    rcases lt_or_ge j (2 ^ F.fracBits) with hj | hj
    · rw [split, Fmt.magValue, significand_normal hj, lastPlace_normal hj]
    · obtain rfl : j = 2 ^ F.fracBits := by omega
      have carry : (d + 1) * 2 ^ F.fracBits + 2 ^ F.fracBits = (d + 1 + 1) * 2 ^ F.fracBits + 0 := by ring
      rw [split, carry, Fmt.magValue, significand_normal (by positivity), lastPlace_normal (by positivity)]
      push_cast
      rw [← add_assoc, zpow_add_one₀ two_ne_zero]
      generalize (2 : K) ^ (F.minExp + d) = unit
      ring

/-- The next magnitude is one last place larger. -/
theorem magValue_succ (t : ℕ) : F.magValue K (t + 1) = F.magValue K t + 2 ^ F.lastPlace t := by
  have two : (2 : ℕ) ^ (F.fracBits + 1) = 2 * 2 ^ F.fracBits := by rw [pow_succ, Nat.mul_comm]
  rcases magnitude_cases F t with small | ⟨d, k, hk, rfl⟩
  · have next := magValue_encode (F := F) (K := K) (d := 0) (k := t + 1) (by omega) (.inl rfl)
    rw [Nat.zero_mul, Nat.zero_add] at next
    rw [next, Fmt.magValue, significand_of_lt small, lastPlace_of_lt small, Nat.cast_zero, add_zero,
      Nat.cast_succ, add_one_mul]
  · have next := magValue_encode (F := F) (K := K) (d := d) (k := k + 1 + 2 ^ F.fracBits) (by omega) (.inr (by omega))
    have split : (d + 1) * 2 ^ F.fracBits + k + 1 = d * 2 ^ F.fracBits + (k + 1 + 2 ^ F.fracBits) := by ring
    rw [split, next, Fmt.magValue, significand_normal hk, lastPlace_normal hk]
    push_cast
    ring

theorem magValue_strictMono (F : Fmt) (K : Type) [Field K] [LinearOrder K] [IsStrictOrderedRing K] :
    StrictMono (F.magValue K) :=
  strictMono_nat_of_lt_succ fun t => by
    rw [magValue_succ]
    exact lt_add_of_pos_right _ (by positivity)

@[simp] theorem magValue_zero : F.magValue K 0 = 0 := by
  rw [Fmt.magValue, significand_of_lt (by positivity)]; simp

theorem magValue_nonneg (t : ℕ) : 0 ≤ F.magValue K t := by
  rw [Fmt.magValue]; positivity

theorem magValue_pos {t : ℕ} (h : 0 < t) : 0 < F.magValue K t := by
  rw [← magValue_zero (F := F)]
  exact magValue_strictMono F K h

theorem magValue_eq_zero_iff {t : ℕ} : F.magValue K t = 0 ↔ t = 0 := by
  rw [← magValue_zero (F := F), (magValue_strictMono F K).injective.eq_iff]

theorem cast_magValue (F : Fmt) (t : ℕ) : ((F.magValue ℚ t : ℚ) : ℝ) = F.magValue ℝ t := by
  simp [Fmt.magValue]

end

/-! ## Patterns (rule R29) -/

section

variable {F : Fmt} {b : ℕ}

theorem expMax_pos (hF : F.regular) : 2 ≤ F.expMax := by
  have : 2 ^ 2 ≤ 2 ^ F.expBits := Nat.pow_le_pow_right (by decide) hF.1
  unfold Fmt.expMax
  omega

/-- Above the pattern of infinity one exponent's worth of NaNs is left. -/
theorem signBit_eq (F : Fmt) : F.signBit = F.infBits + 2 ^ F.fracBits := by
  have pos : 0 < 2 ^ F.expBits := by positivity
  have one : F.expMax + 1 = 2 ^ F.expBits := by unfold Fmt.expMax; omega
  rw [Fmt.signBit, Fmt.infBits, pow_add, ← one]
  ring

theorem infBits_pos (hF : F.regular) : 0 < F.infBits := by
  have := expMax_pos hF
  unfold Fmt.infBits
  positivity

theorem infBits_lt_signBit (F : Fmt) : F.infBits < F.signBit := by
  rw [signBit_eq]
  exact Nat.lt_add_of_pos_right (by positivity)

theorem even_fracUnit (hF : F.regular) : 2 ^ F.fracBits % 2 = 0 := by
  obtain ⟨f, hf⟩ := Nat.exists_eq_add_of_le' hF.2
  rw [hf, pow_succ, Nat.mul_mod_left]

theorem even_infBits (hF : F.regular) : F.infBits % 2 = 0 := by
  rw [Fmt.infBits, Nat.mul_mod, even_fracUnit hF, Nat.mul_zero, Nat.zero_mod]

theorem even_signBit (hF : F.regular) : F.signBit % 2 = 0 := by
  rw [signBit_eq, Nat.add_mod, even_infBits hF, even_fracUnit hF]

@[simp] theorem isNeg_iff : F.isNeg b = true ↔ F.signBit ≤ b := by simp [Fmt.isNeg]

/-- A pattern is its sign and its magnitude. -/
theorem signed_magnitude (h : F.isPattern b) : F.signed (F.isNeg b) (b % F.signBit) = b := by
  unfold Fmt.isPattern at h
  unfold Fmt.signed Fmt.isNeg
  rcases lt_or_ge b F.signBit with low | high
  · simp [Nat.mod_eq_of_lt low, low]
  · rw [Nat.mod_eq_sub_mod high, Nat.mod_eq_of_lt (by omega)]
    simp only [high, decide_true, if_true]
    omega

section

variable {neg : Bool} {t : ℕ}

theorem signed_eq (neg : Bool) (t : ℕ) : F.signed neg t = t + if neg then F.signBit else 0 := by
  cases neg <;> simp [Fmt.signed, Nat.add_comm]

theorem signed_isPattern (h : t < F.signBit) : F.isPattern (F.signed neg t) := by
  unfold Fmt.isPattern
  cases neg
  · show t < _
    omega
  · show F.signBit + t < _
    omega

theorem signed_mod (h : t < F.signBit) : F.signed neg t % F.signBit = t := by
  cases neg <;> simp [Fmt.signed, Nat.mod_eq_of_lt h]

theorem signBit_le_signed (h : t < F.signBit) : F.signBit ≤ F.signed neg t ↔ neg = true := by
  cases neg <;> simp [Fmt.signed, h]

theorem isNeg_signed (h : t < F.signBit) : F.isNeg (F.signed neg t) = neg := by
  rw [Bool.eq_iff_iff, isNeg_iff, signBit_le_signed h]

theorem signed_isFinite (h : t < F.infBits) : F.isFinite (F.signed neg t) := by
  have lt := h.trans (infBits_lt_signBit F)
  exact ⟨signed_isPattern lt, by rwa [signed_mod lt]⟩

theorem signed_isInf : F.isInf (F.signed neg F.infBits) :=
  ⟨signed_isPattern (infBits_lt_signBit F), signed_mod (infBits_lt_signBit F)⟩

theorem signed_even (hF : F.regular) : F.signed neg t % 2 = t % 2 := by
  have := even_signBit hF
  cases neg
  · rfl
  · show (F.signBit + t) % 2 = _
    omega

end

/-- The fields of a pattern are those of its magnitude. -/
theorem mod_signBit_mod (F : Fmt) (b : ℕ) : b % F.signBit % 2 ^ F.fracBits = b % 2 ^ F.fracBits :=
  Nat.mod_mod_of_dvd b (pow_dvd_pow 2 (Nat.le_add_left _ _))

/-- The exponent field is all ones in infinities and NaNs only. -/
theorem expField_eq_expMax_iff (F : Fmt) (b : ℕ) :
    b % F.signBit / 2 ^ F.fracBits = F.expMax ↔ F.infBits ≤ b % F.signBit := by
  have pos : 0 < 2 ^ F.fracBits := by positivity
  have lt : b % F.signBit < F.infBits + 2 ^ F.fracBits := signBit_eq F ▸ Nat.mod_lt _ (by unfold Fmt.signBit; positivity)
  rw [Nat.div_eq_iff pos, Fmt.infBits] at *
  omega

theorem unpack_eq (F : Fmt) (b : ℕ) : F.unpack b =
    if b % F.signBit / 2 ^ F.fracBits = F.expMax then
      if b % F.signBit % 2 ^ F.fracBits = 0 then .inf (F.isNeg b)
      else .nan (decide (b % F.signBit % 2 ^ F.fracBits < 2 ^ (F.fracBits - 1)))
    else if b % F.signBit / 2 ^ F.fracBits = 0 then .fin (F.isNeg b) (b % F.signBit % 2 ^ F.fracBits) F.minExp
    else .fin (F.isNeg b) (b % F.signBit % 2 ^ F.fracBits + 2 ^ F.fracBits)
      (F.minExp + (b % F.signBit / 2 ^ F.fracBits - 1 : ℕ)) := rfl

theorem unpack_finite (h : F.isFinite b) :
    F.unpack b = .fin (F.isNeg b) (F.significand (b % F.signBit)) (F.lastPlace (b % F.signBit)) := by
  obtain ⟨-, finite⟩ := h
  have field : b % F.signBit / 2 ^ F.fracBits ≠ F.expMax := by
    rw [Ne, expField_eq_expMax_iff]
    omega
  rw [unpack_eq, if_neg field, Fmt.significand, Fmt.lastPlace]
  split
  · simp [*]
  · rfl

theorem unpack_inf (h : F.isInf b) : F.unpack b = .inf (F.isNeg b) := by
  obtain ⟨-, inf⟩ := h
  have field : b % F.signBit / 2 ^ F.fracBits = F.expMax := by rw [expField_eq_expMax_iff, inf]
  have fraction : b % F.signBit % 2 ^ F.fracBits = 0 := by rw [inf, Fmt.infBits, Nat.mul_mod_left]
  rw [unpack_eq, if_pos field, if_pos fraction]

theorem unpack_nan (hF : F.regular) (h : F.nanPattern b) :
    ∃ sig, F.unpack b = .nan sig ∧ (sig = true ↔ F.signalling b) := by
  obtain ⟨-, nan⟩ := id h
  have field : b % F.signBit / 2 ^ F.fracBits = F.expMax := by rw [expField_eq_expMax_iff]; omega
  have fraction : b % F.signBit % 2 ^ F.fracBits ≠ 0 := fun zero => by
    have whole := Nat.div_add_mod' (b % F.signBit) (2 ^ F.fracBits)
    rw [field, zero] at whole
    unfold Fmt.infBits at nan
    omega
  refine ⟨_, by rw [unpack_eq, if_pos field, if_neg fraction], ?_⟩
  rw [decide_eq_true_eq, mod_signBit_mod, Fmt.signalling, and_iff_right h]
  obtain ⟨f, hf⟩ := Nat.exists_eq_add_of_le' hF.2
  have pos : 0 < 2 ^ f := by positivity
  have top : b % 2 ^ (f + 1) / 2 ^ f = b / 2 ^ f % 2 := by rw [pow_succ, Nat.mod_mul_right_div_self]
  rw [hf, Nat.add_sub_cancel, ← top, Nat.div_eq_zero_iff_lt pos]

/-- What a pattern is. -/
theorem pattern_cases (h : F.isPattern b) : F.isFinite b ∨ F.isInf b ∨ F.nanPattern b := by
  rcases lt_trichotomy (b % F.signBit) F.infBits with lt | eq | gt
  · exact .inl ⟨h, lt⟩
  · exact .inr (.inl ⟨h, eq⟩)
  · exact .inr (.inr ⟨h, gt⟩)

/-- The number with a sign. -/
def signedRat (neg : Bool) (w : ℚ) : ℚ := if neg then -w else w

@[simp] theorem signedRat_false (w : ℚ) : signedRat false w = w := rfl

@[simp] theorem signedRat_true (w : ℚ) : signedRat true w = -w := rfl

/-- The value of a pattern is its sign and the value of its magnitude. -/
theorem value_eq (F : Fmt) (b : ℕ) : F.value b = signedRat (F.isNeg b) (F.magValue ℚ (b % F.signBit)) := by
  have pos : 0 < F.signBit := by unfold Fmt.signBit; positivity
  have sign : (if b / F.signBit = 0 then (1 : ℚ) else -1) = if F.isNeg b then -1 else 1 := by
    rw [Fmt.isNeg]
    rcases lt_or_ge b F.signBit with low | high
    · simp [Nat.div_eq_of_lt low, low]
    · simp [(Nat.div_pos high pos).ne', high]
  have place : b % F.signBit / 2 ^ F.fracBits ≠ 0 →
      F.minExp + ((b % F.signBit / 2 ^ F.fracBits : ℕ) : ℤ) - 1 = F.lastPlace (b % F.signBit) := fun normal => by
    unfold Fmt.lastPlace
    generalize b % F.signBit / 2 ^ F.fracBits = field at normal
    omega
  unfold Fmt.value
  simp only [sign]
  rw [← mod_signBit_mod F b, Fmt.magValue, Fmt.significand]
  split
  · simp only [signedRat, Fmt.lastPlace, *]
    split <;> simp
  · rw [place ‹_›, signedRat]
    split <;> push_cast <;> ring

theorem value_signed {neg : Bool} {t : ℕ} (h : t < F.signBit) :
    F.value (F.signed neg t) = signedRat neg (F.magValue ℚ t) := by
  rw [value_eq, isNeg_signed h, signed_mod h]

theorem value_eq_zero_iff : F.value b = 0 ↔ b % F.signBit = 0 := by
  rw [value_eq, ← magValue_eq_zero_iff (F := F) (K := ℚ)]
  cases F.isNeg b <;> simp

end

end Sys2Proof.Machine
end

section
/-! SUPPORT. Rounding to a grid: a strictly increasing sequence of numbers, between two of which the exact number lies. The
integers, the significands at one exponent and the magnitudes of a format are such grids (rule R382). -/

namespace Sys2Proof.Machine

/-! ## Directions -/

/-- What a rounding mode does with a magnitude: it keeps the grid point below, takes the one above, or the nearest, where a tie
goes to the even one or to the larger one. -/
inductive Direction where
  | down
  | up
  | even
  | away

/-- The direction of a mode for numbers of a sign (rule R382). -/
def Rounding.direction (mode : Rounding) (neg : Bool) : Direction :=
  match mode with
  | .rne => .even
  | .rtz => .down
  | .rdn => if neg then .up else .down
  | .rup => if neg then .down else .up
  | .rmm => .away

/-- The grid point above is taken. -/
def Direction.stepsUp (d : Direction) (kept : ℕ) (half : Ordering) (inexact : Bool) : Bool :=
  match d with
  | .down => false
  | .up => inexact
  | .even => half == .gt || (half == .eq && kept % 2 == 1)
  | .away => half != .lt

theorem roundsUp_eq (mode : Rounding) (neg : Bool) (kept : ℕ) (half : Ordering) (inexact : Bool) :
    roundsUp mode neg kept half inexact = (mode.direction neg).stepsUp kept half inexact := by
  cases mode
  case rdn => cases neg <;> rfl
  case rup => cases neg <;> rfl
  all_goals rfl

/-- The point that the direction takes. -/
def Direction.taken (d : Direction) (kept : ℕ) (half : Ordering) (inexact : Bool) : ℕ :=
  if d.stepsUp kept half inexact then kept + 1 else kept

/-- An even number of points below change nothing. -/
theorem taken_add (d : Direction) {e : ℕ} (even : e % 2 = 0) (kept : ℕ) (half : Ordering) (inexact : Bool) :
    d.taken (e + kept) half inexact = e + d.taken kept half inexact := by
  have same : (e + kept) % 2 = kept % 2 := by omega
  have steps : d.stepsUp (e + kept) half inexact = d.stepsUp kept half inexact := by
    cases d <;> simp only [Direction.stepsUp, same]
  rw [Direction.taken, Direction.taken, steps]
  split <;> rfl

section

variable {K : Type} [Field K] [LinearOrder K]

/-- `w` rounded in the direction is at least `hi`, where `lo` is the grid point next below `hi`, and `hi` is even. -/
def Direction.reaches (d : Direction) (w lo hi : K) : Prop :=
  match d with
  | .down => hi ≤ w
  | .up => lo < w
  | .even | .away => (lo + hi) / 2 ≤ w

/-- `w` lies at or above point `t` of the grid and below the next one; `half` says how it compares with their midpoint, and
`inexact` that it is not point `t`. -/
structure OnGrid (g : ℕ → K) (w : K) (t : ℕ) (half : Ordering) (inexact : Bool) : Prop where
  lower : g t ≤ w
  upper : w < g (t + 1)
  half : half.Compares (2 * w) (g t + g (t + 1))
  inexact : inexact = true ↔ g t ≠ w

/-- `w` rounded to the grid in a direction is point `n`. -/
def RoundsOnGrid (g : ℕ → K) (d : Direction) (w : K) (n : ℕ) (inexact : Bool) : Prop :=
  ∃ t half, OnGrid g w t half inexact ∧ n = d.taken t half inexact

/-- Only the two points around the number matter. -/
theorem OnGrid.transfer {g h : ℕ → K} {w : K} {t u : ℕ} {half : Ordering} {inexact : Bool}
    (on : OnGrid g w t half inexact) (lower : h u = g t) (upper : h (u + 1) = g (t + 1)) : OnGrid h w u half inexact where
  lower := lower ▸ on.lower
  upper := upper ▸ on.upper
  half := by rw [lower, upper]; exact on.half
  inexact := by rw [lower]; exact on.inexact

end

/-! ## What rounding to a grid gives -/

section

variable {K : Type} [Field K] [LinearOrder K] [IsStrictOrderedRing K]
variable {g : ℕ → K} {d : Direction} {w lo hi : K} {n : ℕ} {inexact : Bool}

theorem reaches_of_le (hlt : lo < hi) (h : hi ≤ w) : d.reaches w lo hi := by
  cases d <;> simp only [Direction.reaches] <;> linarith

theorem lt_of_reaches (hlt : lo < hi) (h : d.reaches w lo hi) : lo < w := by
  cases d <;> simp only [Direction.reaches] at h <;> linarith

/-- Rounding keeps the point below, or steps to the one above. -/
theorem RoundsOnGrid.cases (h : RoundsOnGrid g d w n inexact) :
    (g n ≤ w ∧ w < g (n + 1) ∧ (inexact = true ↔ g n ≠ w) ∧ (d = .up → g n = w) ∧
      (d = .even → 2 * w ≤ g n + g (n + 1) ∧ (2 * w = g n + g (n + 1) → n % 2 = 0)) ∧
      (d = .away → 2 * w < g n + g (n + 1))) ∨
    ∃ t, n = t + 1 ∧ g t < w ∧ w < g (t + 1) ∧ inexact = true ∧ d ≠ .down ∧
      (d = .even → g t + g (t + 1) ≤ 2 * w ∧ (2 * w = g t + g (t + 1) → t % 2 = 1)) ∧
      (d = .away → g t + g (t + 1) ≤ 2 * w) := by
  obtain ⟨t, half, ⟨lower, upper, mid, exact_⟩, rfl⟩ := h
  unfold Direction.taken
  by_cases steps : d.stepsUp t half inexact = true
  · rw [if_pos steps]
    have apart : g t ≠ w := fun eq => by
      have exact' : inexact = false := by simpa using mt exact_.mp (not_not.mpr eq)
      have low : half = .lt := by
        have : 2 * w < g t + g (t + 1) := by rw [eq]; linarith
        cases half
        · rfl
        · exact absurd mid this.ne
        · exact absurd mid (lt_asymm this)
      cases d <;> simp [Direction.stepsUp, exact', low] at steps
    refine .inr ⟨t, rfl, lt_of_le_of_ne lower apart, upper, exact_.mpr apart, ?_, ?_, ?_⟩
    · rintro rfl
      simp [Direction.stepsUp] at steps
    · rintro rfl
      cases half
      · simp [Direction.stepsUp] at steps
      · exact ⟨(show 2 * w = _ from mid).ge, fun _ => by simpa [Direction.stepsUp] using steps⟩
      · exact ⟨(show _ < 2 * w from mid).le, fun eq => absurd eq (show _ < 2 * w from mid).ne'⟩
    · rintro rfl
      cases half
      · simp [Direction.stepsUp] at steps
      · exact (show 2 * w = _ from mid).ge
      · exact (show _ < 2 * w from mid).le
  · rw [if_neg steps]
    refine .inl ⟨lower, upper, exact_, ?_, ?_, ?_⟩
    · rintro rfl
      exact not_not.mp fun ne => steps (exact_.mpr ne)
    · rintro rfl
      cases half
      · exact ⟨(show 2 * w < _ from mid).le, fun eq => absurd eq (show 2 * w < _ from mid).ne⟩
      · exact ⟨(show 2 * w = _ from mid).le, fun _ => by simpa [Direction.stepsUp] using steps⟩
      · simp [Direction.stepsUp] at steps
    · rintro rfl
      cases half
      · exact mid
      · simp [Direction.stepsUp] at steps
      · simp [Direction.stepsUp] at steps

/-- Rounding is inexact exactly when the result is not the number. -/
theorem RoundsOnGrid.inexact_iff (h : RoundsOnGrid g d w n inexact) : inexact = true ↔ g n ≠ w := by
  rcases h.cases with ⟨-, -, exact_, -⟩ | ⟨t, rfl, -, upper, inexact, -⟩
  · exact exact_
  · simp [inexact, upper.ne']

theorem RoundsOnGrid.down (h : RoundsOnGrid g .down w n inexact) : g n ≤ w ∧ w < g (n + 1) := by
  rcases h.cases with ⟨lower, upper, -⟩ | ⟨t, -, -, -, -, no, -⟩
  · exact ⟨lower, upper⟩
  · exact absurd rfl no

section

variable (mono : StrictMono g)

include mono

theorem RoundsOnGrid.up (h : RoundsOnGrid g .up w n inexact) : w ≤ g n ∧ ∀ k, w ≤ g k → g n ≤ g k := by
  rcases h.cases with ⟨-, -, -, exact_, -⟩ | ⟨t, rfl, lower, upper, -⟩
  · have eq := exact_ rfl
    exact ⟨eq.ge, fun k le => eq.trans_le le⟩
  · exact ⟨upper.le, fun k le => mono.monotone (mono.lt_iff_lt.mp (lower.trans_le le))⟩

/-- No point is nearer than the one that a nearest direction takes; of two as near it is the even or the larger one. -/
theorem RoundsOnGrid.nearest (h : RoundsOnGrid g d w n inexact) (hd : d = .even ∨ d = .away) {k : ℕ} (hk : k ≠ n) :
    |g n - w| < |g k - w| ∨
      |g n - w| = |g k - w| ∧ (d = .even → n % 2 = 0) ∧ (d = .away → g k < g n) := by
  rcases h.cases with ⟨lower, upper, -, -, even, away⟩ | ⟨t, rfl, lower, upper, -, -, even, away⟩
  · rw [abs_of_nonpos (sub_nonpos.mpr lower)]
    rcases hk.lt_or_gt with less | more
    · have := mono less
      rw [abs_of_nonpos (by linarith)]
      exact .inl (by linarith)
    · have next := mono.monotone (show n + 1 ≤ k from more)
      rw [abs_of_nonneg (by linarith)]
      rcases hd with rfl | rfl
      · obtain ⟨le, tie⟩ := even rfl
        rcases (show -(g n - w) ≤ g k - w by linarith).lt_or_eq with lt | eq
        · exact .inl lt
        · exact .inr ⟨eq, fun _ => tie (by linarith), nofun⟩
      · have := away rfl
        exact .inl (by linarith)
  · rw [abs_of_nonneg (sub_nonneg.mpr upper.le)]
    rcases hk.lt_or_gt with less | more
    · have prev := mono.monotone (show k ≤ t from Nat.lt_succ_iff.mp less)
      rw [abs_of_nonpos (by linarith)]
      have le : g t + g (t + 1) ≤ 2 * w := by
        rcases hd with rfl | rfl
        · exact (even rfl).1
        · exact away rfl
      rcases (show g (t + 1) - w ≤ -(g k - w) by linarith).lt_or_eq with lt | eq
      · exact .inl lt
      · refine .inr ⟨eq, fun he => ?_, fun _ => mono less⟩
        have odd := (even he).2 (by linarith)
        omega
    · have next := mono more
      rw [abs_of_nonneg (by linarith)]
      exact .inl (by linarith)

/-- The result is point `N + 1` or beyond exactly when the number reaches that far. -/
theorem RoundsOnGrid.lt_iff_reaches (h : RoundsOnGrid g d w n inexact) {N : ℕ} (odd : N % 2 = 1) :
    N < n ↔ d.reaches w (g N) (g (N + 1)) := by
  have step : g N < g (N + 1) := mono (Nat.lt_succ_self N)
  have above {k : ℕ} (lt : N < k) (le : g k ≤ w) : d.reaches w (g N) (g (N + 1)) :=
    reaches_of_le step ((mono.monotone lt).trans le)
  have below {k : ℕ} (lt : w < g k) (le : k ≤ N) : ¬ d.reaches w (g N) (g (N + 1)) := fun reach =>
    lt_asymm (lt_of_reaches step reach) (lt.trans_le (mono.monotone le))
  rcases h.cases with ⟨lower, upper, -, up, even, away⟩ | ⟨t, rfl, lower, upper, -, down, even, away⟩
  · rcases lt_trichotomy N n with lt | rfl | gt
    · exact iff_of_true lt (above lt lower)
    · refine iff_of_false (lt_irrefl _) fun reach => ?_
      cases d <;> simp only [Direction.reaches] at reach
      case down => exact not_lt.mpr reach upper
      case up => exact reach.ne (up rfl)
      case even =>
        obtain ⟨near, tie⟩ := even rfl
        have := tie (by linarith)
        omega
      case away =>
        have := away rfl
        linarith
    · exact iff_of_false (lt_asymm gt) (below upper gt)
  · rcases lt_trichotomy N t with lt | rfl | gt
    · exact iff_of_true (lt.trans (Nat.lt_succ_self t)) (above lt lower.le)
    · refine iff_of_true (Nat.lt_succ_self N) ?_
      cases d <;> simp only [Direction.reaches]
      case down => exact absurd rfl down
      case up => exact lower
      case even =>
        obtain ⟨near, -⟩ := even rfl
        linarith
      case away =>
        have := away rfl
        linarith
    · exact iff_of_false (by omega) (below upper gt)

/-- A point of the grid rounds to itself. -/
theorem RoundsOnGrid.point {k : ℕ} (h : RoundsOnGrid g d (g k) n inexact) : n = k ∧ inexact = false := by
  obtain ⟨t, half, on, -⟩ := id h
  have kept : t = k := by
    have le : t ≤ k := mono.le_iff_le.mp on.lower
    have lt : k < t + 1 := mono.lt_iff_lt.mp on.upper
    omega
  have exact_ : inexact = false := by simpa [kept] using on.inexact
  exact ⟨mono.injective (by simpa [exact_] using h.inexact_iff), exact_⟩

end

end

/-! ## Shifting bits out (rule R382) -/

section

variable {K : Type} [Field K] [LinearOrder K]

/-- The exact number is `m * 2 ^ e`, or lies above it and below the next multiple when `sticky`. -/
def Encloses (m : ℕ) (e : ℤ) (sticky : Bool) (w : K) : Prop :=
  if sticky then (m : K) * 2 ^ e < w ∧ w < ((m : K) + 1) * 2 ^ e else w = (m : K) * 2 ^ e

/-- The multiples of a power of two. -/
def multiples (K : Type) [Field K] (e : ℤ) (n : ℕ) : K := n * 2 ^ e

theorem multiples_strictMono [IsStrictOrderedRing K] (e : ℤ) : StrictMono (multiples K e) := fun a b h =>
  mul_lt_mul_of_pos_right (Nat.cast_lt.mpr h) (by positivity)

variable {m : ℕ} {e : ℤ} {sticky : Bool} {w : K}

theorem Encloses.lower (h : Encloses m e sticky w) : (m : K) * 2 ^ e ≤ w := by
  unfold Encloses at h
  split at h
  · exact h.1.le
  · exact h.ge

variable [IsStrictOrderedRing K]

theorem Encloses.upper (h : Encloses m e sticky w) : w < ((m : K) + 1) * 2 ^ e := by
  unfold Encloses at h
  have : (0 : K) < 2 ^ e := by positivity
  split at h
  · exact h.2
  · rw [h]; linarith

/-- How a rest of `r` units, and more when `sticky`, compares with `c` of them. -/
def halfOf (r c : ℕ) (sticky : Bool) : Ordering :=
  match compare r c with
  | .eq => if sticky then .gt else .eq
  | o => o

/-- That is how the number compares with the middle of `2 * c` units. -/
theorem halfOf_compares {r c : ℕ} {base unit : K} (pos : 0 < unit) (upper : w < base + (r + 1) * unit)
    (exactly : sticky = false → w = base + r * unit) (above : sticky = true → base + r * unit < w) :
    (halfOf r c sticky).Compares (2 * w) (base + (base + 2 * c * unit)) := by
  have lower : base + r * unit ≤ w := by
    cases sticky
    · exact (exactly rfl).ge
    · exact (above rfl).le
  unfold halfOf
  rcases lt_trichotomy r c with lt | rfl | gt
  · rw [compare_lt_iff_lt.mpr lt]
    have : ((r : K) + 1) * unit ≤ c * unit := mul_le_mul_of_nonneg_right (by exact_mod_cast lt) pos.le
    show 2 * w < _
    linarith
  · rw [compare_eq_iff_eq.mpr rfl]
    cases sticky
    · show 2 * w = _
      linarith [exactly rfl]
    · show _ < 2 * w
      linarith [above rfl]
  · rw [compare_gt_iff_gt.mpr gt]
    have : ((c : K) + 1) * unit ≤ r * unit := mul_le_mul_of_nonneg_right (by exact_mod_cast gt) pos.le
    show _ < 2 * w
    linarith

/-- A number that is a multiple of `2 * c` units and a rest lies on the grid of these multiples. -/
theorem Encloses.onGrid (h : Encloses m e sticky w) {g : ℕ → K} {k r c : ℕ} (whole : k * (2 * c) + r = m)
    (rest : r < 2 * c) (point : ∀ k : ℕ, g k = (k : K) * (2 * c) * 2 ^ e) :
    OnGrid g w k (halfOf r c sticky) (r != 0 || sticky) := by
  have unit : (0 : K) < 2 ^ e := by positivity
  have cast : (m : K) * 2 ^ e = g k + r * 2 ^ e := by
    rw [point, ← add_mul]
    congr 1
    exact_mod_cast whole.symm
  have next : g (k + 1) = g k + 2 * c * 2 ^ e := by
    rw [point, point, Nat.cast_succ]
    ring
  have lower := h.lower
  have upper := h.upper
  have exactly : sticky = false → w = m * 2 ^ e := fun off => by simpa [Encloses, off] using h
  have above : sticky = true → m * 2 ^ e < w := fun on => (by simpa [Encloses, on] using h : _ ∧ _).1
  rw [add_one_mul, cast, add_assoc, ← add_one_mul] at upper
  rw [cast] at lower exactly above
  have beyond : 0 ≤ (r : K) * 2 ^ e := by positivity
  have room : ((r : K) + 1) * 2 ^ e ≤ 2 * c * 2 ^ e := mul_le_mul_of_nonneg_right (by exact_mod_cast rest) unit.le
  refine ⟨by linarith, by rw [next]; linarith, by rw [next]; exact halfOf_compares unit upper exactly above, ?_⟩
  cases sticky
  · rw [exactly rfl, ne_eq, left_eq_add]
    simp [unit.ne']
  · simp only [Bool.or_true, true_iff]
    exact ne_of_lt (by linarith [above rfl])

/-- A number with its low bits rounded away lies on the grid of the multiples that are left. -/
theorem roundShift_onGrid (mode : Rounding) (neg : Bool) (h : Encloses m e sticky w) {s : ℕ} (hs : 0 < s) :
    ∃ half inexact, OnGrid (multiples K (e + s)) w (m / 2 ^ s) half inexact ∧
      roundShift mode neg m s sticky = ((mode.direction neg).taken (m / 2 ^ s) half inexact, inexact) := by
  refine ⟨halfOf (m % 2 ^ s) (2 ^ (s - 1)) sticky, m % 2 ^ s != 0 || sticky, ?_, ?_⟩
  · have double : 2 * 2 ^ (s - 1) = 2 ^ s := by rw [← pow_succ', Nat.sub_add_cancel hs]
    refine h.onGrid (by rw [double, Nat.div_add_mod']) (by rw [double]; exact Nat.mod_lt _ (by positivity)) fun k => ?_
    have cast : (2 : K) * (2 ^ (s - 1) : ℕ) = 2 ^ s := by exact_mod_cast double
    rw [multiples, cast, zpow_add₀ two_ne_zero, zpow_natCast]
    ring
  · simp only [roundShift, if_neg hs.ne', roundsUp_eq]
    rfl

end

end Sys2Proof.Machine
end

section
/-! SUPPORT. The one rounding at the end of every operation, `Fmt.round`: it rounds to the grid of the format's magnitudes, with
the flags of that rounding (rules R382, R384). -/

namespace Sys2Proof.Machine

/-! ## Where a number lies -/

section

variable {K : Type} [Field K] [LinearOrder K] [IsStrictOrderedRing K]
variable {w : K} {m : ℕ} {e : ℤ} {sticky : Bool}

theorem bitLength_spec (hm : 0 < m) : 2 ^ (bitLength m - 1) ≤ m ∧ m < 2 ^ bitLength m ∧ 0 < bitLength m := by
  rw [bitLength, if_neg hm.ne']
  exact ⟨Nat.log2_self_le hm.ne', Nat.lt_log2_self, Nat.succ_pos _⟩

/-- A number lies between the powers of two that its bits say. -/
theorem Encloses.range (h : Encloses m e sticky w) (hm : 0 < m) :
    2 ^ (e + bitLength m - 1) ≤ w ∧ w < 2 ^ (e + bitLength m) := by
  obtain ⟨low, high, pos⟩ := bitLength_spec hm
  have unit : (0 : K) < 2 ^ e := by positivity
  constructor
  · have : ((2 ^ (bitLength m - 1) : ℕ) : K) * 2 ^ e ≤ m * 2 ^ e :=
      mul_le_mul_of_nonneg_right (Nat.cast_le.mpr low) unit.le
    refine le_trans (le_of_eq ?_) (this.trans h.lower)
    rw [Nat.cast_pow, Nat.cast_ofNat, ← zpow_natCast, ← zpow_add₀ two_ne_zero]
    congr 1
    omega
  · have : ((m : K) + 1) * 2 ^ e ≤ ((2 ^ bitLength m : ℕ) : K) * 2 ^ e :=
      mul_le_mul_of_nonneg_right (by exact_mod_cast high) unit.le
    refine lt_of_lt_of_le h.upper (this.trans (le_of_eq ?_))
    rw [Nat.cast_pow, Nat.cast_ofNat, ← zpow_natCast, ← zpow_add₀ two_ne_zero, add_comm e]

end

/-! ## Rounding at an exponent -/

/-- The number in units of an exponent, rounded, and whether that is inexact: what `Fmt.round` does at the exponent that it
chooses. -/
def scaledTo (mode : Rounding) (neg : Bool) (m : ℕ) (e : ℤ) (sticky : Bool) (place : ℤ) : ℕ × Bool :=
  if place ≤ e then (m * 2 ^ (e - place).toNat, sticky) else roundShift mode neg m (place - e).toNat sticky

/-- The magnitude that an overflow delivers: the largest finite number toward zero, else infinity (rule R384). -/
def Fmt.overflowMagnitude (F : Fmt) : Direction → ℕ
  | .down => F.infBits - 1
  | .up | .even | .away => F.infBits

/-- The magnitude that a rounded one delivers. -/
def Fmt.delivered (F : Fmt) (d : Direction) (mag : ℕ) : ℕ := if F.infBits ≤ mag then F.overflowMagnitude d else mag

/-- A rounded magnitude with its sign and flags. -/
def Fmt.pack (F : Fmt) (d : Direction) (neg : Bool) (mag : ℕ) (inexact tiny : Bool) : FpResult :=
  { bits := F.signed neg (F.delivered d mag)
    flags := if F.infBits ≤ mag then flagOF ||| flagNX else flagIf inexact flagNX ||| flagIf (tiny && inexact) flagUF }

/-- The exponent that keeps all of the format's bits of a number. -/
def Fmt.freePlace (F : Fmt) (m : ℕ) (e : ℤ) : ℤ := e + bitLength m - (F.fracBits + 1 : ℕ)

theorem pack_eq (F : Fmt) (d : Direction) (neg : Bool) (mag : ℕ) (inexact tiny : Bool) : F.pack d neg mag inexact tiny =
    if F.infBits ≤ mag then
      { bits := F.signed neg (F.overflowMagnitude d), flags := flagOF ||| flagNX }
    else
      { bits := F.signed neg mag, flags := flagIf inexact flagNX ||| flagIf (tiny && inexact) flagUF } := by
  unfold Fmt.pack Fmt.delivered
  split <;> rfl

/-- `Fmt.round` by its parts. -/
theorem round_eq (F : Fmt) (mode : Rounding) (neg : Bool) (m : ℕ) (e : ℤ) (sticky : Bool) :
    F.round mode neg m e sticky =
      let place := max (F.freePlace m e) F.minExp
      F.pack (mode.direction neg) neg ((place - F.minExp).toNat * 2 ^ F.fracBits + (scaledTo mode neg m e sticky place).1)
        (scaledTo mode neg m e sticky place).2
        (decide (F.freePlace m e < F.minExp) &&
          !(decide (F.freePlace m e + 1 = F.minExp) &&
            (scaledTo mode neg m e sticky (F.freePlace m e)).1 == 2 ^ (F.fracBits + 1))) := by
  have toInf : F.overflowBits mode neg = F.overflowMagnitude (mode.direction neg) := by
    cases mode
    case rdn => cases neg <;> rfl
    case rup => cases neg <;> rfl
    all_goals rfl
  rw [pack_eq, ← toInf]
  rfl

section

variable {K : Type} [Field K] [LinearOrder K] [IsStrictOrderedRing K]
variable {F : Fmt} {mode : Rounding} {neg : Bool} {w : K} {m : ℕ} {e : ℤ} {sticky : Bool}

theorem scaledTo_onGrid (h : Encloses m e sticky w) {place : ℤ} (hs : sticky = true → e < place) :
    ∃ t half inexact, OnGrid (multiples K place) w t half inexact ∧
      scaledTo mode neg m e sticky place = ((mode.direction neg).taken t half inexact, inexact) := by
  rcases le_or_gt place e with le | gt
  · obtain rfl : sticky = false := eq_false_of_ne_true fun on => not_lt.mpr le (hs on)
    have value : multiples K place (m * 2 ^ (e - place).toNat) = w := by
      have exact_ : w = m * 2 ^ e := by simpa [Encloses] using h
      rw [exact_, multiples, Nat.cast_mul, Nat.cast_pow, Nat.cast_ofNat, mul_assoc, ← zpow_natCast,
        ← zpow_add₀ two_ne_zero]
      congr 2
      omega
    have next := multiples_strictMono (K := K) place (Nat.lt_succ_self (m * 2 ^ (e - place).toNat))
    rw [value] at next
    refine ⟨m * 2 ^ (e - place).toNat, .lt, false, ⟨value.le, next, ?_, ?_⟩, ?_⟩
    · rw [value, two_mul]
      exact add_lt_add_right next w
    · simp [value]
    · rw [scaledTo, if_pos le, Direction.taken]
      cases mode.direction neg <;> rfl
  · obtain ⟨half, inexact, on, eq⟩ := roundShift_onGrid mode neg h (s := (place - e).toNat) (by omega)
    have same : e + (place - e).toNat = place := by omega
    rw [same] at on
    exact ⟨_, half, inexact, on, by rw [scaledTo, if_neg (not_le.mpr gt), eq]⟩

/-- At an exponent that keeps no more than the format's bits, the rounded number has no more than these. -/
theorem OnGrid.significand_range {place : ℤ} {t : ℕ} {half : Ordering} {inexact : Bool} (hm : 0 < m)
    (h : Encloses m e sticky w) (on : OnGrid (multiples K place) w t half inexact) (le : F.freePlace m e ≤ place) :
    t < 2 ^ (F.fracBits + 1) ∧ (place = F.freePlace m e → 2 ^ F.fracBits ≤ t) := by
  obtain ⟨low, high⟩ := h.range hm
  have unit : (0 : K) < 2 ^ place := by positivity
  constructor
  · have : multiples K place t < multiples K place (2 ^ (F.fracBits + 1)) := by
      refine on.lower.trans_lt (high.trans_le ?_)
      rw [multiples, Nat.cast_pow, Nat.cast_ofNat, ← zpow_natCast, ← zpow_add₀ two_ne_zero]
      refine zpow_le_zpow_right₀ one_le_two ?_
      unfold Fmt.freePlace at le
      omega
    exact (multiples_strictMono (K := K) place).lt_iff_lt.mp this
  · rintro rfl
    have : multiples K (F.freePlace m e) (2 ^ F.fracBits) < multiples K (F.freePlace m e) (t + 1) := by
      refine lt_of_le_of_lt (le_trans (le_of_eq ?_) low) on.upper
      rw [multiples, Nat.cast_pow, Nat.cast_ofNat, ← zpow_natCast, ← zpow_add₀ two_ne_zero]
      congr 1
      unfold Fmt.freePlace
      push_cast
      ring
    exact Nat.lt_succ_iff.mp ((multiples_strictMono (K := K) _).lt_iff_lt.mp this)

/-- The next multiple below the smallest normal number, at one bit more. -/
theorem multiples_below_normal (F : Fmt) :
    multiples K (F.minExp - 1) (2 ^ (F.fracBits + 1) - 1) = 2 ^ (F.minExp + F.fracBits) - 2 ^ (F.minExp - 1) ∧
      multiples K (F.minExp - 1) (2 ^ (F.fracBits + 1) - 1 + 1) = 2 ^ (F.minExp + F.fracBits) := by
  have pos : 1 ≤ 2 ^ (F.fracBits + 1) := Nat.one_le_two_pow
  have normal : ((2 ^ (F.fracBits + 1) : ℕ) : K) * 2 ^ (F.minExp - 1) = 2 ^ (F.minExp + F.fracBits) := by
    rw [Nat.cast_pow, Nat.cast_ofNat, ← zpow_natCast, ← zpow_add₀ two_ne_zero]
    congr 1
    push_cast
    ring
  rw [Nat.sub_add_cancel pos]
  refine ⟨?_, normal⟩
  rw [multiples, Nat.cast_sub pos, sub_mul, normal, Nat.cast_one, one_mul]

/-- The number, rounded with no bound on the exponent, is a normal number. -/
def Fmt.reachesNormal (F : Fmt) (d : Direction) (w : K) : Prop :=
  d.reaches w (2 ^ (F.minExp + F.fracBits) - 2 ^ (F.minExp - 1)) (2 ^ (F.minExp + F.fracBits))

/-- Tininess is detected after rounding: as if the exponent had no bound. -/
theorem tiny_iff (hm : 0 < m) (h : Encloses m e sticky w) (hs : sticky = true → e < F.freePlace m e) :
    (decide (F.freePlace m e < F.minExp) &&
      !(decide (F.freePlace m e + 1 = F.minExp) &&
        (scaledTo mode neg m e sticky (F.freePlace m e)).1 == 2 ^ (F.fracBits + 1))) = true ↔
      ¬ F.reachesNormal (mode.direction neg) w := by
  obtain ⟨low, high⟩ := h.range hm
  have gap : (2 : K) ^ (F.minExp + F.fracBits) - 2 ^ (F.minExp - 1) < 2 ^ (F.minExp + F.fracBits) :=
    sub_lt_self _ (by positivity)
  rcases lt_trichotomy (F.freePlace m e + 1) F.minExp with below | at_ | above
  · have small : w < 2 ^ (F.minExp + F.fracBits - 1) := by
      refine high.trans_le (zpow_le_zpow_right₀ one_le_two ?_)
      unfold Fmt.freePlace at below
      omega
    have bottom : (2 : K) ^ (F.minExp - 1) ≤ 2 ^ (F.minExp + F.fracBits - 1) :=
      zpow_le_zpow_right₀ one_le_two (by omega)
    have double : (2 : K) ^ (F.minExp + F.fracBits) = 2 ^ (F.minExp + F.fracBits - 1) * 2 := by
      rw [← zpow_add_one₀ two_ne_zero]; congr 1; ring
    have not : ¬ F.reachesNormal (mode.direction neg) w := fun reach => by
      have := lt_of_reaches gap reach
      linarith
    simp [not, show F.freePlace m e < F.minExp by omega, below.ne]
  · obtain ⟨t, half, inexact, on, eq⟩ := scaledTo_onGrid (mode := mode) (neg := neg) h hs
    obtain ⟨lt, -⟩ := on.significand_range hm h le_rfl
    have odd : (2 ^ (F.fracBits + 1) - 1) % 2 = 1 := by
      have : 1 ≤ 2 ^ F.fracBits := Nat.one_le_two_pow
      rw [pow_succ]
      omega
    have reach := (show RoundsOnGrid _ _ _ _ _ from ⟨t, half, on, rfl⟩).lt_iff_reaches
      (multiples_strictMono (K := K) _) (d := mode.direction neg) odd
    have place : F.freePlace m e = F.minExp - 1 := by omega
    obtain ⟨lo, hi⟩ := multiples_below_normal (K := K) F
    rw [place, lo, hi] at reach
    have most : (mode.direction neg).taken t half inexact ≤ 2 ^ (F.fracBits + 1) := by
      unfold Direction.taken
      split <;> omega
    have full : (mode.direction neg).taken t half inexact = 2 ^ (F.fracBits + 1) ↔
        2 ^ (F.fracBits + 1) - 1 < (mode.direction neg).taken t half inexact := by omega
    rw [eq, Fmt.reachesNormal, ← reach, ← full]
    simp [at_, show F.freePlace m e < F.minExp by omega]
  · have large : (2 : K) ^ (F.minExp + F.fracBits) ≤ w := by
      refine le_trans (zpow_le_zpow_right₀ one_le_two ?_) low
      unfold Fmt.freePlace at above
      omega
    have reach : F.reachesNormal (mode.direction neg) w := reaches_of_le gap large
    simp [reach, show ¬ F.freePlace m e < F.minExp by omega]

/-- `Fmt.round` rounds to the grid of the magnitudes; it is tiny when the number does not reach the normal ones. -/
theorem round_onGrid (hF : F.regular) (mode : Rounding) (neg : Bool) (hm : 0 < m) (h : Encloses m e sticky w)
    (hs : sticky = true → 2 ^ (F.fracBits + 2) ≤ m) : ∃ mag inexact tiny,
      F.round mode neg m e sticky = F.pack (mode.direction neg) neg mag inexact tiny ∧
      RoundsOnGrid (F.magValue K) (mode.direction neg) w mag inexact ∧
      (tiny = true ↔ ¬ F.reachesNormal (mode.direction neg) w) := by
  have room (on : sticky = true) : e < F.freePlace m e := by
    obtain ⟨-, high, -⟩ := bitLength_spec hm
    have := (Nat.pow_lt_pow_iff_right (a := 2) (by decide)).mp ((hs on).trans_lt high)
    unfold Fmt.freePlace
    omega
  refine ⟨_, _, _, round_eq F mode neg m e sticky, ?_, tiny_iff hm h room⟩
  generalize hp : max (F.freePlace m e) F.minExp = place
  obtain ⟨t, half, inexact, on, eq⟩ :=
    scaledTo_onGrid (mode := mode) (neg := neg) (place := place) h fun on => by have := room on; omega
  obtain ⟨lt, normal⟩ := on.significand_range (F := F) hm h (by omega)
  have field : (place - F.minExp).toNat = 0 ∨ 2 ^ F.fracBits ≤ t := by
    rcases le_total (F.freePlace m e) F.minExp with le | le
    · exact .inl (by omega)
    · exact .inr (normal (by omega))
  have at_ : F.minExp + (place - F.minExp).toNat = place := by omega
  have lower : F.magValue K ((place - F.minExp).toNat * 2 ^ F.fracBits + t) = multiples K place t := by
    rw [magValue_encode lt.le field, at_, multiples]
  have upper : F.magValue K ((place - F.minExp).toNat * 2 ^ F.fracBits + t + 1) = multiples K place (t + 1) := by
    rw [Nat.add_assoc, magValue_encode lt (field.imp_right fun le => by omega), at_, multiples]
  refine ⟨_, half, on.transfer lower upper |> (by rw [eq]; exact ·), ?_⟩
  have even : (place - F.minExp).toNat * 2 ^ F.fracBits % 2 = 0 := by
    rw [Nat.mul_mod, even_fracUnit hF, Nat.mul_zero, Nat.zero_mod]
  rw [eq, taken_add _ even]

end

end Sys2Proof.Machine
end

section
/-! SUPPORT. A rounded magnitude with its sign and flags is what `Fmt.roundsTo` says (rules R382, R384). -/

namespace Sys2Proof.Machine

/-! ## Signs -/

section

variable {F : Fmt} {neg : Bool} {w x : ℚ} {b : ℕ}

theorem signedRat_neg_iff (hw : 0 < w) : signedRat neg w < 0 ↔ neg = true := by
  cases neg <;> simp [hw, hw.le]

theorem abs_signedRat (hw : 0 ≤ w) : |signedRat neg w| = w := by
  cases neg <;> simp [abs_of_nonneg hw]

theorem signedRat_inj : signedRat neg w = signedRat neg x ↔ w = x := by
  cases neg <;> simp

@[simp] theorem signedRat_signedRat : signedRat neg (signedRat neg w) = w := by cases neg <;> simp

@[simp] theorem signedRat_zero : signedRat neg 0 = 0 := by cases neg <;> simp

theorem abs_value (F : Fmt) (b : ℕ) : |F.value b| = F.magValue ℚ (b % F.signBit) := by
  rw [value_eq, abs_signedRat (magValue_nonneg _)]

/-- Seen from a sign, a number is its magnitude, or it is not positive. -/
theorem signedRat_value_cases (F : Fmt) (b : ℕ) (neg : Bool) :
    signedRat neg (F.value b) = F.magValue ℚ (b % F.signBit) ∨ signedRat neg (F.value b) ≤ 0 := by
  have nonneg : 0 ≤ F.magValue ℚ (b % F.signBit) := magValue_nonneg _
  rw [value_eq]
  cases F.isNeg b <;> cases neg <;> simp [nonneg]

theorem abs_signedRat_sub : |signedRat neg x - signedRat neg w| = |x - w| := by
  cases neg
  · rfl
  · rw [signedRat_true, signedRat_true, neg_sub_neg, abs_sub_comm]

/-- A number of the other sign is further away than zero. -/
theorem value_signedRat_or_far (F : Fmt) (b : ℕ) (neg : Bool) (hw : 0 < w) :
    F.value b = signedRat neg (F.magValue ℚ (b % F.signBit)) ∨ w < |F.value b - signedRat neg w| := by
  have nonneg : 0 ≤ F.magValue ℚ (b % F.signBit) := magValue_nonneg _
  rw [value_eq]
  rcases nonneg.eq_or_lt with zero | pos
  · rw [← zero, signedRat_zero, signedRat_zero]
    exact .inl rfl
  · cases F.isNeg b <;> cases neg <;> simp only [signedRat_true, signedRat_false, true_or]
    · exact .inr (by rw [sub_neg_eq_add, abs_of_pos (by linarith)]; linarith)
    · exact .inr (by rw [abs_of_neg (by linarith)]; linarith)

/-- What a mode reaches with a number is what its direction reaches with the magnitude. -/
theorem reaches_signedRat (mode : Rounding) (hw : 0 < w) (lo hi : ℚ) :
    reaches mode (signedRat neg w) lo hi ↔ (mode.direction neg).reaches w lo hi := by
  have magnitude := abs_signedRat (neg := neg) hw.le
  cases mode <;> simp only [reaches, Rounding.direction, magnitude]
  case rdn => cases neg <;> simp [Direction.reaches, hw, not_lt.mpr hw.le]
  case rup => cases neg <;> simp [Direction.reaches, hw, not_lt.mpr hw.le]
  all_goals rfl

end

/-! ## The largest finite number -/

section

variable {F : Fmt}

/-- Infinity stands where the next number after the largest finite one would. -/
theorem magValue_infBits (hF : F.regular) {K : Type} [Field K] [LinearOrder K] [IsStrictOrderedRing K] :
    F.magValue K F.infBits = 2 ^ (F.minExp + F.expMax + F.fracBits - 1) := by
  obtain ⟨d, hd⟩ := Nat.exists_eq_add_of_le' (le_of_lt (expMax_pos hF))
  have split : F.infBits = (d + 1) * 2 ^ F.fracBits + 0 := by rw [Fmt.infBits, hd]; rfl
  rw [Fmt.magValue, split, significand_normal (by positivity), lastPlace_normal (by positivity), Nat.zero_add,
    Nat.cast_pow, Nat.cast_ofNat, ← zpow_natCast, ← zpow_add₀ two_ne_zero, hd]
  congr 1
  push_cast
  ring

theorem value_largest (hF : F.regular) : F.value (F.infBits - 1) = F.magValue ℚ (F.infBits - 1) := by
  have := infBits_pos hF
  have := infBits_lt_signBit F
  exact value_signed (neg := false) (by omega)

theorem magValue_normal : F.magValue ℚ (2 ^ F.fracBits) = 2 ^ (F.minExp + F.fracBits) := by
  have := magValue_encode (F := F) (K := ℚ) (d := 0) (k := 2 ^ F.fracBits)
    (Nat.pow_le_pow_right (by decide) (Nat.le_succ _)) (.inl rfl)
  rw [Nat.zero_mul, Nat.zero_add] at this
  rw [this, Nat.cast_pow, Nat.cast_ofNat, ← zpow_natCast, ← zpow_add₀ two_ne_zero]
  congr 1
  push_cast
  ring

/-- Infinity is further than the largest finite number, which is a normal one. -/
theorem normal_le_largest (hF : F.regular) :
    (2 : ℚ) ^ (F.minExp + F.fracBits) ≤ F.magValue ℚ (F.infBits - 1) := by
  rw [← magValue_normal]
  refine (magValue_strictMono F ℚ).monotone ?_
  have := Nat.mul_le_mul_right (2 ^ F.fracBits) (expMax_pos hF)
  have : 0 < 2 ^ F.fracBits := by positivity
  unfold Fmt.infBits
  omega

end

/-! ## The result of a rounding -/

section

variable {F : Fmt} {d : Direction} {w : ℚ} {mag : ℕ} {inexact tiny : Bool}

/-- The rounded magnitude is beyond the largest finite one exactly when the number overflows. -/
theorem RoundsOnGrid.overflow_iff (hF : F.regular) (h : RoundsOnGrid (F.magValue ℚ) d w mag inexact) :
    F.infBits ≤ mag ↔ d.reaches w (F.value (F.infBits - 1)) (2 ^ (F.minExp + F.expMax + F.fracBits - 1)) := by
  have pos := infBits_pos hF
  have even := even_infBits hF
  have key := h.lt_iff_reaches (magValue_strictMono F ℚ) (N := F.infBits - 1) (by omega)
  rw [Nat.sub_add_cancel pos, magValue_infBits hF] at key
  rw [value_largest hF, ← key]
  omega

/-- An overflowing number is a normal one. -/
theorem reachesNormal_of_overflow (hF : F.regular) (h : RoundsOnGrid (F.magValue ℚ) d w mag inexact)
    (big : F.infBits ≤ mag) : F.reachesNormal d w := by
  have pos := infBits_pos hF
  have gap : F.magValue ℚ (F.infBits - 1) < F.magValue ℚ F.infBits := magValue_strictMono F ℚ (by omega)
  rw [h.overflow_iff hF, ← magValue_infBits hF, value_largest hF] at big
  exact reaches_of_le (sub_lt_self _ (by positivity)) ((normal_le_largest hF).trans (lt_of_reaches gap big).le)

/-- A result is an infinity, or the finite magnitude that a direction delivers. -/
theorem delivered_cases (F : Fmt) (d : Direction) (mag : ℕ) :
    (F.infBits ≤ mag ∧ d ≠ .down ∧ F.delivered d mag = F.infBits) ∨
      (F.infBits ≤ mag ∧ d = .down ∧ F.delivered d mag = F.infBits - 1) ∨
      mag < F.infBits ∧ F.delivered d mag = mag := by
  rw [Fmt.delivered]
  split
  · cases d
    case down => exact .inr (.inl ⟨‹_›, rfl, rfl⟩)
    all_goals exact .inl ⟨‹_›, nofun, rfl⟩
  · exact .inr (.inr ⟨not_le.mp ‹_›, rfl⟩)

theorem delivered_le (F : Fmt) (d : Direction) (mag : ℕ) : F.delivered d mag ≤ F.infBits := by
  rcases delivered_cases F d mag with ⟨-, -, eq⟩ | ⟨-, -, eq⟩ | ⟨lt, eq⟩ <;> omega

theorem delivered_lt_signBit (F : Fmt) (d : Direction) (mag : ℕ) : F.delivered d mag < F.signBit :=
  (delivered_le F d mag).trans_lt (infBits_lt_signBit F)

/-- Toward zero a result is finite: the largest magnitude that is not beyond the number. -/
theorem RoundsOnGrid.delivered_down (hF : F.regular) (h : RoundsOnGrid (F.magValue ℚ) .down w mag inexact) :
    F.delivered .down mag < F.infBits ∧ F.magValue ℚ (F.delivered .down mag) ≤ w ∧
      ∀ k < F.infBits, F.magValue ℚ k ≤ w → F.magValue ℚ k ≤ F.magValue ℚ (F.delivered .down mag) := by
  have mono := magValue_strictMono F ℚ
  obtain ⟨lower, upper⟩ := h.down
  have pos := infBits_pos hF
  rcases delivered_cases F .down mag with ⟨-, no, -⟩ | ⟨big, -, eq⟩ | ⟨lt, eq⟩
  · exact absurd rfl no
  · rw [eq]
    exact ⟨by omega, (mono.monotone (by omega)).trans lower, fun k hk _ => mono.monotone (by omega)⟩
  · rw [eq]
    exact ⟨lt, lower, fun k _ le => mono.monotone (Nat.lt_succ_iff.mp (mono.lt_iff_lt.mp (le.trans_lt upper)))⟩

/-- Away from zero a result is the smallest magnitude that is not below the number, or infinity when no finite one is. -/
theorem RoundsOnGrid.delivered_up (h : RoundsOnGrid (F.magValue ℚ) .up w mag inexact) :
    (F.delivered .up mag = F.infBits ∧ ∀ k < F.infBits, F.magValue ℚ k < w) ∨
      F.delivered .up mag < F.infBits ∧ w ≤ F.magValue ℚ (F.delivered .up mag) ∧
        ∀ k, w ≤ F.magValue ℚ k → F.magValue ℚ (F.delivered .up mag) ≤ F.magValue ℚ k := by
  have mono := magValue_strictMono F ℚ
  obtain ⟨upper, least⟩ := h.up mono
  rcases delivered_cases F .up mag with ⟨big, -, eq⟩ | ⟨-, no, -⟩ | ⟨lt, eq⟩
  · refine .inl ⟨eq, fun k hk => lt_of_not_ge fun le => ?_⟩
    have := mono.le_iff_le.mp (least k le)
    omega
  · cases no
  · rw [eq]
    exact .inr ⟨lt, upper, least⟩

/-- To nearest a result is infinity exactly when the number overflows. -/
theorem delivered_nearest (hd : d = .even ∨ d = .away) (mag : ℕ) :
    (F.infBits ≤ mag ∧ F.delivered d mag = F.infBits) ∨ mag < F.infBits ∧ F.delivered d mag = mag := by
  rcases delivered_cases F d mag with ⟨big, -, eq⟩ | ⟨-, rfl, -⟩ | fin
  · exact .inl ⟨big, eq⟩
  · simp at hd
  · exact .inr fin

/-! ### Flags -/

theorem rounding_flags (inexact tiny : Bool) :
    let fl := flagIf inexact flagNX ||| flagIf (tiny && inexact) flagUF
    fl &&& 0b11000 = 0 ∧ fl.getLsbD 2 = false ∧ fl.getLsbD 0 = inexact ∧ fl.getLsbD 1 = (tiny && inexact) := by
  revert inexact tiny
  decide

/-- The flags of a packed result, one by one. -/
theorem pack_flags (F : Fmt) (d : Direction) (neg : Bool) (mag : ℕ) (inexact tiny : Bool) :
    let fl := (F.pack d neg mag inexact tiny).flags
    fl &&& 0b11000 = 0 ∧ (fl.getLsbD 2 = true ↔ F.infBits ≤ mag) ∧
      (fl.getLsbD 0 = true ↔ F.infBits ≤ mag ∨ inexact = true) ∧
      (fl.getLsbD 1 = true ↔ mag < F.infBits ∧ tiny = true ∧ inexact = true) := by
  simp only [Fmt.pack]
  split
  · have big : F.infBits ≤ mag := ‹_›
    refine ⟨by decide, iff_of_true (by decide) big, iff_of_true (by decide) (.inl big), ?_⟩
    exact iff_of_false (by decide) fun ⟨lt, _⟩ => not_le.mpr lt big
  · have small : ¬ F.infBits ≤ mag := ‹_›
    obtain ⟨high, overflow, nx, uf⟩ := rounding_flags inexact tiny
    rw [overflow, nx, uf]
    exact ⟨high, iff_of_false nofun small, (or_iff_right small).symm, by simp [not_le.mp small]⟩

/-- The inexact flag of a rounding (rule R384). -/
theorem RoundsOnGrid.inexact_flag (hF : F.regular) {neg : Bool} (h : RoundsOnGrid (F.magValue ℚ) d w mag inexact) :
    F.infBits ≤ mag ∨ inexact = true ↔ ¬ (F.isFinite (F.signed neg (F.delivered d mag)) ∧
      F.value (F.signed neg (F.delivered d mag)) = signedRat neg w) := by
  have mono := magValue_strictMono F ℚ
  have pos := infBits_pos hF
  have lt := delivered_lt_signBit F d mag
  rw [value_signed lt, signedRat_inj, Fmt.isFinite, signed_mod lt, and_iff_right (signed_isPattern lt)]
  rcases delivered_cases F d mag with ⟨big, -, eq⟩ | ⟨big, rfl, eq⟩ | ⟨fin, eq⟩ <;> rw [eq]
  · simp [big]
  · have := (mono.monotone big).trans h.down.1
    have := mono (show F.infBits - 1 < F.infBits by omega)
    simp only [big, true_or, true_iff, not_and]
    exact fun _ => ne_of_lt (by linarith)
  · simp [fin, not_le.mpr fin, h.inexact_iff]

end

/-! ## The statement of a rounding -/

section

variable {F : Fmt} {w : ℚ} {mag : ℕ} {inexact tiny : Bool} {mode : Rounding} {neg : Bool}

theorem value_delivered (d : Direction) (mag : ℕ) (neg : Bool) :
    F.value (F.signed neg (F.delivered d mag)) = signedRat neg (F.magValue ℚ (F.delivered d mag)) :=
  value_signed (delivered_lt_signBit F d mag)

theorem isFinite_delivered (F : Fmt) (d : Direction) (mag : ℕ) (neg : Bool) :
    F.isFinite (F.signed neg (F.delivered d mag)) ↔ F.delivered d mag < F.infBits := by
  have lt := delivered_lt_signBit F d mag
  rw [Fmt.isFinite, signed_mod lt, and_iff_right (signed_isPattern lt)]

/-- Toward zero: the result is finite and not beyond the number, and no number beyond it is. -/
theorem RoundsOnGrid.toward_zero (hF : F.regular) (h : RoundsOnGrid (F.magValue ℚ) .down w mag inexact) :
    let r := F.signed neg (F.delivered .down mag)
    F.isFinite r ∧ signedRat neg (F.value r) ≤ w ∧
      ∀ b, F.isFinite b → signedRat neg (F.value b) ≤ w → signedRat neg (F.value b) ≤ signedRat neg (F.value r) := by
  obtain ⟨finite, le, most⟩ := h.delivered_down hF
  simp only [isFinite_delivered, value_delivered, signedRat_signedRat]
  refine ⟨finite, le, fun b hb hle => ?_⟩
  rcases signedRat_value_cases F b neg with eq | nonpos
  · rw [eq] at hle ⊢
    exact most _ hb.2 hle
  · exact nonpos.trans (magValue_nonneg _)

/-- Away from zero: the result is finite and not below the number, and no number above it is; or it is infinite, and no finite
number is. -/
theorem RoundsOnGrid.away_from_zero (hw : 0 < w) (h : RoundsOnGrid (F.magValue ℚ) .up w mag inexact) :
    let r := F.signed neg (F.delivered .up mag)
    (F.isFinite r → w ≤ signedRat neg (F.value r)) ∧ (¬ F.isFinite r → r = F.signed neg F.infBits) ∧
      ∀ b, F.isFinite b → w ≤ signedRat neg (F.value b) →
        F.isFinite r ∧ signedRat neg (F.value r) ≤ signedRat neg (F.value b) := by
  simp only [isFinite_delivered, value_delivered, signedRat_signedRat]
  have magnitude (b : ℕ) (reach : w ≤ signedRat neg (F.value b)) :
      signedRat neg (F.value b) = F.magValue ℚ (b % F.signBit) :=
    (signedRat_value_cases F b neg).resolve_right (not_le.mpr (hw.trans_le reach))
  rcases h.delivered_up with ⟨inf, none⟩ | ⟨finite, le, least⟩
  · rw [inf]
    refine ⟨fun lt => absurd lt (lt_irrefl _), fun _ => rfl, fun b hb reach => ?_⟩
    exact absurd (none _ hb.2) (not_lt.mpr (reach.trans_eq (magnitude b reach)))
  · refine ⟨fun _ => le, fun no => absurd finite no, fun b _ reach => ⟨finite, ?_⟩⟩
    have eq := magnitude b reach
    rw [eq] at reach ⊢
    exact least _ reach

/-- To nearest a result is infinite exactly when the number overflows; else no number is nearer, and of two as near it is the
even or the larger one. -/
theorem RoundsOnGrid.to_nearest {d : Direction} (hF : F.regular) (hw : 0 < w)
    (h : RoundsOnGrid (F.magValue ℚ) d w mag inexact) (hd : d = .even ∨ d = .away) :
    let r := F.signed neg (F.delivered d mag)
    (F.isFinite r ↔ ¬ F.infBits ≤ mag) ∧
      (F.isFinite r → ∀ b, |F.value r - signedRat neg w| < |F.value b - signedRat neg w| ∨ F.value b = F.value r ∨
        |F.value r - signedRat neg w| = |F.value b - signedRat neg w| ∧ (d = .even → r % 2 = 0) ∧
          (d = .away → |F.value b| < |F.value r|)) := by
  have mono := magValue_strictMono F ℚ
  simp only [isFinite_delivered, value_delivered, abs_signedRat_sub, abs_signedRat (magValue_nonneg _), signed_even hF]
  rcases delivered_nearest (F := F) hd mag with ⟨big, eq⟩ | ⟨small, eq⟩ <;> rw [eq]
  · exact ⟨iff_of_false (lt_irrefl _) (not_not.mpr big), fun lt => absurd lt (lt_irrefl _)⟩
  · refine ⟨iff_of_true small (not_le.mpr small), fun _ b => ?_⟩
    rw [abs_value]
    rcases value_signedRat_or_far F b neg hw with same | far
    · rw [same, abs_signedRat_sub, signedRat_inj]
      by_cases point : b % F.signBit = mag
      · exact .inr (.inl (by rw [point]))
      · exact (h.nearest mono hd point).imp_right .inr
    · have near : |F.magValue ℚ mag - w| ≤ w := by
        have zero : |F.magValue ℚ 0 - w| = w := by rw [magValue_zero, zero_sub, abs_neg, abs_of_pos hw]
        by_cases point : 0 = mag
        · rw [← point, zero]
        · rcases h.nearest mono hd point with lt | ⟨eq, -⟩ <;> linarith
      exact .inl (near.trans_lt far)

/-- Rounding with a bound on the exponent: the delivered magnitude and its flags are those that `Fmt.roundsTo` asks for. -/
theorem pack_roundsTo (hF : F.regular) (hw : 0 < w)
    (h : RoundsOnGrid (F.magValue ℚ) (mode.direction neg) w mag inexact)
    (ht : tiny = true ↔ ¬ F.reachesNormal (mode.direction neg) w) :
    F.roundsTo mode (signedRat neg w) (F.pack (mode.direction neg) neg mag inexact tiny) := by
  have lt := delivered_lt_signBit F (mode.direction neg) mag
  obtain ⟨high, overflow, nx, uf⟩ := pack_flags F (mode.direction neg) neg mag inexact tiny
  have big : reaches mode (signedRat neg w) (F.value (F.infBits - 1)) (2 ^ (F.minExp + F.expMax + F.fracBits - 1)) ↔
      F.infBits ≤ mag := by rw [reaches_signedRat mode hw, h.overflow_iff hF]
  have finite := isFinite_delivered F (mode.direction neg) mag neg
  refine ⟨signed_isPattern lt, ?_, high, overflow.trans big.symm, nx.trans (h.inexact_flag hF), ?_, fun _ => ?_, ?_⟩
  · refine (delivered_le F (mode.direction neg) mag).lt_or_eq.imp finite.mpr fun eq => ?_
    show F.isInf (F.signed neg (F.delivered (mode.direction neg) mag))
    rw [eq]
    exact signed_isInf
  · rw [uf, nx, reaches_signedRat mode hw, ht, ← not_le]
    have small (tiny : ¬ F.reachesNormal (mode.direction neg) w) : ¬ F.infBits ≤ mag :=
      mt (reachesNormal_of_overflow hF h) tiny
    exact ⟨fun ⟨_, tiny, nx⟩ => ⟨.inr nx, tiny⟩, fun ⟨nx, tiny⟩ => ⟨small tiny, tiny, nx.resolve_left (small tiny)⟩⟩
  · rw [signedRat_neg_iff hw]
    exact signBit_le_signed lt
  · simp only [big, Fmt.pack]
    cases mode
    case rtz =>
      obtain ⟨fin, le, most⟩ := h.delivered_down hF
      rw [abs_signedRat hw.le, value_delivered, abs_signedRat (magValue_nonneg _)]
      refine ⟨finite.mpr fin, le, fun b hb hle => ?_⟩
      rw [abs_value] at hle ⊢
      exact most _ hb.2 hle
    case rdn =>
      cases neg
      · obtain ⟨fin, le, most⟩ := h.toward_zero (neg := false) hF
        exact ⟨fun _ => le, fun no => absurd fin no, fun b hb hle => ⟨fin, most b hb hle⟩⟩
      · obtain ⟨reach, inf, least⟩ := h.away_from_zero (neg := true) hw
        refine ⟨fun fin => le_neg.mp (reach fin), inf, fun b hb hle => ?_⟩
        exact (least b hb (le_neg.mp hle)).imp_right neg_le_neg_iff.mp
    case rup =>
      cases neg
      · obtain ⟨reach, inf, least⟩ := h.away_from_zero (neg := false) hw
        exact ⟨reach, inf, least⟩
      · obtain ⟨fin, le, most⟩ := h.toward_zero (neg := true) hF
        refine ⟨fun _ => neg_le.mp le, fun no => absurd fin no, fun b hb hle => ⟨fin, ?_⟩⟩
        exact neg_le_neg_iff.mp (most b hb (neg_le.mp hle))
    case rne =>
      obtain ⟨fin, near⟩ := h.to_nearest (neg := neg) hF hw (.inl rfl)
      refine ⟨fin, fun hr b _ => (near hr b).imp_right (.imp_right fun ⟨tie, even, _⟩ => ⟨tie, even rfl⟩)⟩
    case rmm =>
      obtain ⟨fin, near⟩ := h.to_nearest (neg := neg) hF hw (.inr rfl)
      refine ⟨fin, fun hr b _ => (near hr b).imp_right (.imp_right fun ⟨tie, _, away⟩ => ⟨tie, away rfl⟩)⟩

/-- A zero is an exact result zero. -/
theorem zero_roundsTo (hF : F.regular) (mode : Rounding) (neg : Bool) : F.roundsTo mode 0 (F.zero neg) := by
  have pos := infBits_pos hF
  have fin : F.isFinite (F.signed neg 0) := signed_isFinite pos
  have value : F.value (F.signed neg 0) = 0 := by
    rw [value_signed (pos.trans (infBits_lt_signBit F)), magValue_zero, signedRat_zero]
  have far : 0 < F.value (F.infBits - 1) := by
    rw [value_largest hF]
    exact lt_of_lt_of_le (by positivity) (normal_le_largest hF)
  have further : (0 : ℚ) < 2 ^ (F.minExp + F.expMax + F.fracBits - 1) := by positivity
  have unreached : ¬ reaches mode 0 (F.value (F.infBits - 1)) (2 ^ (F.minExp + F.expMax + F.fracBits - 1)) := by
    have half := add_pos far further
    cases mode <;> simp only [reaches, abs_zero, lt_irrefl, if_false, not_le] <;> linarith
  have off (i : ℕ) : (F.zero neg).flags.getLsbD i ≠ true := by simp [Fmt.zero, exactly]
  have clear : (F.zero neg).flags &&& 0b11000 = 0 := by simp [Fmt.zero, exactly]
  refine ⟨fin.1, .inl fin, clear, iff_of_false (off 2) unreached, iff_of_false (off 0) (not_not.mpr ⟨fin, value⟩),
    iff_of_false (off 1) fun ⟨no, _⟩ => off 0 no, fun no => absurd rfl no, ?_⟩
  cases mode <;> simp only [Fmt.zero, exactly, value]
  case rdn => exact ⟨fun _ => le_rfl, fun no => absurd fin no, fun b _ hle => ⟨fin, hle⟩⟩
  case rup => exact ⟨fun _ => le_rfl, fun no => absurd fin no, fun b _ hle => ⟨fin, hle⟩⟩
  case rtz => exact ⟨fin, le_rfl, fun b _ hle => hle⟩
  case rne =>
    refine ⟨iff_of_true fin unreached, fun _ b _ => ?_⟩
    by_cases zero : F.value b = 0
    · exact .inr (.inl zero)
    · exact .inl (by simpa using zero)
  case rmm =>
    refine ⟨iff_of_true fin unreached, fun _ b _ => ?_⟩
    by_cases zero : F.value b = 0
    · exact .inr (.inl zero)
    · exact .inl (by simpa using zero)

/-- `Fmt.round` gives the exact number rounded once. -/
theorem round_roundsTo (hF : F.regular) (mode : Rounding) (neg : Bool) {m : ℕ} {e : ℤ} {sticky : Bool} (hm : 0 < m)
    (h : Encloses m e sticky w) (hs : sticky = true → 2 ^ (F.fracBits + 2) ≤ m) :
    F.roundsTo mode (signedRat neg w) (F.round mode neg m e sticky) := by
  obtain ⟨mag, inexact, tiny, eq, grid, ht⟩ := round_onGrid hF mode neg hm h hs
  have unit : (0 : ℚ) < 2 ^ e := by positivity
  have pos : 0 < w := lt_of_lt_of_le (by positivity) h.lower
  rw [eq]
  exact pack_roundsTo hF pos grid ht

end

end Sys2Proof.Machine
end

section
/-! SUPPORT. Sums, products, fused forms and quotients of finite numbers are the exact result rounded once (rules R390, R396,
R401, R404, R405, R408, R409, R414). -/

namespace Sys2Proof.Machine

section

variable {F : Fmt} {mode : Rounding}

/-! ## Finite numbers -/

/-- The number `± m * 2 ^ e`. -/
def finiteValue (neg : Bool) (m : ℕ) (e : ℤ) : ℚ := signedInt neg m * 2 ^ e

theorem cast_signedInt (neg : Bool) (m : ℕ) : ((signedInt neg m : ℤ) : ℚ) = signedRat neg m := by
  cases neg <;> simp [signedInt]

theorem finiteValue_eq (neg : Bool) (m : ℕ) (e : ℤ) : finiteValue neg m e = signedRat neg (m * 2 ^ e) := by
  rw [finiteValue, cast_signedInt]
  cases neg <;> simp

theorem finiteValue_not (neg : Bool) (m : ℕ) (e : ℤ) : finiteValue (!neg) m e = -finiteValue neg m e := by
  rw [finiteValue_eq, finiteValue_eq]
  cases neg <;> simp

theorem finiteValue_mul (n k : Bool) (m l : ℕ) (e f : ℤ) :
    finiteValue (n != k) (m * l) (e + f) = finiteValue n m e * finiteValue k l f := by
  simp only [finiteValue_eq, zpow_add₀ (two_ne_zero (α := ℚ))]
  cases n <;> cases k <;> simp <;> ring

theorem finiteValue_eq_zero_iff {neg : Bool} {m : ℕ} {e : ℤ} : finiteValue neg m e = 0 ↔ m = 0 := by
  have unit : (2 : ℚ) ^ e ≠ 0 := by positivity
  rw [finiteValue_eq]
  cases neg <;> simp [unit]

/-- A finite pattern is unpacked to its value. -/
theorem exists_unpack_finite {b : ℕ} (h : F.isFinite b) :
    ∃ m e, F.unpack b = .fin (F.isNeg b) m e ∧ F.value b = finiteValue (F.isNeg b) m e :=
  ⟨_, _, unpack_finite h, by rw [finiteValue_eq, value_eq, Fmt.magValue]⟩

/-! ## The exact result of each operation -/

/-- An integer is its sign and its magnitude. -/
theorem intCast_eq_signedRat (z : ℤ) : (z : ℚ) = signedRat (decide (z < 0)) z.natAbs := by
  rw [Nat.cast_natAbs, Int.cast_abs]
  rcases lt_or_ge z 0 with neg | pos
  · simp [neg, abs_of_neg (Int.cast_lt_zero (R := ℚ).mpr neg)]
  · simp [not_lt.mpr pos, abs_of_nonneg (Int.cast_nonneg (R := ℚ) pos)]

/-- An exact integer multiple of a power of two, rounded. -/
theorem roundInt_roundsTo (hF : F.regular) (mode : Rounding) (z e : ℤ) (zeroNeg : Bool) :
    F.roundsTo mode (z * 2 ^ e) (F.roundInt mode z e zeroNeg) := by
  rw [Fmt.roundInt]
  split
  · subst z
    rw [Int.cast_zero, zero_mul]
    exact zero_roundsTo hF mode zeroNeg
  · have value : (z : ℚ) * 2 ^ e = signedRat (decide (z < 0)) (z.natAbs * 2 ^ e) := by
      rw [intCast_eq_signedRat z]
      cases decide (z < 0) <;> simp
    rw [value]
    exact round_roundsTo hF mode _ (by omega) rfl nofun

/-- A sum is an exact multiple of a power of two, rounded; the sign of a zero sum of unlike signs is the mode's. -/
theorem addFinite_eq (F : Fmt) (mode : Rounding) (n k : Bool) (m l : ℕ) (e f : ℤ) : ∃ z least : ℤ,
    finiteValue n m e + finiteValue k l f = z * 2 ^ least ∧
      F.addFinite mode n m e k l f = F.roundInt mode z least (if n = k then n else mode == .rdn) := by
  have shift (neg : Bool) (m : ℕ) {e least : ℤ} (h : least ≤ e) :
      finiteValue neg m e = signedInt neg (m * 2 ^ (e - least).toNat) * 2 ^ least := by
    rw [finiteValue_eq, cast_signedInt, Nat.cast_mul, Nat.cast_pow, Nat.cast_ofNat, ← zpow_natCast,
      show e = (e - least).toNat + least by omega, zpow_add₀ two_ne_zero, Int.add_sub_cancel]
    cases neg <;> simp <;> ring
  refine ⟨_, min e f, ?_, rfl⟩
  rw [shift n m (min_le_left e f), shift k l (min_le_right e f), ← add_mul, ← Int.cast_add]

theorem addFinite_roundsTo (hF : F.regular) (mode : Rounding) (n k : Bool) (m l : ℕ) (e f : ℤ) :
    F.roundsTo mode (finiteValue n m e + finiteValue k l f) (F.addFinite mode n m e k l f) := by
  obtain ⟨z, least, value, eq⟩ := addFinite_eq F mode n k m l e f
  rw [value, eq]
  exact roundInt_roundsTo hF mode z least _

/-- An exact zero sum (rule R390). -/
theorem addFinite_zero {n k : Bool} {m l : ℕ} {e f : ℤ} (h : finiteValue n m e + finiteValue k l f = 0) :
    F.addFinite mode n m e k l f = F.zero (if n = k then n else mode == .rdn) := by
  obtain ⟨z, least, value, eq⟩ := addFinite_eq F mode n k m l e f
  have unit : (2 : ℚ) ^ least ≠ 0 := by positivity
  rw [h, eq_comm, mul_eq_zero, or_iff_left unit, Int.cast_eq_zero] at value
  rw [eq, Fmt.roundInt, if_pos value]

/-- A finite number rounded, a zero keeping its sign. -/
theorem roundFinite_roundsTo (hF : F.regular) (mode : Rounding) (neg : Bool) (m : ℕ) (e : ℤ) :
    F.roundsTo mode (finiteValue neg m e) (if m = 0 then F.zero neg else F.round mode neg m e false) := by
  split
  · rw [finiteValue_eq_zero_iff.mpr ‹_›]
    exact zero_roundsTo hF mode neg
  · rw [finiteValue_eq]
    exact round_roundsTo hF mode neg (Nat.pos_of_ne_zero ‹_›) rfl nofun

/-- The quotient is computed to more bits than the format has, with a sticky rest. -/
theorem quotient_encloses (F : Fmt) {m l : ℕ} (hm : 0 < m) (hl : 0 < l) (e f : ℤ) :
    let k := F.fracBits + 3 + bitLength l
    let n := m * 2 ^ k
    Encloses (n / l) (e - f - k) (n % l != 0) ((m * 2 ^ e) / (l * 2 ^ f) : ℚ) ∧ 2 ^ (F.fracBits + 2) ≤ n / l := by
  intro k n
  constructor
  · have pos : (0 : ℚ) < l := Nat.cast_pos.mpr hl
    have unit : (0 : ℚ) < 2 ^ (e - f - k) := by positivity
    have value : (m * 2 ^ e) / (l * 2 ^ f) = ((n : ℚ) / l) * 2 ^ (e - f - k) := by
      rw [zpow_sub₀ two_ne_zero, zpow_sub₀ two_ne_zero, zpow_natCast, Nat.cast_mul, Nat.cast_pow, Nat.cast_ofNat]
      field_simp
    have whole : ((n / l : ℕ) : ℚ) * l + (n % l : ℕ) = n := by exact_mod_cast Nat.div_add_mod' n l
    rw [value, Encloses]
    by_cases zero : n % l = 0
    · have : ((n / l : ℕ) : ℚ) = n / l := by
        rw [zero, Nat.cast_zero, add_zero] at whole
        rw [← whole, mul_div_cancel_right₀ _ pos.ne']
      simp [zero, this]
    · have rest : (0 : ℚ) < (n % l : ℕ) := Nat.cast_pos.mpr (Nat.pos_of_ne_zero zero)
      have less : ((n % l : ℕ) : ℚ) < l := Nat.cast_lt.mpr (Nat.mod_lt n hl)
      rw [if_pos (by simpa using zero)]
      constructor
      · refine mul_lt_mul_of_pos_right ?_ unit
        rw [lt_div_iff₀ pos]
        linarith
      · refine mul_lt_mul_of_pos_right ?_ unit
        rw [div_lt_iff₀ pos]
        linarith
  · obtain ⟨-, high, -⟩ := bitLength_spec hl
    rw [Nat.le_div_iff_mul_le hl]
    calc 2 ^ (F.fracBits + 2) * l ≤ 2 ^ (F.fracBits + 3) * 2 ^ bitLength l :=
          Nat.mul_le_mul (Nat.pow_le_pow_right (by decide) (by omega)) high.le
      _ = 2 ^ k := (pow_add 2 _ _).symm
      _ ≤ n := Nat.le_mul_of_pos_left _ hm

theorem divFinite_roundsTo (hF : F.regular) (mode : Rounding) (n k : Bool) {m l : ℕ} (hm : 0 < m) (hl : 0 < l) (e f : ℤ) :
    F.roundsTo mode (finiteValue n m e / finiteValue k l f) (F.divFinite mode (n != k) m e l f) := by
  obtain ⟨encloses, bits⟩ := quotient_encloses F hm hl e f
  have value : finiteValue n m e / finiteValue k l f = signedRat (n != k) ((m * 2 ^ e) / (l * 2 ^ f)) := by
    rw [finiteValue_eq, finiteValue_eq]
    cases n <;> cases k <;> simp [neg_div, div_neg]
  have pos : 0 < m * 2 ^ (F.fracBits + 3 + bitLength l) / l := lt_of_lt_of_le (by positivity) bits
  rw [value]
  exact round_roundsTo hF mode _ pos encloses fun _ => bits

/-! ## The operations on patterns -/

variable {a b c : ℕ}

theorem add_roundsTo (hF : F.regular) (mode : Rounding) (ha : F.isFinite a) (hb : F.isFinite b) :
    F.roundsTo mode (F.value a + F.value b) (F.add mode a b) := by
  obtain ⟨m, e, ua, va⟩ := exists_unpack_finite ha
  obtain ⟨l, f, ub, vb⟩ := exists_unpack_finite hb
  rw [Fmt.add, ua, ub, va, vb]
  exact addFinite_roundsTo hF mode ..

theorem sub_roundsTo (hF : F.regular) (mode : Rounding) (ha : F.isFinite a) (hb : F.isFinite b) :
    F.roundsTo mode (F.value a - F.value b) (F.sub mode a b) := by
  obtain ⟨m, e, ua, va⟩ := exists_unpack_finite ha
  obtain ⟨l, f, ub, vb⟩ := exists_unpack_finite hb
  rw [Fmt.sub, ua, ub, va, vb, sub_eq_add_neg, ← finiteValue_not]
  exact addFinite_roundsTo hF mode ..

theorem mul_roundsTo (hF : F.regular) (mode : Rounding) (ha : F.isFinite a) (hb : F.isFinite b) :
    F.roundsTo mode (F.value a * F.value b) (F.mul mode a b) := by
  obtain ⟨m, e, ua, va⟩ := exists_unpack_finite ha
  obtain ⟨l, f, ub, vb⟩ := exists_unpack_finite hb
  rw [Fmt.mul, ua, ub, va, vb, ← finiteValue_mul]
  exact roundFinite_roundsTo hF mode ..

theorem div_roundsTo (hF : F.regular) (mode : Rounding) (ha : F.isFinite a) (hb : F.isFinite b) (h : F.value b ≠ 0) :
    F.roundsTo mode (F.value a / F.value b) (F.div mode a b) := by
  obtain ⟨m, e, ua, va⟩ := exists_unpack_finite ha
  obtain ⟨l, f, ub, vb⟩ := exists_unpack_finite hb
  rw [vb, Ne, finiteValue_eq_zero_iff] at h
  rw [Fmt.div, ua, ub, va, vb]
  simp only [if_neg h]
  split
  · rw [finiteValue_eq_zero_iff.mpr ‹_›, zero_div]
    exact zero_roundsTo hF mode _
  · exact divFinite_roundsTo hF mode _ _ (Nat.pos_of_ne_zero ‹_›) (Nat.pos_of_ne_zero h) e f

/-- A number with its sign changed or not. -/
theorem negate_if (n : Bool) (neg : Bool) (m : ℕ) (e : ℤ) :
    (if n then (Num.fin neg m e).negate else .fin neg m e) = .fin (neg != n) m e := by
  cases n <;> cases neg <;> rfl

theorem finiteValue_bne (neg n : Bool) (m : ℕ) (e : ℤ) :
    finiteValue (neg != n) m e = signedRat n (finiteValue neg m e) := by
  rw [finiteValue_eq, finiteValue_eq]
  cases n <;> cases neg <;> simp

theorem fused_roundsTo (hF : F.regular) (mode : Rounding) (np na : Bool) (ha : F.isFinite a) (hb : F.isFinite b)
    (hc : F.isFinite c) : F.roundsTo mode (signedRat np (F.value a * F.value b) + signedRat na (F.value c))
      (F.fused np na mode a b c) := by
  obtain ⟨m, e, ua, va⟩ := exists_unpack_finite ha
  obtain ⟨l, f, ub, vb⟩ := exists_unpack_finite hb
  obtain ⟨k, g, uc, vc⟩ := exists_unpack_finite hc
  rw [Fmt.fused, ua, ub, uc, va, vb, vc, ← finiteValue_mul]
  simp only [mulNum, negate_if, ← finiteValue_bne]
  exact addFinite_roundsTo hF mode ..

end

end Sys2Proof.Machine
end

section
/-! SUPPORT. The square root (rule R413), and the arithmetic of finite numbers as one statement. -/

namespace Sys2Proof.Machine

/-! ## The integer square root -/

/-- The bits found so far, and what they leave open. -/
theorem isqrtFrom_spec (n : ℕ) : ∀ k r, r * r ≤ n → n < (r + 2 ^ k) * (r + 2 ^ k) →
    isqrtFrom n k r * isqrtFrom n k r ≤ n ∧ n < (isqrtFrom n k r + 1) * (isqrtFrom n k r + 1) := by
  intro k
  induction k with
  | zero => exact fun r low high => ⟨low, high⟩
  | succ k ih =>
    intro r low high
    rw [isqrtFrom]
    split
    · refine ih _ ‹_› ?_
      rwa [Nat.add_assoc, ← Nat.two_mul, ← pow_succ']
    · exact ih r low (not_le.mp ‹_›)

theorem isqrt_spec (n : ℕ) : isqrt n * isqrt n ≤ n ∧ n < (isqrt n + 1) * (isqrt n + 1) := by
  refine isqrtFrom_spec n _ 0 (Nat.zero_le n) ?_
  rw [Nat.zero_add, ← pow_add]
  rcases Nat.eq_zero_or_pos n with rfl | pos
  · positivity
  · obtain ⟨-, high, -⟩ := bitLength_spec pos
    exact high.trans_le (Nat.pow_le_pow_right (by decide) (by omega))

section

variable {F : Fmt} {mode : Rounding}

/-- The square root is computed to more bits than the format has, with a sticky rest. -/
theorem sqrt_encloses (F : Fmt) {m : ℕ} (hm : 0 < m) (e : ℤ) :
    let k := 2 * (F.fracBits + 4) + (e % 2).toNat
    let n := m * 2 ^ k
    Encloses (isqrt n) ((e - k) / 2) (isqrt n * isqrt n != n) (Real.sqrt ((m * 2 ^ e : ℚ) : ℝ)) ∧
      2 ^ (F.fracBits + 2) ≤ isqrt n := by
  intro k n
  obtain ⟨low, high⟩ := isqrt_spec n
  have half : e = k + 2 * ((e - k) / 2) := by omega
  have unit : (0 : ℝ) < 2 ^ ((e - k) / 2) := by positivity
  have value : Real.sqrt ((m * 2 ^ e : ℚ) : ℝ) = Real.sqrt n * 2 ^ ((e - k) / 2) := by
    have square : ((m * 2 ^ e : ℚ) : ℝ) = n * (2 ^ ((e - k) / 2)) ^ 2 := by
      rw [← zpow_natCast, ← zpow_mul, Nat.cast_mul, Nat.cast_pow, mul_assoc, Nat.cast_ofNat, ← zpow_natCast,
        ← zpow_add₀ two_ne_zero]
      push_cast
      congr 2
      omega
    rw [square, Real.sqrt_mul (Nat.cast_nonneg n), Real.sqrt_sq unit.le]
  have lower : (isqrt n : ℝ) ≤ Real.sqrt n := Real.le_sqrt_of_sq_le (by rw [sq]; exact_mod_cast low)
  have upper : Real.sqrt n < isqrt n + 1 :=
    (Real.sqrt_lt' (by positivity)).mpr (by rw [sq]; exact_mod_cast high)
  constructor
  · rw [value, Encloses]
    by_cases square : isqrt n * isqrt n = n
    · have root : Real.sqrt n = isqrt n := by
        conv_lhs => rw [← square]
        rw [Nat.cast_mul, Real.sqrt_mul_self (Nat.cast_nonneg _)]
      simp [square, root]
    · rw [if_pos (by simpa using square)]
      refine ⟨mul_lt_mul_of_pos_right (lower.lt_of_ne fun eq => square ?_) unit, mul_lt_mul_of_pos_right upper unit⟩
      have := Real.mul_self_sqrt (Nat.cast_nonneg (α := ℝ) n)
      rw [← eq] at this
      exact_mod_cast this
  · by_contra small
    have : (isqrt n + 1) * (isqrt n + 1) ≤ 2 ^ (F.fracBits + 2) * 2 ^ (F.fracBits + 2) :=
      Nat.mul_le_mul (not_le.mp small) (not_le.mp small)
    have large : 2 ^ (F.fracBits + 2) * 2 ^ (F.fracBits + 2) ≤ n := by
      rw [← pow_add]
      exact (Nat.pow_le_pow_right (by decide) (by omega)).trans (Nat.le_mul_of_pos_left _ hm)
    omega

/-- The exponents of the two formats reach far enough on both sides of 0 for square roots to be normal numbers. -/
theorem exponent_range (h : F ∈ [b32, b64]) :
    F.minExp + 2 * F.fracBits ≤ 0 ∧ 0 ≤ F.minExp + F.fracBits + F.expMax - 2 := by
  simp only [List.mem_cons, List.not_mem_nil, or_false] at h
  rcases h with rfl | rfl <;> decide

theorem one_le_largest (h : F ∈ [b32, b64]) : (1 : ℝ) ≤ F.magValue ℝ (F.infBits - 1) := by
  obtain ⟨-, range⟩ := exponent_range h
  obtain ⟨d, hd⟩ := Nat.exists_eq_add_of_le' (expMax_pos (regular_of_mem h))
  have value : F.magValue ℝ ((d + 1) * 2 ^ F.fracBits + 0) = 2 ^ (F.minExp + F.fracBits + F.expMax - 2) := by
    rw [Fmt.magValue, significand_normal (by positivity), lastPlace_normal (by positivity), Nat.zero_add,
      Nat.cast_pow, Nat.cast_ofNat, ← zpow_natCast, ← zpow_add₀ two_ne_zero, hd]
    congr 1
    push_cast
    ring
  calc (1 : ℝ) ≤ 2 ^ (F.minExp + F.fracBits + F.expMax - 2) := one_le_zpow₀ one_le_two range
    _ ≤ F.magValue ℝ (F.infBits - 1) := by
      rw [← value]
      refine (magValue_strictMono F ℝ).monotone ?_
      have : 0 < 2 ^ F.fracBits := by positivity
      rw [Fmt.infBits, hd, show (d + 2) * 2 ^ F.fracBits = (d + 1) * 2 ^ F.fracBits + 2 ^ F.fracBits by ring]
      omega

theorem significand_pos {t : ℕ} (pos : 0 < t) : 0 < F.significand t := by
  refine Nat.pos_of_ne_zero fun zero => (magValue_pos (F := F) (K := ℚ) pos).ne' ?_
  rw [Fmt.magValue, zero, Nat.cast_zero, zero_mul]

/-- A square root of a positive finite number is rounded to a finite normal number. -/
theorem sqrtFinite_onGrid (h : F ∈ [b32, b64]) (mode : Rounding) {t : ℕ} (pos : 0 < t) (fin : t < F.infBits) :
    ∃ mag inexact, mag < F.infBits ∧
      F.sqrtFinite mode (F.significand t) (F.lastPlace t) = ⟨mag, flagIf inexact flagNX⟩ ∧
      RoundsOnGrid (F.magValue ℝ) (mode.direction false) (Real.sqrt (F.magValue ℝ t)) mag inexact := by
  have hF := regular_of_mem h
  have mono := magValue_strictMono F ℝ
  obtain ⟨below, -⟩ := exponent_range h
  have one := one_le_largest h
  have hm := significand_pos (F := F) pos
  obtain ⟨encloses, bits⟩ := sqrt_encloses F hm (F.lastPlace t)
  obtain ⟨mag, inexact, tiny, eq, grid, ht⟩ :=
    round_onGrid hF mode false (lt_of_lt_of_le (by positivity) bits) encloses fun _ => bits
  have value : (((F.significand t : ℚ) * 2 ^ F.lastPlace t : ℚ) : ℝ) = F.magValue ℝ t := cast_magValue F t
  rw [value] at grid ht
  have normal : F.reachesNormal (mode.direction false) (Real.sqrt (F.magValue ℝ t)) := by
    refine reaches_of_le (sub_lt_self _ (by positivity)) (Real.le_sqrt_of_sq_le ?_)
    have least : (2 : ℝ) ^ F.minExp ≤ F.magValue ℝ t := by
      have first := magValue_succ (F := F) (K := ℝ) 0
      rw [magValue_zero, lastPlace_of_lt (by positivity), zero_add, zero_add] at first
      rw [← first]
      exact mono.monotone pos
    refine le_trans ?_ least
    rw [← zpow_natCast, ← zpow_mul]
    exact zpow_le_zpow_right₀ one_le_two (by push_cast; linarith)
  have small : mag < F.infBits := by
    have infPos := infBits_pos hF
    have even := even_infBits hF
    have key := grid.lt_iff_reaches mono (N := F.infBits - 1) (by omega)
    by_contra big
    have reach := lt_of_reaches (mono (Nat.lt_succ_self _)) (key.mp (by omega))
    have le : F.magValue ℝ t ≤ F.magValue ℝ (F.infBits - 1) := mono.monotone (by omega)
    have root : Real.sqrt (F.magValue ℝ t) ≤ F.magValue ℝ (F.infBits - 1) := by
      rw [Real.sqrt_le_left (by linarith)]
      nlinarith
    exact not_lt.mpr root reach
  have untiny : tiny = false := by simpa using mt ht.mp (not_not.mpr normal)
  refine ⟨mag, inexact, small, ?_, grid⟩
  rw [Fmt.sqrtFinite]
  rw [eq, pack_eq, if_neg (not_le.mpr small), untiny]
  simp [Fmt.signed, flagIf]

variable {a : ℕ}

/-- What the square root of a finite number is to be. -/
def Fmt.rootOf (F : Fmt) (mode : Rounding) (x : ℚ) (r : FpResult) : Prop :=
  let v := F.value r.bits
  let far := fun q : ℚ => |(q : ℝ) - Real.sqrt (x : ℝ)|
  F.isFinite r.bits ∧ 0 ≤ v ∧ r.flags = (if v ^ 2 = x then 0 else 0b00001) ∧
    (mode = .rdn ∨ mode = .rtz → v ^ 2 ≤ x ∧ ∀ w, F.isFinite w → F.value w ^ 2 ≤ x → F.value w ≤ v) ∧
    (mode = .rup → x ≤ v ^ 2 ∧ ∀ w, F.isFinite w → 0 ≤ F.value w → x ≤ F.value w ^ 2 → v ≤ F.value w) ∧
    (mode = .rne ∨ mode = .rmm → ∀ w, F.isFinite w → far v ≤ far (F.value w))

theorem zero_rootOf (hF : F.regular) (mode : Rounding) (neg : Bool) : F.rootOf mode 0 (F.zero neg) := by
  have pos := infBits_pos hF
  have value : F.value (F.zero neg).bits = 0 := by
    show F.value (F.signed neg 0) = 0
    rw [value_signed (pos.trans (infBits_lt_signBit F)), magValue_zero, signedRat_zero]
  unfold Fmt.rootOf
  simp only [value]
  refine ⟨signed_isFinite pos, le_rfl, by simp [Fmt.zero, exactly], fun _ => ⟨by simp, fun b _ hb => ?_⟩,
    fun _ => ⟨by simp, fun b _ nonneg _ => nonneg⟩, fun _ b _ => by simp⟩
  exact (pow_eq_zero_iff two_ne_zero).mp (le_antisymm hb (sq_nonneg _)) |>.le

theorem abs_cast_value (F : Fmt) (b : ℕ) : |((F.value b : ℚ) : ℝ)| = F.magValue ℝ (b % F.signBit) := by
  rw [← Rat.cast_abs, abs_value, cast_magValue]

/-- A magnitude that rounds the real square root is the root that is asked for. -/
theorem RoundsOnGrid.rootOf {x : ℚ} (hx : 0 ≤ x) {mag : ℕ} {inexact : Bool} (small : mag < F.infBits)
    (h : RoundsOnGrid (F.magValue ℝ) (mode.direction false) (Real.sqrt (x : ℝ)) mag inexact) :
    F.rootOf mode x ⟨mag, flagIf inexact flagNX⟩ := by
  have mono := magValue_strictMono F ℝ
  have value : F.value mag = F.magValue ℚ mag :=
    value_signed (neg := false) (small.trans (infBits_lt_signBit F))
  have nonneg : (0 : ℚ) ≤ F.magValue ℚ mag := magValue_nonneg _
  have hx' : (0 : ℝ) ≤ x := Rat.cast_nonneg.mpr hx
  have root {q : ℚ} (hq : 0 ≤ q) : (q : ℝ) ≤ Real.sqrt x ↔ q ^ 2 ≤ x := by
    rw [Real.le_sqrt (Rat.cast_nonneg.mpr hq) hx']
    exact_mod_cast Iff.rfl
  have root' {q : ℚ} (hq : 0 ≤ q) : Real.sqrt x ≤ q ↔ x ≤ q ^ 2 := by
    rw [Real.sqrt_le_left (Rat.cast_nonneg.mpr hq)]
    exact_mod_cast Iff.rfl
  unfold Fmt.rootOf
  simp only [value]
  refine ⟨signed_isFinite (neg := false) small, nonneg, ?_, fun toward => ?_, fun up => ?_, fun near b _ => ?_⟩
  · have exact_ : F.magValue ℚ mag ^ 2 = x ↔ F.magValue ℝ mag = Real.sqrt x := by
      rw [le_antisymm_iff, le_antisymm_iff, ← root nonneg, ← root' nonneg, cast_magValue]
    by_cases square : F.magValue ℚ mag ^ 2 = x
    · have : inexact = false := by simpa using mt h.inexact_iff.mp (not_not.mpr (exact_.mp square))
      simp [square, this, flagIf]
    · have : inexact = true := h.inexact_iff.mpr (mt exact_.mpr square)
      simp [square, this, flagIf, flagNX]
  · have down : mode.direction false = .down := by rcases toward with rfl | rfl <;> rfl
    rw [down] at h
    obtain ⟨lower, upper⟩ := h.down
    refine ⟨(root nonneg).mp (by rwa [cast_magValue]), fun b _ hb => ?_⟩
    refine (le_abs_self _).trans ?_
    rw [abs_value, (magValue_strictMono F ℚ).le_iff_le, ← Nat.lt_succ_iff, ← mono.lt_iff_lt]
    refine lt_of_le_of_lt ?_ upper
    rw [← cast_magValue, root (magValue_nonneg _), ← abs_value, sq_abs]
    exact hb
  · subst up
    obtain ⟨upper, least⟩ := RoundsOnGrid.up mono h
    refine ⟨(root' nonneg).mp (by rwa [cast_magValue]), fun b _ pos hb => ?_⟩
    have reach : Real.sqrt x ≤ F.magValue ℝ (b % F.signBit) := by
      rw [← abs_cast_value, abs_of_nonneg (Rat.cast_nonneg.mpr pos), root' pos]
      exact hb
    have := least _ reach
    rw [← abs_cast_value, abs_of_nonneg (Rat.cast_nonneg.mpr pos), ← cast_magValue] at this
    exact_mod_cast this
  · have nearest : mode.direction false = .even ∨ mode.direction false = .away := by
      rcases near with rfl | rfl
      · exact .inl rfl
      · exact .inr rfl
    have closest : |F.magValue ℝ mag - Real.sqrt x| ≤ |F.magValue ℝ (b % F.signBit) - Real.sqrt x| := by
      by_cases point : b % F.signBit = mag
      · rw [point]
      · rcases h.nearest mono nearest point with lt | ⟨eq, -⟩
        · exact lt.le
        · exact eq.le
    rw [cast_magValue]
    refine closest.trans ?_
    rw [← abs_cast_value]
    have := abs_abs_sub_abs_le ((F.value b : ℚ) : ℝ) (Real.sqrt x)
    rwa [abs_of_nonneg (Real.sqrt_nonneg _)] at this

theorem sqrt_rootOf (h : F ∈ [b32, b64]) (mode : Rounding) (ha : F.isFinite a) (nonneg : 0 ≤ F.value a) :
    F.rootOf mode (F.value a) (F.sqrt mode a) := by
  have hF := regular_of_mem h
  rw [Fmt.sqrt, unpack_finite ha]
  dsimp only
  obtain ⟨-, fin⟩ := ha
  rcases nonneg.eq_or_lt with zero | pos
  · have none : a % F.signBit = 0 := value_eq_zero_iff.mp zero.symm
    have empty : F.significand (a % F.signBit) = 0 := by rw [none]; exact significand_of_lt (by positivity)
    rw [if_pos empty, ← zero]
    exact zero_rootOf hF mode _
  · have some : 0 < a % F.signBit := Nat.pos_of_ne_zero fun none => pos.ne' (value_eq_zero_iff.mpr none)
    have value : F.value a = F.magValue ℚ (a % F.signBit) := by rw [← abs_value, abs_of_pos pos]
    have plus : F.isNeg a = false := by
      have sign := value_eq F a
      rw [value] at sign pos
      cases neg : F.isNeg a
      · rfl
      · rw [neg, signedRat_true] at sign
        linarith
    obtain ⟨mag, inexact, small, eq, grid⟩ := sqrtFinite_onGrid h mode some fin
    rw [if_neg (significand_pos some).ne', plus, if_neg Bool.false_ne_true, eq]
    rw [← cast_magValue, ← value] at grid
    exact grid.rootOf pos.le small

end

/-- Settles O54. -/
theorem floatRoundsExactResult : Obligations.FloatRoundsExactResult := by
  intro F h m a b c ha hb hc x y z
  have hF := regular_of_mem h
  have fused (np na : Bool) := fused_roundsTo hF m np na ha hb hc
  exact ⟨add_roundsTo hF m ha hb, sub_roundsTo hF m ha hb, mul_roundsTo hF m ha hb, div_roundsTo hF m ha hb,
    fused false false, sub_eq_add_neg (x * y) z ▸ fused false true, fused true false,
    sub_eq_add_neg (-(x * y)) z ▸ fused true true, sqrt_rootOf h m ha⟩

end Sys2Proof.Machine
end

section
/-! SUPPORT. Comparisons, minimum, maximum and classification by value (rules R391, R397 to R399, R402, R403; D49). -/

namespace Sys2Proof.Machine

section

variable {F : Fmt} {a b : ℕ}

/-! ## NaNs -/

theorem isNan_iff (h : F.isPattern a) : F.isNan a = true ↔ F.nanPattern a := by
  rw [Fmt.isNan, decide_eq_true_eq, Fmt.nanPattern, and_iff_right h, Fmt.magnitude]

/-- The model's test for signalling NaNs is the rule's. -/
theorem isSignalling_iff (hF : F.regular) (h : F.isPattern a) : F.isSignalling a = true ↔ F.signalling a := by
  have no (ordinary : ¬ F.nanPattern a) : ¬ F.signalling a := fun ⟨nan, _⟩ => ordinary nan
  rw [Fmt.isSignalling, beq_iff_eq]
  rcases pattern_cases h with fin | inf | nan
  · rw [unpack_finite fin]
    exact iff_of_false nofun (no fun ⟨_, lt⟩ => lt_asymm lt fin.2)
  · rw [unpack_inf inf]
    exact iff_of_false nofun (no fun ⟨_, lt⟩ => lt.ne' inf.2)
  · obtain ⟨sig, eq, iff⟩ := unpack_nan hF nan
    rw [eq, Num.nan.injEq, iff]

/-- NV is raised exactly by a signalling operand. -/
theorem signalling_flag (hF : F.regular) (ha : F.isPattern a) (hb : F.isPattern b) :
    (F.signalling a ∨ F.signalling b → flagIf (F.isSignalling a || F.isSignalling b) flagNV = 0b10000) ∧
      (¬ F.signalling a → ¬ F.signalling b → flagIf (F.isSignalling a || F.isSignalling b) flagNV = 0) := by
  rw [← isSignalling_iff hF ha, ← isSignalling_iff hF hb]
  cases F.isSignalling a <;> cases F.isSignalling b <;> simp [flagIf, flagNV]

/-! ## Keys -/

/-- The number that a key stands for. -/
def Fmt.keyValue (F : Fmt) (z : ℤ) : ℚ := signedRat (decide (z < 0)) (F.magValue ℚ z.natAbs)

theorem keyValue_natCast (F : Fmt) (n : ℕ) : F.keyValue n = F.magValue ℚ n := by
  rw [Fmt.keyValue, decide_eq_false (by omega), signedRat_false, Int.natAbs_natCast]

theorem keyValue_neg_natCast (F : Fmt) (n : ℕ) : F.keyValue (-(n : ℤ)) = -F.magValue ℚ n := by
  rcases Nat.eq_zero_or_pos n with rfl | pos
  · rw [Nat.cast_zero, neg_zero, ← Nat.cast_zero, keyValue_natCast, magValue_zero, neg_zero]
  · rw [Fmt.keyValue, decide_eq_true (by omega), signedRat_true, Int.natAbs_neg, Int.natAbs_natCast]

theorem keyValue_strictMono (F : Fmt) : StrictMono F.keyValue := by
  refine strictMono_int_of_lt_succ fun z => ?_
  have step (n : ℕ) : F.magValue ℚ n < F.magValue ℚ (n + 1) := magValue_strictMono F ℚ (Nat.lt_succ_self n)
  rcases z with n | n
  · have next : Int.ofNat n + 1 = (n + 1 : ℕ) := rfl
    rw [next, Int.ofNat_eq_natCast, keyValue_natCast, keyValue_natCast]
    exact step n
  · have this : Int.negSucc n = -((n + 1 : ℕ) : ℤ) := rfl
    have next : Int.negSucc n + 1 = -(n : ℤ) := by omega
    rw [next, this, keyValue_neg_natCast, keyValue_neg_natCast]
    exact neg_lt_neg (step n)

/-- The key of a pattern orders it as its value does. -/
theorem value_eq_keyValue (F : Fmt) (b : ℕ) : F.value b = F.keyValue (F.key b) := by
  rw [value_eq, Fmt.key, Fmt.magnitude]
  cases F.isNeg b
  · exact (keyValue_natCast F _).symm
  · exact (keyValue_neg_natCast F _).symm

theorem key_eq_iff : F.key a = F.key b ↔ F.value a = F.value b := by
  rw [value_eq_keyValue, value_eq_keyValue, (keyValue_strictMono F).injective.eq_iff]

theorem key_lt_iff : F.key a < F.key b ↔ F.value a < F.value b := by
  rw [value_eq_keyValue, value_eq_keyValue, (keyValue_strictMono F).lt_iff_lt]

theorem key_le_iff : F.key a ≤ F.key b ↔ F.value a ≤ F.value b := by
  rw [value_eq_keyValue, value_eq_keyValue, (keyValue_strictMono F).le_iff_le]

/-- Patterns of one value and one sign are the same. -/
theorem eq_of_key_of_sign (ha : F.isPattern a) (hb : F.isPattern b) (key : F.key a = F.key b)
    (sign : F.isNeg a = F.isNeg b) : a = b := by
  have magnitude : a % F.signBit = b % F.signBit := by
    rw [Fmt.key, Fmt.key, sign, Fmt.magnitude, Fmt.magnitude] at key
    cases neg : F.isNeg b <;> simp only [neg, signedInt, if_true, if_false, Bool.false_eq_true] at key <;> omega
  rw [← signed_magnitude ha, ← signed_magnitude hb, sign, magnitude]

/-- Of two patterns of one value the smaller is the one that is not negative, if there is one. -/
theorem min_of_key (ha : F.isPattern a) (hb : F.isPattern b) (key : F.key a = F.key b) :
    (if F.isNeg a then b else a) = min a b ∧ (if F.isNeg a then a else b) = max a b := by
  by_cases sign : F.isNeg a = F.isNeg b
  · rw [eq_of_key_of_sign ha hb key sign]
    simp
  · cases na : F.isNeg a <;> cases nb : F.isNeg b
    · simp [na, nb] at sign
    · have low : a < F.signBit := by simpa [Fmt.isNeg] using na
      have high : F.signBit ≤ b := by simpa [Fmt.isNeg] using nb
      simp [(low.trans_le high).le]
    · have high : F.signBit ≤ a := by simpa [Fmt.isNeg] using na
      have low : b < F.signBit := by simpa [Fmt.isNeg] using nb
      simp [(low.trans_le high).le]
    · simp [na, nb] at sign

/-! ## Comparing numbers -/

section

variable (ha : F.isPattern a) (hb : F.isPattern b)

include ha hb

theorem compare_numbers (na : ¬ F.nanPattern a) (nb : ¬ F.nanPattern b) :
    F.eq a b = (decide (F.value a = F.value b), 0) ∧ F.lt a b = (decide (F.value a < F.value b), 0) ∧
      F.le a b = (decide (F.value a ≤ F.value b), 0) := by
  rw [← isNan_iff ha, Bool.not_eq_true] at na
  rw [← isNan_iff hb, Bool.not_eq_true] at nb
  refine ⟨?_, ?_, ?_⟩
  · simp [Fmt.eq, na, nb, ← key_eq_iff, ← Bool.beq_eq_decide_eq]
  · simp [Fmt.lt, na, nb, ← key_lt_iff]
  · simp [Fmt.le, na, nb, ← key_le_iff]

theorem select_numbers (hF : F.regular) (na : ¬ F.nanPattern a) (nb : ¬ F.nanPattern b) (pick : ℕ → ℕ → ℕ) :
    F.select pick a b = ⟨pick a b, 0⟩ := by
  have quiet := (signalling_flag hF ha hb).2 (fun ⟨nan, _⟩ => na nan) fun ⟨nan, _⟩ => nb nan
  rw [← isNan_iff ha, Bool.not_eq_true] at na
  rw [← isNan_iff hb, Bool.not_eq_true] at nb
  simp [Fmt.select, na, nb, quiet]

theorem extremes_of_numbers (hF : F.regular) (na : ¬ F.nanPattern a) (nb : ¬ F.nanPattern b) :
    F.max a b = ⟨if F.value a < F.value b then b else if F.value b < F.value a then a else min a b, 0⟩ ∧
      F.min a b = ⟨if F.value a < F.value b then a else if F.value b < F.value a then b else max a b, 0⟩ := by
  rw [Fmt.max, Fmt.min, select_numbers ha hb hF na nb, select_numbers ha hb hF na nb]
  simp only [key_eq_iff, key_lt_iff]
  rcases lt_trichotomy (F.value a) (F.value b) with lt | eq | gt
  · simp [lt, lt.ne, lt_asymm lt]
  · obtain ⟨least, most⟩ := min_of_key ha hb (key_eq_iff.mpr eq)
    rw [if_pos eq, if_pos eq, least, most]
    simp [eq]
  · simp [gt, gt.ne', lt_asymm gt]

/-- A NaN makes every comparison false; only a quiet one leaves FEQ without NV. -/
theorem compare_nan (nan : F.nanPattern a ∨ F.nanPattern b) :
    F.lt a b = (false, 0b10000) ∧ F.le a b = (false, 0b10000) ∧
      F.eq a b = (false, flagIf (F.isSignalling a || F.isSignalling b) flagNV) := by
  rw [← isNan_iff ha, ← isNan_iff hb, ← Bool.or_eq_true] at nan
  exact ⟨if_pos nan, if_pos nan, if_pos nan⟩

/-- Against a NaN the other operand is taken; of two NaNs none is (D49). -/
theorem select_nan (nan : F.nanPattern a ∨ F.nanPattern b) (pick : ℕ → ℕ → ℕ) :
    (¬ F.nanPattern a → (F.select pick a b).bits = a) ∧ (¬ F.nanPattern b → (F.select pick a b).bits = b) ∧
      (F.nanPattern a → F.nanPattern b → (F.select pick a b).bits = F.nan) := by
  simp only [← isNan_iff ha, ← isNan_iff hb] at nan ⊢
  unfold Fmt.select
  cases na : F.isNan a <;> cases nb : F.isNan b <;> simp_all

end

/-! ## Classes (rule R391) -/

theorem classify_finite (h : F.isFinite a) : F.classify a =
    if F.significand (a % F.signBit) = 0 then (if F.signBit ≤ a then 0x8 else 0x10)
    else if F.significand (a % F.signBit) < 2 ^ F.fracBits then (if F.signBit ≤ a then 0x4 else 0x20)
    else if F.signBit ≤ a then 0x2 else 0x40 := by
  rw [Fmt.classify, unpack_finite h]
  simp only [isNeg_iff]

/-- A fraction without hidden bit is finite. -/
theorem isFinite_of_lt (hF : F.regular) (h : F.isPattern a) (lt : a % F.signBit < 2 ^ F.fracBits) : F.isFinite a := by
  have := Nat.mul_le_mul_right (2 ^ F.fracBits) (expMax_pos hF)
  refine ⟨h, ?_⟩
  unfold Fmt.infBits
  omega

theorem le_significand {t : ℕ} (h : 2 ^ F.fracBits ≤ t) : 2 ^ F.fracBits ≤ F.significand t := by
  have pos : 0 < 2 ^ F.fracBits := by positivity
  rw [Fmt.significand, if_neg (Nat.div_pos h pos).ne']
  omega

end

/-- Settles O55. -/
theorem floatComparesByValue : Obligations.FloatComparesByValue := by
  intro F h a b ha hb quiet nv neg mag
  have hF := regular_of_mem h
  have pos : 0 < 2 ^ F.fracBits := by positivity
  refine ⟨fun na nb => ?_, fun nan => ?_, fun inf => ?_, fun fin normal => ?_, fun lt nonzero => ?_, fun zero => ?_,
    fun sig => ?_, fun nan quiet => ?_⟩
  · obtain ⟨eq, lt, le⟩ := compare_numbers ha hb na nb
    exact ⟨eq, lt, le, extremes_of_numbers ha hb hF na nb⟩
  · obtain ⟨lt, le, eq⟩ := compare_nan ha hb nan
    refine ⟨lt, le, by rw [eq], fun fl hfl => ?_, fun v hv => ?_⟩
    · have flag : fl = flagIf (F.isSignalling a || F.isSignalling b) flagNV := by
        simpa [eq, Fmt.max, Fmt.min, Fmt.select] using hfl
      rw [flag]
      exact signalling_flag hF ha hb
    · rw [List.mem_cons, List.mem_singleton] at hv
      rcases hv with rfl | rfl
      · exact select_nan ha hb nan _
      · exact select_nan ha hb nan _
  · rw [Fmt.classify, unpack_inf inf]
    simp only [isNeg_iff, neg]
  · have large : 2 ^ F.fracBits ≤ F.significand (a % F.signBit) := le_significand normal
    rw [classify_finite fin, if_neg (pos.trans_le large).ne', if_neg (not_lt.mpr large)]
  · rw [classify_finite (isFinite_of_lt hF ha lt), significand_of_lt lt, if_neg nonzero, if_pos lt]
  · have lt : a % F.signBit < 2 ^ F.fracBits := lt_of_eq_of_lt zero pos
    rw [classify_finite (isFinite_of_lt hF ha lt), significand_of_lt lt, if_pos zero]
  · obtain ⟨sig', eq, iff⟩ := unpack_nan hF sig.1
    rw [Fmt.classify, eq, iff.mpr sig]
    rfl
  · obtain ⟨sig', eq, iff⟩ := unpack_nan hF nan
    have off : sig' = false := eq_false_of_ne_true (mt iff.mp quiet)
    rw [Fmt.classify, eq, off]
    rfl

end Sys2Proof.Machine
end

section
/-! SUPPORT. NaNs, infinities and zeros in the arithmetic operations (rules R384, R390, R396, R401, R404, R405, R408, R409, R413,
R414). -/

namespace Sys2Proof.Machine

/-! ## NaN operands (rule R384) -/

/-- The number is a NaN. -/
def Num.isNan : Num → Bool
  | .nan _ => true
  | .inf _ | .fin _ _ _ => false

/-- The number is a signalling NaN. -/
def Num.signals : Num → Bool
  | .nan s => s
  | .inf _ | .fin _ _ _ => false

section

variable {F : Fmt} {mode : Rounding} {x y p : Num}

@[simp] theorem isNan_negate : x.negate.isNan = x.isNan := by cases x <;> rfl

@[simp] theorem signals_negate : x.negate.signals = x.signals := by cases x <;> rfl

theorem signals_of_not_isNan (h : x.isNan = false) : x.signals = false := by
  cases x
  case nan => cases h
  all_goals rfl

theorem addNum_nan (h : x.isNan = true ∨ y.isNan = true) : F.addNum mode x y = F.nanResult (x.signals || y.signals) := by
  cases x
  case nan s => cases y <;> simp [Fmt.addNum, Num.signals]
  all_goals
    cases y
    case nan => rfl
    all_goals simp [Num.isNan] at h

theorem mulNum_nan (h : x.isNan = true ∨ y.isNan = true) : mulNum x y = some (.nan (x.signals || y.signals)) := by
  cases x
  case nan s => cases y <;> simp [mulNum, Num.signals]
  all_goals
    cases y
    case nan => rfl
    all_goals simp [Num.isNan] at h

/-- A product of numbers is no NaN. -/
theorem isNan_of_mulNum (h : mulNum x y = some p) (hx : x.isNan = false) (hy : y.isNan = false) : p.isNan = false := by
  cases x with
  | nan => cases hx
  | inf n =>
    cases y with
    | nan => cases hy
    | inf k => cases h; rfl
    | fin k m e =>
      rw [mulNum] at h
      split at h <;> cases h
      rfl
  | fin n m e =>
    cases y with
    | nan => cases hy
    | inf k =>
      rw [mulNum] at h
      split at h <;> cases h
      rfl
    | fin k l f => cases h; rfl

end

section

variable {F : Fmt} {mode : Rounding} {a b c : ℕ}

theorem isNan_unpack (hF : F.regular) (h : F.isPattern a) : (F.unpack a).isNan = true ↔ F.nanPattern a := by
  rcases pattern_cases h with fin | inf | nan
  · rw [unpack_finite fin]
    exact iff_of_false nofun fun ⟨_, lt⟩ => lt_asymm lt fin.2
  · rw [unpack_inf inf]
    exact iff_of_false nofun fun ⟨_, lt⟩ => lt.ne' inf.2
  · obtain ⟨sig, eq, -⟩ := unpack_nan hF nan
    rw [eq]
    exact iff_of_true rfl nan

theorem signals_unpack (F : Fmt) (a : ℕ) : (F.unpack a).signals = F.isSignalling a := by
  rw [Fmt.isSignalling]
  cases F.unpack a
  case nan s => cases s <;> rfl
  all_goals rfl

/-- What an operation on two operands gives when one of them is a NaN. -/
theorem nanResult_two (hF : F.regular) (ha : F.isPattern a) (hb : F.isPattern b) {v : FpResult}
    (h : v = F.nanResult ((F.unpack a).signals || (F.unpack b).signals)) :
    v.bits = F.nan ∧ (F.signalling a ∨ F.signalling b → v.flags = 0b10000) ∧
      (¬ F.signalling a → ¬ F.signalling b → v.flags = 0) := by
  subst h
  rw [signals_unpack, signals_unpack]
  exact ⟨rfl, signalling_flag hF ha hb⟩

theorem nanResult_three (hF : F.regular) (ha : F.isPattern a) (hb : F.isPattern b) (hc : F.isPattern c) {v : FpResult}
    (h : v = F.nanResult ((F.unpack a).signals || (F.unpack b).signals || (F.unpack c).signals)) :
    v.bits = F.nan ∧ (F.signalling a ∨ F.signalling b ∨ F.signalling c → v.flags = 0b10000) ∧
      (¬ F.signalling a → ¬ F.signalling b → ¬ F.signalling c → v.flags = 0) := by
  subst h
  simp only [signals_unpack, hF, ha, hb, hc, ← isSignalling_iff]
  refine ⟨rfl, ?_⟩
  simp only [Fmt.nanResult]
  cases F.isSignalling a <;> cases F.isSignalling b <;> cases F.isSignalling c <;> simp [flagIf, flagNV]

theorem arith_nan (hF : F.regular) (ha : F.isPattern a) (hb : F.isPattern b) (nan : F.nanPattern a ∨ F.nanPattern b) :
    ∀ v ∈ [F.add mode a b, F.sub mode a b, F.mul mode a b, F.div mode a b],
      v = F.nanResult ((F.unpack a).signals || (F.unpack b).signals) := by
  rw [← isNan_unpack hF ha, ← isNan_unpack hF hb] at nan
  have div : F.div mode a b = F.nanResult ((F.unpack a).signals || (F.unpack b).signals) := by
    rw [Fmt.div]
    revert nan
    cases F.unpack a
    case nan => cases F.unpack b <;> simp [Num.signals]
    all_goals
      cases F.unpack b
      case nan => exact fun _ => rfl
      all_goals simp [Num.isNan]
  have sub : F.sub mode a b = F.nanResult ((F.unpack a).signals || (F.unpack b).signals) := by
    rw [Fmt.sub, addNum_nan (by simpa using nan), signals_negate]
  have mul : F.mul mode a b = F.nanResult ((F.unpack a).signals || (F.unpack b).signals) := by
    rw [Fmt.mul, mulNum_nan nan]
  simp only [List.mem_cons, List.not_mem_nil, or_false]
  rintro v (rfl | rfl | rfl | rfl)
  · exact addNum_nan nan
  · exact sub
  · exact mul
  · exact div

theorem sqrt_nan (hF : F.regular) (nan : F.nanPattern a) : (F.sqrt mode a).bits = F.nan ∧
    (F.signalling a → (F.sqrt mode a).flags = 0b10000) ∧ (¬ F.signalling a → (F.sqrt mode a).flags = 0) := by
  obtain ⟨sig, eq, iff⟩ := unpack_nan hF nan
  rw [Fmt.sqrt, eq, ← iff]
  exact ⟨rfl, fun on => by rw [on]; rfl, fun off => by rw [Bool.not_eq_true] at off; rw [off]; rfl⟩

/-! ## Infinities and zeros -/

theorem signed_infinity (h : F.isInf a) : F.signed (F.isNeg a) F.infBits = a := by
  conv_rhs => rw [← signed_magnitude h.1, h.2]

theorem signed_zero (h : F.isPattern a) (zero : a % F.signBit = 0) : F.signed (F.isNeg a) 0 = a := by
  conv_rhs => rw [← signed_magnitude h, zero]

theorem isFinite_of_zero (hF : F.regular) (h : F.isPattern a) (zero : a % F.signBit = 0) : F.isFinite a :=
  ⟨h, zero ▸ infBits_pos hF⟩

/-- A finite pattern is unpacked to a number that is zero exactly when the pattern is. -/
theorem unpack_finite_zero (h : F.isFinite a) :
    ∃ m e, F.unpack a = .fin (F.isNeg a) m e ∧ (m = 0 ↔ a % F.signBit = 0) := by
  obtain ⟨m, e, eq, value⟩ := exists_unpack_finite h
  exact ⟨m, e, eq, by rw [← value_eq_zero_iff (F := F), value, finiteValue_eq_zero_iff]⟩

theorem unpack_zero (hF : F.regular) (h : F.isPattern a) (zero : a % F.signBit = 0) :
    ∃ e, F.unpack a = .fin (F.isNeg a) 0 e := by
  obtain ⟨m, e, eq, iff⟩ := unpack_finite_zero (isFinite_of_zero hF h zero)
  exact ⟨e, by rw [eq, iff.mpr zero]⟩

/-- A number that is neither a NaN nor a zero is an infinity or a finite number other than zero. -/
theorem unpack_nonzero (h : F.isPattern a) (nan : ¬ F.nanPattern a) (zero : ¬ a % F.signBit = 0) :
    F.unpack a = .inf (F.isNeg a) ∨ ∃ m e, F.unpack a = .fin (F.isNeg a) m e ∧ m ≠ 0 := by
  rcases pattern_cases h with fin | inf | isNan
  · obtain ⟨m, e, eq, iff⟩ := unpack_finite_zero fin
    exact .inr ⟨m, e, eq, mt iff.mp zero⟩
  · exact .inl (unpack_inf inf)
  · exact absurd isNan nan

/-- Zero times infinity has no product. -/
theorem mulNum_inf_zero (hF : F.regular) (ha : F.isPattern a) (hb : F.isPattern b)
    (h : F.isInf a ∧ b % F.signBit = 0 ∨ a % F.signBit = 0 ∧ F.isInf b) : mulNum (F.unpack a) (F.unpack b) = none := by
  rcases h with ⟨inf, zero⟩ | ⟨zero, inf⟩
  · obtain ⟨e, eq⟩ := unpack_zero hF hb zero
    rw [unpack_inf inf, eq]
    rfl
  · obtain ⟨e, eq⟩ := unpack_zero hF ha zero
    rw [unpack_inf inf, eq]
    rfl

/-- An infinity times anything but a zero or a NaN is an infinity. -/
theorem mulNum_inf (ha : F.isPattern a) (hb : F.isPattern b)
    (h : F.isInf a ∧ ¬ F.nanPattern b ∧ ¬ b % F.signBit = 0 ∨ F.isInf b ∧ ¬ F.nanPattern a ∧ ¬ a % F.signBit = 0) :
    mulNum (F.unpack a) (F.unpack b) = some (.inf (F.isNeg a != F.isNeg b)) := by
  rcases h with ⟨inf, nan, zero⟩ | ⟨inf, nan, zero⟩
  · rw [unpack_inf inf]
    rcases unpack_nonzero hb nan zero with eq | ⟨m, e, eq, nonzero⟩ <;> rw [eq]
    · rfl
    · simp [mulNum, nonzero]
  · rw [unpack_inf inf]
    rcases unpack_nonzero ha nan zero with eq | ⟨m, e, eq, nonzero⟩ <;> rw [eq]
    · rfl
    · simp [mulNum, nonzero]

/-- Only zero times infinity has no product. -/
theorem mulNum_isSome (hF : F.regular) (ha : F.isPattern a) (hb : F.isPattern b) (h : ¬ (F.isInf a ∧ b % F.signBit = 0))
    (h' : ¬ (a % F.signBit = 0 ∧ F.isInf b)) : ∃ p, mulNum (F.unpack a) (F.unpack b) = some p := by
  by_cases nan : F.nanPattern a ∨ F.nanPattern b
  · exact ⟨_, mulNum_nan (by rwa [isNan_unpack hF ha, isNan_unpack hF hb])⟩
  · obtain ⟨na, nb⟩ := not_or.mp nan
    rcases pattern_cases ha with fin | inf | nan
    · rcases pattern_cases hb with fin' | inf' | nan
      · rw [unpack_finite fin, unpack_finite fin']
        exact ⟨_, rfl⟩
      · exact ⟨_, mulNum_inf ha hb (.inr ⟨inf', na, fun zero => h' ⟨zero, inf'⟩⟩)⟩
      · exact absurd nan nb
    · exact ⟨_, mulNum_inf ha hb (.inl ⟨inf, nb, fun zero => h ⟨inf, zero⟩⟩)⟩
    · exact absurd nan na

/-! ## The fused forms (rules R401, R404, R408, R409; D48) -/

variable {np na : Bool}

theorem fused_none (h : mulNum (F.unpack a) (F.unpack b) = none) : F.fused np na mode a b c = F.invalid := by
  rw [Fmt.fused, h]

theorem fused_some {p : Num} (h : mulNum (F.unpack a) (F.unpack b) = some p) : F.fused np na mode a b c =
    F.addNum mode (if np then p.negate else p) (if na then (F.unpack c).negate else F.unpack c) := by
  rw [Fmt.fused, h]

theorem fused_nan (hF : F.regular) (ha : F.isPattern a) (hb : F.isPattern b) (hc : F.isPattern c)
    (nan : F.nanPattern a ∨ F.nanPattern b ∨ F.nanPattern c) (h : ¬ (F.isInf a ∧ b % F.signBit = 0))
    (h' : ¬ (a % F.signBit = 0 ∧ F.isInf b)) : F.fused np na mode a b c =
      F.nanResult ((F.unpack a).signals || (F.unpack b).signals || (F.unpack c).signals) := by
  rw [← isNan_unpack hF ha, ← isNan_unpack hF hb, ← isNan_unpack hF hc] at nan
  obtain ⟨p, eq⟩ := mulNum_isSome hF ha hb h h'
  have addend : (if na then (F.unpack c).negate else F.unpack c).isNan = (F.unpack c).isNan ∧
      (if na then (F.unpack c).negate else F.unpack c).signals = (F.unpack c).signals := by cases na <;> simp
  have product : (if np then p.negate else p).isNan = p.isNan ∧ (if np then p.negate else p).signals = p.signals := by
    cases np <;> simp
  have signals : p.signals = ((F.unpack a).signals || (F.unpack b).signals) ∧
      (p.isNan = true ∨ (F.unpack c).isNan = true) := by
    by_cases factor : (F.unpack a).isNan = true ∨ (F.unpack b).isNan = true
    · rw [mulNum_nan factor, Option.some.injEq] at eq
      exact eq ▸ ⟨rfl, .inl rfl⟩
    · obtain ⟨fa, fb⟩ := not_or.mp factor
      rw [Bool.not_eq_true] at fa fb
      rw [signals_of_not_isNan fa, signals_of_not_isNan fb, signals_of_not_isNan (isNan_of_mulNum eq fa fb)]
      exact ⟨rfl, .inr ((nan.resolve_left (by simp [fa])).resolve_left (by simp [fb]))⟩
  obtain ⟨sig, some⟩ := signals
  rw [fused_some eq, addNum_nan (by rwa [addend.1, product.1]), addend.2, product.2, sig]

/-- An infinite product. -/
theorem fused_inf_product (h : mulNum (F.unpack a) (F.unpack b) = some (.inf (F.isNeg a != F.isNeg b))) :
    let ps := (F.isNeg a != F.isNeg b) != np
    (F.isFinite c → F.fused np na mode a b c = exactly (F.signed ps F.infBits)) ∧
      (F.isInf c → F.fused np na mode a b c =
        if ps = (F.isNeg c != na) then exactly (F.signed ps F.infBits) else F.invalid) := by
  rw [fused_some h]
  refine ⟨fun fin => ?_, fun inf => ?_⟩
  · rw [unpack_finite fin]
    cases np <;> cases na <;> simp [Fmt.addNum, Num.negate]
  · rw [unpack_inf inf]
    cases np <;> cases na <;> simp [Fmt.addNum, Num.negate]

/-- An infinite addend to a finite product. -/
theorem fused_inf_addend (ha : F.isFinite a) (hb : F.isFinite b) (hc : F.isInf c) :
    F.fused np na mode a b c = exactly (F.signed (F.isNeg c != na) F.infBits) := by
  rw [Fmt.fused, unpack_finite ha, unpack_finite hb, unpack_inf hc]
  cases np <;> cases na <;> simp [Fmt.addNum, Num.negate, mulNum]

end

end Sys2Proof.Machine
end

section
/-! SUPPORT. The special values of each operation, and their statement (rules R384, R390, R396, R401, R404, R405, R408, R409, R413,
R414). -/

namespace Sys2Proof.Machine

section

variable {F : Fmt} {mode : Rounding} {a b c : ℕ} {np na : Bool}

/-! ## Exact zero sums (rule R390) -/

theorem add_zero_sum (ha : F.isFinite a) (hb : F.isFinite b) (h : F.value a + F.value b = 0) :
    F.add mode a b = F.zero (if F.isNeg a = F.isNeg b then F.isNeg a else mode == .rdn) := by
  obtain ⟨m, e, ua, va⟩ := exists_unpack_finite ha
  obtain ⟨l, f, ub, vb⟩ := exists_unpack_finite hb
  rw [va, vb] at h
  rw [Fmt.add, ua, ub]
  exact addFinite_zero h

theorem sub_zero_sum (ha : F.isFinite a) (hb : F.isFinite b) (h : F.value a = F.value b) :
    F.sub mode a b = F.zero (if F.isNeg a = !F.isNeg b then F.isNeg a else mode == .rdn) := by
  obtain ⟨m, e, ua, va⟩ := exists_unpack_finite ha
  obtain ⟨l, f, ub, vb⟩ := exists_unpack_finite hb
  rw [va, vb] at h
  rw [Fmt.sub, ua, ub]
  exact addFinite_zero (by rw [finiteValue_not, h, add_neg_cancel])

theorem fused_zero_sum (ha : F.isFinite a) (hb : F.isFinite b) (hc : F.isFinite c)
    (h : signedRat np (F.value a * F.value b) + signedRat na (F.value c) = 0) :
    F.fused np na mode a b c = F.zero (if ((F.isNeg a != F.isNeg b) != np) = (F.isNeg c != na) then
      (F.isNeg a != F.isNeg b) != np else mode == .rdn) := by
  obtain ⟨m, e, ua, va⟩ := exists_unpack_finite ha
  obtain ⟨l, f, ub, vb⟩ := exists_unpack_finite hb
  obtain ⟨k, g, uc, vc⟩ := exists_unpack_finite hc
  rw [va, vb, vc, ← finiteValue_mul, ← finiteValue_bne, ← finiteValue_bne] at h
  rw [Fmt.fused, ua, ub, uc]
  simp only [mulNum, negate_if]
  exact addFinite_zero h

/-! ## Two infinities, and an infinity with a finite number -/

theorem inf_inf (ha : F.isInf a) (hb : F.isInf b) :
    F.add mode a b = (if F.isNeg a = F.isNeg b then exactly a else F.invalid) ∧
      F.sub mode a b = (if F.isNeg a = F.isNeg b then F.invalid else exactly a) ∧
      F.mul mode a b = exactly (F.signed (F.isNeg a != F.isNeg b) F.infBits) ∧ F.div mode a b = F.invalid := by
  have bits := signed_infinity ha
  rw [Fmt.add, Fmt.sub, Fmt.mul, Fmt.div, unpack_inf ha, unpack_inf hb]
  simp only [Fmt.addNum, Num.negate, mulNum, bits, and_self, and_true, true_and]
  cases F.isNeg a <;> cases F.isNeg b <;> rfl

theorem inf_finite (ha : F.isInf a) (hb : F.isFinite b) :
    F.add mode a b = exactly a ∧ F.sub mode a b = exactly a ∧ F.add mode b a = exactly a ∧
      F.sub mode b a = exactly (F.signed (!F.isNeg a) F.infBits) ∧
      F.div mode a b = exactly (F.signed (F.isNeg a != F.isNeg b) F.infBits) ∧
      F.div mode b a = exactly (F.signed (F.isNeg a != F.isNeg b) 0) := by
  have bits := signed_infinity ha
  simp only [Fmt.add, Fmt.sub, Fmt.div, unpack_inf ha, unpack_finite hb, Fmt.addNum, Num.negate, bits, Fmt.zero,
    bne_comm (a := F.isNeg b), and_self]

theorem inf_mul_finite (ha : F.isInf a) (hb : F.isFinite b) (h : ¬ b % F.signBit = 0) :
    F.mul mode a b = exactly (F.signed (F.isNeg a != F.isNeg b) F.infBits) ∧
      F.mul mode b a = exactly (F.signed (F.isNeg a != F.isNeg b) F.infBits) := by
  have nan : ¬ F.nanPattern b := fun ⟨_, lt⟩ => lt_asymm lt hb.2
  rw [Fmt.mul, Fmt.mul, mulNum_inf ha.1 hb.1 (.inl ⟨ha, nan, h⟩), mulNum_inf hb.1 ha.1 (.inr ⟨ha, nan, h⟩)]
  exact ⟨rfl, by rw [bne_comm]⟩

/-! ## Zeros -/

theorem div_by_zero (hF : F.regular) (ha : F.isFinite a) (hb : F.isPattern b) (zero : b % F.signBit = 0) :
    F.div mode a b = if a % F.signBit = 0 then F.invalid
      else { bits := F.signed (F.isNeg a != F.isNeg b) F.infBits, flags := flagDZ } := by
  obtain ⟨m, e, ua, iff⟩ := unpack_finite_zero ha
  obtain ⟨f, ub⟩ := unpack_zero hF hb zero
  rw [Fmt.div, ua, ub]
  simp only [iff, if_true]

theorem zero_div (hF : F.regular) (ha : F.isPattern a) (zero : a % F.signBit = 0) (hb : F.isFinite b)
    (h : ¬ b % F.signBit = 0) : F.div mode a b = F.zero (F.isNeg a != F.isNeg b) := by
  obtain ⟨e, ua⟩ := unpack_zero hF ha zero
  obtain ⟨l, f, ub, iff⟩ := unpack_finite_zero hb
  rw [Fmt.div, ua, ub]
  simp only [if_neg (mt iff.mp h), if_true]

theorem mul_zero_product (ha : F.isFinite a) (hb : F.isFinite b) (h : a % F.signBit = 0 ∨ b % F.signBit = 0) :
    F.mul mode a b = F.zero (F.isNeg a != F.isNeg b) := by
  obtain ⟨m, e, ua, iff⟩ := unpack_finite_zero ha
  obtain ⟨l, f, ub, iff'⟩ := unpack_finite_zero hb
  have none : m * l = 0 := Nat.mul_eq_zero.mpr (h.imp iff.mpr iff'.mpr)
  rw [Fmt.mul, ua, ub]
  simp only [mulNum, none, if_true]

/-! ## Square roots (rule R413) -/

theorem sqrt_negative (ha : F.isFinite a) (neg : F.isNeg a = true) (h : ¬ a % F.signBit = 0) :
    F.sqrt mode a = F.invalid := by
  obtain ⟨m, e, ua, iff⟩ := unpack_finite_zero ha
  rw [Fmt.sqrt, ua]
  simp only [if_neg (mt iff.mp h), neg, if_true]

theorem sqrt_zero (hF : F.regular) (ha : F.isPattern a) (zero : a % F.signBit = 0) : F.sqrt mode a = exactly a := by
  obtain ⟨e, ua⟩ := unpack_zero hF ha zero
  rw [Fmt.sqrt, ua]
  simp only [if_true, Fmt.zero, signed_zero ha zero]

theorem sqrt_inf (ha : F.isInf a) : F.sqrt mode a = if F.isNeg a = true then F.invalid else exactly a := by
  have bits := signed_infinity ha
  rw [Fmt.sqrt, unpack_inf ha]
  cases neg : F.isNeg a
  · rw [neg] at bits
    exact congrArg exactly bits
  · rfl

end

/-- The canonical NaN has an exponent and a highest fraction bit of ones (rules R384, R430). -/
theorem nan_eq {F : Fmt} (h : F ∈ [b32, b64]) : F.nan = (2 ^ (F.expBits + 1) - 1) * 2 ^ (F.fracBits - 1) := by
  simp only [List.mem_cons, List.not_mem_nil, or_false] at h
  rcases h with rfl | rfl <;> rfl

/-- Settles O53. -/
theorem floatSpecialValues : Obligations.FloatSpecialValues := by
  intro F h m a b c np na ha hb hc neg signed
  have hF := regular_of_mem h
  have sign : neg = F.isNeg := rfl
  have pack : signed = F.signed := funext₂ fun n t => (signed_eq n t).symm
  clear_value neg signed
  subst sign pack
  intro product zero nv invalid clean
  refine ⟨nan_eq h, fun nan v hv => nanResult_two hF ha hb (arith_nan hF ha hb nan v hv), sqrt_nan hF,
    fun infZero => ?_, fun nan h h' => nanResult_three hF ha hb hc (fused_nan hF ha hb hc nan h h'), ?_, inf_inf,
    fun infA finB => ?_, fun finA zeroB => div_by_zero hF finA hb zeroB, sqrt_negative, sqrt_zero hF ha, sqrt_inf,
    add_zero_sum, sub_zero_sum, mul_zero_product, zero_div hF ha⟩
  · have none := mulNum_inf_zero hF ha hb infZero
    exact ⟨by rw [Fmt.mul, none]; rfl, fused_none none⟩
  · refine ⟨fun inf => fused_inf_product (mulNum_inf ha hb inf), fused_inf_addend, fun finA finB finC sum => ?_⟩
    refine fused_zero_sum finA finB finC ?_
    cases np <;> cases na <;> simpa using sum
  · obtain ⟨add, sub, add', sub', div, div'⟩ := inf_finite (mode := m) infA finB
    exact ⟨add, sub, add', sub', div, div', inf_mul_finite infA finB⟩

end Sys2Proof.Machine
end

section
/-! SUPPORT. Conversions to and from integers and between the formats (rules R392 to R395, R442 to R447). -/

namespace Sys2Proof.Machine

/-! ## Rounding to an integer (rule R382) -/

section

variable {mode : Rounding} {w v : ℚ} {k : ℕ} {inexact : Bool}

theorem multiples_zero (n : ℕ) : multiples ℚ 0 n = n := by simp [multiples]

theorem cast_signedInt_eq (neg : Bool) (k : ℕ) (w : ℚ) :
    ((signedInt neg k : ℤ) : ℚ) = signedRat neg w ↔ (k : ℚ) = w := by
  rw [cast_signedInt, signedRat_inj]

/-- The nearest integer, the even one of two. -/
theorem roundedInteger_rne {z : ℤ} (near : |v - z| ≤ 1 / 2) (tie : |v - z| = 1 / 2 → z % 2 = 0) :
    roundedInteger .rne v = z := by
  have low := Int.floor_le v
  have high := Int.lt_floor_add_one v
  obtain ⟨below, above⟩ := abs_le.mp near
  unfold roundedInteger
  generalize ⌊v⌋ = f at low high
  dsimp only
  rcases lt_trichotomy (v - f) (1 / 2) with lt | eq | gt
  · rw [if_pos lt]
    have : f < z + 1 := by exact_mod_cast (show (f : ℚ) < z + 1 by linarith)
    have : z < f + 1 := by exact_mod_cast (show (z : ℚ) < f + 1 by linarith)
    omega
  · rw [if_neg eq.not_lt, if_neg eq.not_gt]
    have le : f ≤ z := by exact_mod_cast (show (f : ℚ) ≤ z by linarith)
    have ge : z ≤ f + 1 := by exact_mod_cast (show (z : ℚ) ≤ f + 1 by linarith)
    have even : z % 2 = 0 := by
      refine tie ?_
      rcases le.eq_or_lt with rfl | lt
      · rw [eq, abs_of_pos one_half_pos]
      · obtain rfl : z = f + 1 := by omega
        push_cast
        rw [abs_of_nonpos (by linarith)]
        linarith
    split <;> omega
  · rw [if_neg (lt_asymm gt), if_pos gt]
    have : f < z := by exact_mod_cast (show (f : ℚ) < z by linarith)
    have : z < f + 2 := by exact_mod_cast (show (z : ℚ) < f + 2 by linarith)
    omega

theorem floor_eq (lower : (k : ℚ) ≤ w) (upper : w < k + 1) : ⌊w⌋ = k := Int.floor_eq_iff.mpr ⟨lower, upper⟩

theorem ceil_eq (lower : (k : ℚ) - 1 < w) (upper : w ≤ k) : ⌈w⌉ = k := Int.ceil_eq_iff.mpr ⟨lower, upper⟩

/-- Rounding a magnitude to the grid of the integers is rounding the number to an integer. -/
theorem RoundsOnGrid.roundedInteger {neg : Bool} (hw : 0 ≤ w)
    (h : RoundsOnGrid (multiples ℚ 0) (mode.direction neg) w k inexact) :
    roundedInteger mode (signedRat neg w) = signedInt neg k := by
  have mono := multiples_strictMono (K := ℚ) 0
  have down (h : RoundsOnGrid (multiples ℚ 0) .down w k inexact) : ⌊w⌋ = k := by
    obtain ⟨lower, upper⟩ := h.down
    rw [multiples_zero] at lower upper
    exact floor_eq lower (by exact_mod_cast upper)
  have up (h : RoundsOnGrid (multiples ℚ 0) .up w k inexact) : ⌈w⌉ = k := by
    obtain ⟨upper, least⟩ := h.up mono
    simp only [multiples_zero, Nat.cast_le] at upper least
    refine ceil_eq (lt_of_not_ge fun le => ?_) upper
    rcases Nat.eq_zero_or_pos k with rfl | pos
    · norm_num at le
      linarith
    · have := least (k - 1) (by rwa [Nat.cast_pred pos])
      omega
  cases mode
  case rdn =>
    cases neg
    · exact down h
    · exact Int.floor_neg.trans (congrArg Neg.neg (up h))
  case rup =>
    cases neg
    · exact up h
    · exact Int.ceil_neg.trans (congrArg Neg.neg (down h))
  case rtz =>
    have floor := down h
    cases neg
    · exact (if_pos hw).trans floor
    · rw [signedRat_true, Sys2Proof.Machine.roundedInteger]
      rcases hw.eq_or_lt with rfl | pos
      · rw [Int.floor_zero] at floor
        simp [signedInt, ← floor]
      · rw [if_neg (by linarith), Int.ceil_neg, floor]
        rfl
  case rne =>
    have distance : |signedRat neg w - (signedInt neg k : ℤ)| = |w - k| := by rw [cast_signedInt, abs_signedRat_sub]
    have nearest : |w - k| ≤ 1 / 2 ∧ (|w - k| = 1 / 2 → k % 2 = 0) := by
      rcases h.cases with ⟨lower, -, -, -, even, -⟩ | ⟨t, rfl, -, upper, -, -, even, -⟩
      · obtain ⟨le, tie⟩ := even rfl
        simp only [multiples_zero, Nat.cast_succ] at lower le tie
        rw [abs_of_nonneg (by linarith)]
        exact ⟨by linarith, fun eq => tie (by linarith)⟩
      · obtain ⟨le, tie⟩ := even rfl
        simp only [multiples_zero, Nat.cast_succ] at upper le tie
        rw [Nat.cast_succ, abs_of_nonpos (by linarith)]
        refine ⟨by linarith, fun eq => ?_⟩
        have := tie (by linarith)
        omega
    obtain ⟨near, tie⟩ := nearest
    refine roundedInteger_rne (by rwa [distance]) fun eq => ?_
    have := tie (by rwa [distance] at eq)
    cases neg <;> simp only [signedInt, if_true, if_false, Bool.false_eq_true] <;> omega
  case rmm =>
    have floor : ⌊w + 1 / 2⌋ = k := by
      rcases h.cases with ⟨lower, -, -, -, -, away⟩ | ⟨t, rfl, -, upper, -, -, -, away⟩
      · have lt := away rfl
        simp only [multiples_zero, Nat.cast_succ] at lower lt
        exact floor_eq (by linarith) (by linarith)
      · have le := away rfl
        simp only [multiples_zero, Nat.cast_succ] at upper le
        exact floor_eq (by push_cast; linarith) (by push_cast; linarith)
    cases neg
    · exact (if_pos hw).trans floor
    · rw [signedRat_true, Sys2Proof.Machine.roundedInteger]
      rcases hw.eq_or_lt with rfl | pos
      · rw [neg_zero, if_pos le_rfl, floor]
        have zero : (k : ℤ) = 0 := by rw [← floor]; norm_num
        simp [signedInt, zero]
      · rw [if_neg (by linarith), ← neg_add', Int.ceil_neg, floor]
        rfl

/-! ## To an integer (rules R394, R395) -/

theorem roundToInt_onGrid (mode : Rounding) (neg : Bool) (m : ℕ) (e : ℤ) : ∃ k inexact,
    roundToInt mode neg m e = (signedInt neg k, inexact) ∧
      RoundsOnGrid (multiples ℚ 0) (mode.direction neg) ((m : ℚ) * 2 ^ e) k inexact := by
  obtain ⟨t, half, inexact, on, eq⟩ :=
    scaledTo_onGrid (mode := mode) (neg := neg) (m := m) (e := e) (w := (m : ℚ) * 2 ^ e) (sticky := false) (place := 0)
      rfl nofun
  refine ⟨_, inexact, ?_, t, half, on, rfl⟩
  rw [scaledTo] at eq
  rw [roundToInt]
  split
  · rw [if_pos ‹_›, sub_zero, Prod.mk.injEq] at eq
    rw [eq.1, ← eq.2]
  · rw [if_neg ‹_›, zero_sub] at eq
    rw [eq]

/-- A finite number is rounded to an integer, and that is inexact when the integer is not the number. -/
theorem roundToInt_eq (mode : Rounding) (neg : Bool) (m : ℕ) (e : ℤ) : roundToInt mode neg m e =
    (roundedInteger mode (finiteValue neg m e),
      decide ((roundedInteger mode (finiteValue neg m e) : ℚ) ≠ finiteValue neg m e)) := by
  obtain ⟨k, inexact, eq, grid⟩ := roundToInt_onGrid mode neg m e
  have nonneg : (0 : ℚ) ≤ m * 2 ^ e := by positivity
  have exact_ := grid.inexact_iff
  rw [multiples_zero] at exact_
  rw [finiteValue_eq, grid.roundedInteger nonneg, eq, Prod.mk.injEq, and_iff_right rfl, Bool.eq_iff_iff,
    decide_eq_true_eq, exact_, Ne, Ne, cast_signedInt_eq]

variable {F : Fmt} {a : ℕ}

theorem toInt_finite (lo hi : ℤ) (mode : Rounding) (h : F.isFinite a) :
    let r := roundedInteger mode (F.value a)
    F.toInt lo hi mode a = if hi < r then (hi, 0b10000) else if r < lo then (lo, 0b10000)
      else (r, if (r : ℚ) = F.value a then 0 else 0b00001) := by
  obtain ⟨m, e, ua, va⟩ := exists_unpack_finite h
  rw [Fmt.toInt, ua, va]
  simp only [roundToInt_eq]
  have flag (p : Prop) [Decidable p] : flagIf (decide ¬ p) flagNX = if p then 0 else 0b00001 := by
    by_cases p <;> simp [flagIf, flagNX, *]
  simp only [Ne, flag]
  rfl

theorem toInt_nan (hF : F.regular) (lo hi : ℤ) (mode : Rounding) (h : F.nanPattern a) :
    F.toInt lo hi mode a = (hi, 0b10000) := by
  obtain ⟨sig, ua, -⟩ := unpack_nan hF h
  rw [Fmt.toInt, ua]
  rfl

theorem toInt_inf (lo hi : ℤ) (mode : Rounding) (h : F.isInf a) :
    F.toInt lo hi mode a = (if F.signBit ≤ a then lo else hi, 0b10000) := by
  rw [Fmt.toInt, unpack_inf h]
  simp only [isNeg_iff]
  rfl

end

/-! ## Exact results -/

section

variable {F : Fmt} {mode : Rounding} {neg : Bool} {m t : ℕ} {e : ℤ}

/-- A number of no more bits than the format has, at an exponent that it reaches, is a number of the format. -/
theorem exists_magValue (F : Fmt) (n : ℕ) : ∀ m : ℕ, m < 2 ^ (F.fracBits + 1) →
    ∃ t, F.magValue ℚ t = m * 2 ^ (F.minExp + n) := by
  induction n with
  | zero => exact fun m hm => ⟨_, magValue_encode hm.le (.inl rfl)⟩
  | succ n ih =>
    intro m hm
    rcases le_or_gt (2 ^ F.fracBits) m with normal | small
    · exact ⟨_, magValue_encode hm.le (.inr normal)⟩
    · obtain ⟨t, ht⟩ := ih (2 * m) (by rw [pow_succ']; omega)
      refine ⟨t, ht.trans ?_⟩
      rw [Nat.cast_succ, ← add_assoc, zpow_add_one₀ two_ne_zero]
      push_cast
      ring

/-- A number of the format is rounded to itself. -/
theorem round_exact (hF : F.regular) (mode : Rounding) (neg : Bool) (hm : 0 < m) (ht : t < F.infBits)
    (h : F.magValue ℚ t = m * 2 ^ e) : F.round mode neg m e false = exactly (F.signed neg t) := by
  obtain ⟨mag, inexact, tiny, eq, grid, -⟩ := round_onGrid (sticky := false) hF mode neg hm h nofun
  obtain ⟨rfl, rfl⟩ := grid.point (magValue_strictMono F ℚ)
  rw [eq, pack_eq, if_neg (not_le.mpr ht)]
  cases tiny <;> rfl

theorem signBit_le_round (F : Fmt) (mode : Rounding) (neg : Bool) (m : ℕ) (e : ℤ) (sticky : Bool) :
    F.signBit ≤ (F.round mode neg m e sticky).bits ↔ neg = true := by
  rw [round_eq]
  exact signBit_le_signed (delivered_lt_signBit F _ _)

end

/-! ## From an integer (rules R392, R393, R443, R444) -/

theorem ofInt_roundsTo {F : Fmt} (hF : F.regular) (mode : Rounding) (z : ℤ) : F.roundsTo mode z (F.ofInt mode z) := by
  have := roundInt_roundsTo hF mode z 0 false
  rwa [zpow_zero, mul_one] at this

/-- Infinity stands at 2 ^ 128 and at 2 ^ 1024. -/
theorem magValue_infBits_formats :
    b32.magValue ℚ b32.infBits = 2 ^ (128 : ℤ) ∧ b64.magValue ℚ b64.infBits = 2 ^ (1024 : ℤ) := by
  have place : b32.minExp + b32.expMax + b32.fracBits - 1 = 128 := by decide
  have place' : b64.minExp + b64.expMax + b64.fracBits - 1 = 1024 := by decide
  exact ⟨(magValue_infBits ⟨by decide, by decide⟩).trans (congrArg _ place),
    (magValue_infBits ⟨by decide, by decide⟩).trans (congrArg _ place')⟩

theorem lt_infBits_b64 {t : ℕ} (h : b64.magValue ℚ t < 2 ^ (1024 : ℤ)) : t < b64.infBits := by
  rw [← magValue_infBits_formats.2] at h
  exact (magValue_strictMono b64 ℚ).lt_iff_lt.mp h

/-- An integer of 32 bits is a double. -/
theorem ofInt_exact (mode : Rounding) {z : ℤ} (hz : |z| ≤ 2 ^ 32) :
    b64.value (b64.ofInt mode z).bits = z ∧ (b64.ofInt mode z).flags = 0 := by
  have hF : b64.regular := ⟨by decide, by decide⟩
  obtain ⟨t, fin, value, eq⟩ : ∃ t, t < b64.infBits ∧ b64.magValue ℚ t = z.natAbs ∧
      b64.ofInt mode z = exactly (b64.signed (decide (z < 0)) t) := by
    rcases eq_or_ne z 0 with rfl | nonzero
    · exact ⟨0, infBits_pos hF, by simp, rfl⟩
    · have range := abs_le.mp hz
      have small : z.natAbs < 2 ^ (b64.fracBits + 1) := by
        have : (2 : ℕ) ^ (b64.fracBits + 1) = 2 ^ 53 := rfl
        omega
      obtain ⟨t, ht⟩ := exists_magValue b64 1074 z.natAbs small
      have place : b64.minExp + (1074 : ℕ) = 0 := rfl
      rw [place] at ht
      have fin : t < b64.infBits := by
        refine lt_infBits_b64 ?_
        calc b64.magValue ℚ t = z.natAbs := by rw [ht, zpow_zero, mul_one]
          _ ≤ (2 ^ 32 : ℕ) := Nat.cast_le.mpr (by omega)
          _ = 2 ^ (32 : ℤ) := by norm_num
          _ < 2 ^ (1024 : ℤ) := zpow_lt_zpow_right₀ one_lt_two (by decide)
      refine ⟨t, fin, by rw [ht, zpow_zero, mul_one], ?_⟩
      rw [Fmt.ofInt, Fmt.roundInt, if_neg nonzero]
      exact round_exact hF mode _ (Int.natAbs_pos.mpr nonzero) fin ht
  rw [eq]
  refine ⟨?_, rfl⟩
  rw [intCast_eq_signedRat z, ← value]
  exact value_signed (fin.trans (infBits_lt_signBit b64))

/-! ## Between the formats (rules R442, R445) -/

section

variable {F G : Fmt} {mode : Rounding} {a : ℕ}

theorem significand_lt (F : Fmt) (t : ℕ) : F.significand t < 2 ^ (F.fracBits + 1) := by
  have := Nat.mod_lt t (show 0 < 2 ^ F.fracBits by positivity)
  rw [Fmt.significand, pow_succ]
  split <;> omega

/-- A finite number of another format is rounded once and keeps its sign. -/
theorem convert_finite (hF : F.regular) (mode : Rounding) (h : G.isFinite a) :
    F.roundsTo mode (G.value a) (F.convert G mode a) ∧ (F.signBit ≤ (F.convert G mode a).bits ↔ G.signBit ≤ a) := by
  obtain ⟨m, e, ua, va⟩ := exists_unpack_finite h
  rw [Fmt.convert, ua, va, ← isNeg_iff (F := G)]
  refine ⟨roundFinite_roundsTo hF mode _ m e, ?_⟩
  dsimp only
  split
  · exact signBit_le_signed ((infBits_pos hF).trans (infBits_lt_signBit F))
  · exact signBit_le_round ..

theorem convert_inf (h : G.isInf a) :
    F.convert G mode a = ⟨if G.signBit ≤ a then F.signBit + F.infBits else F.infBits, 0⟩ := by
  rw [Fmt.convert, unpack_inf h]
  simp only [exactly, Fmt.signed, isNeg_iff]

theorem convert_nan (hG : G.regular) (h : G.nanPattern a) : (F.convert G mode a).bits = F.nan ∧
    (G.signalling a → (F.convert G mode a).flags = 0b10000) ∧ (¬ G.signalling a → (F.convert G mode a).flags = 0) := by
  obtain ⟨sig, ua, iff⟩ := unpack_nan hG h
  rw [Fmt.convert, ua, ← iff]
  exact ⟨rfl, fun on => by rw [on]; rfl, fun off => by rw [Bool.not_eq_true] at off; rw [off]; rfl⟩

/-- Every finite single is a double. -/
theorem convert_widens (mode : Rounding) (h : b32.isFinite a) : ∃ t, t < b64.infBits ∧
    b64.magValue ℚ t = b32.magValue ℚ (a % b32.signBit) ∧
      b64.convert b32 mode a = exactly (b64.signed (b32.isNeg a) t) := by
  have hF : b64.regular := ⟨by decide, by decide⟩
  have small : b32.significand (a % b32.signBit) < 2 ^ (b64.fracBits + 1) :=
    (significand_lt b32 _).trans (by decide)
  have place : b32.lastPlace (a % b32.signBit) = b64.minExp + (925 + (a % b32.signBit / 2 ^ b32.fracBits - 1) : ℕ) := by
    have : b32.minExp = b64.minExp + 925 := rfl
    rw [Fmt.lastPlace, this, Nat.cast_add, add_assoc]
    rfl
  obtain ⟨t, ht⟩ := exists_magValue b64 _ _ small
  rw [← place] at ht
  have fin : t < b64.infBits := by
    refine lt_infBits_b64 (lt_of_eq_of_lt ht ?_)
    calc b32.magValue ℚ (a % b32.signBit) < b32.magValue ℚ b32.infBits := magValue_strictMono b32 ℚ h.2
      _ = 2 ^ (128 : ℤ) := magValue_infBits_formats.1
      _ < 2 ^ (1024 : ℤ) := zpow_lt_zpow_right₀ one_lt_two (by decide)
  refine ⟨t, fin, ht, ?_⟩
  rw [Fmt.convert, unpack_finite h]
  dsimp only
  split
  · have zero : t = 0 := by
      rw [← magValue_eq_zero_iff (F := b64) (K := ℚ), ht, ‹b32.significand _ = 0›, Nat.cast_zero, zero_mul]
    rw [zero]
    rfl
  · exact round_exact hF mode _ (Nat.pos_of_ne_zero ‹_›) fin ht

theorem convert_widens_value (mode : Rounding) (h : b32.isFinite a) : b64.isFinite (b64.convert b32 mode a).bits ∧
    b64.value (b64.convert b32 mode a).bits = b32.value a ∧ (b64.convert b32 mode a).flags = 0 ∧
      (b64.signBit ≤ (b64.convert b32 mode a).bits ↔ b32.signBit ≤ a) := by
  obtain ⟨t, fin, value, eq⟩ := convert_widens mode h
  have lt := fin.trans (infBits_lt_signBit b64)
  rw [eq, ← isNeg_iff (F := b32), value_eq b32, ← value]
  exact ⟨signed_isFinite fin, value_signed lt, rfl, signBit_le_signed lt⟩

end

/-- Settles O56. -/
theorem floatConversions : Obligations.FloatConversions := by
  have single : b32.regular := ⟨by decide, by decide⟩
  have double : b64.regular := ⟨by decide, by decide⟩
  refine ⟨fun F h m lo hi a _ _ _ => ⟨toInt_finite lo hi m, toInt_nan (regular_of_mem h) lo hi m, toInt_inf lo hi m⟩,
    fun F h m z => ⟨ofInt_roundsTo (regular_of_mem h) m z, ?_, ?_⟩,
    fun m a => ⟨convert_widens_value m, convert_finite single m, convert_inf, convert_inf, convert_nan single,
      convert_nan double⟩⟩
  · rintro rfl
    rfl
  · rintro rfl small
    exact ofInt_exact m small

end Sys2Proof.Machine
end

section
/-! SUPPORT. The double-precision results (rules R430, R440 to R449, R451 to R459, R461 to R465). -/

namespace Sys2Proof.Machine

open Sys2Proof.Config

/-! ## Values of the double-precision unit -/

section

variable {s : State}

/-- A register holds a boxed single when its upper half is all ones (rule R381). -/
theorem upperHalf_eq_allOnes_iff (v : Dword) :
    v.extractLsb' 32 32 = BitVec.allOnes 32 ↔ v.toNat / 2 ^ 32 = 2 ^ 32 - 1 := by
  rw [← BitVec.toNat_inj, BitVec.extractLsb'_toNat, BitVec.toNat_allOnes, Nat.shiftRight_eq_div_pow]
  omega

/-- The single that FCVT.D.S reads from a register of the double-precision unit (rules R381, R442). -/
theorem natS_double (double : s.params.fpu = .double) (q : Reg) :
    s.natS q = if (s.readF q).toNat / 2 ^ 32 = 2 ^ 32 - 1 then (s.readF q).toNat % 2 ^ 32 else 0x7FC00000 := by
  simp only [natS_eq, double, true_and, ne_eq, upperHalf_eq_allOnes_iff, ite_not]

/-- FCVT.S.D writes its single boxed (rules R381, R445). -/
theorem putS_gaveF_double (double : s.params.fpu = .double) (r : Reg) (v : FpResult) :
    ∃ t, s.putS r v = .next t ∧ s.gaveF t r (BitVec.allOnes 32 ++ BitVec.ofNat 32 v.bits) v.flags := by
  have box : boxed s.params (BitVec.ofNat 32 v.bits) = BitVec.allOnes 32 ++ BitVec.ofNat 32 v.bits := if_pos double
  rw [← box]
  exact putS_gaveF s r v

/-- Sign injection replaces the sign bit of the pattern and keeps the rest (rules R410 to R412, R461 to R463). -/
theorem withSign_eq (F : Fmt) (n : Bool) (a : Nat) : F.withSign n a = a % F.signBit + if n then F.signBit else 0 :=
  signed_eq n _

end

/-- Settles O50. -/
theorem doubleResults : Obligations.DoubleResults := by
  intro s rm m r fs1 fs2 fs3 rs1 double hs hm a b c single
  have on := fpEnabledD_on double hs
  have operand : single = s.natS fs1 := (natS_double double fs1).symm
  clear_value single
  subst operand
  intro float int sign injected bool
  have rounded {i : Instr} {k : Rounding → Result} {v : FpResult} (run : exec i s = s.fpRounded s.fpEnabledD i rm k)
      (hk : k m = s.putD r v) : float i v := exec_fpRounded on hm run (by rw [hk]; exact putD_gaveF s r v)
  have plain {i : Instr} {v : FpResult} (run : exec i s = s.fp s.fpEnabledD i (s.putD r v)) : float i v :=
    exec_fp on run (putD_gaveF s r v)
  have injects {i : Instr} {n : Bool} (run : exec i s = s.fp s.fpEnabledD i (s.putD r (exactly (b64.withSign n a)))) :
      float i (injected n) := by
    have value : exactly (b64.withSign n a) = injected n := congrArg exactly (withSign_eq b64 n a)
    exact plain (value ▸ run)
  have compares {i : Instr} {v : Bool × BitVec 5} (run : exec i s = s.fp s.fpEnabledD i (s.putBool r v)) : bool i v :=
    exec_fp on run (putBool_gaveXF s r v)
  have converts {i : Instr} {k : Rounding → Result} {v : ℤ × BitVec 5} (run : exec i s = s.fpRounded s.fpEnabledD i rm k)
      (hk : k m = s.putInt r v) : int i (BitVec.ofInt 32 v.1) v.2 :=
    exec_fpRounded on hm run (by rw [hk]; exact putInt_gaveXF s r v)
  have classifies : int (.fclassD r fs1) (b64.classify a) 0 := exec_fp on rfl (putX_gaveXF s r _ 0)
  have narrows := exec_fpRounded (i := .fcvtSD rm r fs1) on hm rfl (putS_gaveF_double double r (b32.convert b64 m a))
  -- Unification is to take the arguments as they stand, and not to look into the bodies for them.
  clear_value float int bool
  exact ⟨rounded rfl rfl, rounded rfl rfl, rounded rfl rfl, rounded rfl rfl, rounded rfl rfl, rounded rfl rfl,
    rounded rfl rfl, rounded rfl rfl, rounded rfl rfl, rounded rfl rfl, rounded rfl rfl, rounded rfl rfl, narrows,
    injects rfl, injects rfl, injects rfl, plain rfl, plain rfl, compares rfl, compares rfl, compares rfl, classifies,
    converts rfl rfl, converts rfl rfl⟩

end Sys2Proof.Machine
end

section
/-! SUPPORT. The cache instructions (rules R532 to R540, R543 to R545): which lines an operand names, what dropping and cleaning
them leaves, and the lines that the data cache keeps when it is switched off (rules R180, R184; log 24). -/

namespace Sys2Proof.Machine

open Sys2Proof.Config

/-! ## The lines that an operand names -/

/-- The line of an address (rule R532). -/
theorem sameLine_iff {a : Word} {d : CacheLine} : sameLine a d = true ↔ d.line.toNat = a.toNat / 32 := by
  rw [sameLine, beq_iff_eq, eq_comm, lineOf_eq, eq_comm]

/-- The line at a way and set (rule R532, U11; log 23). -/
theorem atWaySet_iff {p : Params} {w : Word} {d : CacheLine} : atWaySet p w d = true ↔
    d.way = w.getLsbD 31 ∧
      ∀ k, k < p.dcacheSwIndex.length → d.line.getLsbD k = w.getLsbD (p.dcacheSwIndex.getD k 0) := by
  simp only [atWaySet, Bool.and_eq_true, beq_iff_eq, List.all_eq_true]
  refine and_congr_right fun _ => ⟨fun h k hk => ?_, fun h b hb => ?_⟩
  · rw [List.getD_eq_getElem _ _ hk]
    exact h _ (List.mk_mem_zipIdx_iff_getElem?.mpr (List.getElem?_eq_getElem hk))
  · obtain ⟨hk, e⟩ := List.mem_zipIdx' hb
    rw [h _ hk, List.getD_eq_getElem _ _ hk, e]

/-- The operand bits of the set index in a well-formed configuration (U11, log 23). -/
theorem dcacheSwIndex_legal {p : Params} (h : p.wf = true) : p.dcacheSwIndex.length = setTopBit p.dcache - 4 ∧
    (∀ b ∈ p.dcacheSwIndex, b < 31) ∧ p.dcacheSwIndex.Nodup := by
  have legal : swIndexLegal p.dcache p.dcacheSwIndex = true := (Bool.and_eq_true_iff.mp h).2
  simp only [swIndexLegal, Bool.and_eq_true, beq_iff_eq, List.all_eq_true, decide_eq_true_eq] at legal
  obtain ⟨⟨⟨length, below⟩, nodup⟩, -⟩ := legal
  exact ⟨length, below, nodup⟩

/-- One operand names lines of one way and set only. -/
theorem atWaySet_place {p : Params} (h : p.wf = true) {w : Word} {d e : CacheLine} (hd : atWaySet p w d = true)
    (he : atWaySet p w e = true) : d.way = e.way ∧ lineSet p d.line = lineSet p e.line := by
  obtain ⟨wayD, setD⟩ := atWaySet_iff.mp hd
  obtain ⟨wayE, setE⟩ := atWaySet_iff.mp he
  refine ⟨wayD.trans wayE.symm, Nat.eq_of_testBit_eq fun k => ?_⟩
  rw [lineSet, lineSet, Nat.testBit_mod_two_pow, Nat.testBit_mod_two_pow, ← (dcacheSwIndex_legal h).1]
  by_cases hk : k < p.dcacheSwIndex.length
  · exact congrArg (_ && ·) ((setD k hk).trans (setE k hk).symm)
  · simp [hk]

/-- At most one dirty line lies at a way and set (rule R180). -/
theorem atWaySet_dirty_length {s : State} (h : s.params.wf = true) (shape : s.dirtyShape = true) (w : Word) :
    (s.dirty.filter (atWaySet s.params w)).length ≤ 1 := by
  have apart := (linesShape_iff.mp shape).2.filter (atWaySet s.params w)
  have named : ∀ d ∈ s.dirty.filter (atWaySet s.params w), atWaySet s.params w d = true := fun d hd => (List.mem_filter.mp hd).2
  match s.dirty.filter (atWaySet s.params w), apart, named with
  | [], _, _ => exact Nat.zero_le _
  | [_], _, _ => exact le_rfl
  | d :: e :: _, apart, named =>
    obtain ⟨way, set⟩ := atWaySet_place h (named d (by simp)) (named e (by simp))
    have differ := (List.rel_of_pairwise_cons apart (List.mem_cons_self ..)).2
    exact (differ.elim (· way) (· set)).elim

/-- The operand of a set/way form that names a line: its way in bit 31, its index bits where `DCACHE_SW_INDEX` puts them. -/
def swOperand (p : Params) (d : CacheLine) : Word :=
  BitVec.ofFnLE fun b : Fin 32 => if b.val = 31 then d.way else d.line.getLsbD (p.dcacheSwIndex.idxOf b.val)

theorem getLsbD_swOperand (p : Params) (d : CacheLine) {b : Nat} (hb : b < 32) : (swOperand p d).getLsbD b =
    if b = 31 then d.way else d.line.getLsbD (p.dcacheSwIndex.idxOf b) := by
  rw [swOperand, BitVec.getLsbD_eq_getElem hb, BitVec.getElem_ofFnLE]

/-- Every line has an operand that names it. -/
theorem atWaySet_swOperand {p : Params} (h : p.wf = true) (d : CacheLine) : atWaySet p (swOperand p d) d = true := by
  obtain ⟨-, below, nodup⟩ := dcacheSwIndex_legal h
  refine atWaySet_iff.mpr ⟨(getLsbD_swOperand p d (b := 31) (by decide)).symm, fun k hk => ?_⟩
  have bit := below _ (List.getElem_mem hk)
  rw [List.getD_eq_getElem _ _ hk, getLsbD_swOperand p d (by omega), if_neg (by omega), nodup.idxOf_getElem k hk]

/-! ## What a cache instruction leaves -/

/-- The instruction completes, with only memory and the overlays of the caches changed. -/
def State.ranCacheOp (s : State) (i : Instr) (t : State) : Prop :=
  exec i s = .next t ∧ s.retiredTo t (s.pc + 4) ∧
    t = { s with
          mem := t.mem, dirty := t.dirty, kept := t.kept, stale := t.stale, pc := t.pc, minstret := t.minstret }

section

variable {s : State} (thead : s.mxstatus.thead = true) (machine : s.priv = .machine)
include thead machine

/-- A cache instruction completes when its operation changes memory and the overlays only. -/
theorem ranCacheOp_advance {i : Instr} {u : State} (run : exec i s = s.cacheOp i fun _ => u) {m : Memory}
    {ds ks : List CacheLine} {hs : List StaleHalf} (frame : u = { s with mem := m, dirty := ds, kept := ks, stale := hs }) :
    s.ranCacheOp i (u.advance 4) := by
  refine ⟨?_, ?_, ?_⟩
  · rw [run]; simp [State.cacheOp, thead, machine]
  · rw [frame]; exact ⟨rfl, rfl⟩
  · rw [frame]; rfl

/-- Cleaning: memory stays, the lines are dirty no longer. -/
theorem ran_cleanLines {i : Instr} {named : CacheLine → Bool}
    (run : exec i s = s.cacheOp i fun _ => s.cleanLines named) : ∃ t, s.ranCacheOp i t ∧ t.mem = s.mem ∧ t.stale = s.stale ∧
      t.dirty = (s.dirty.filter fun d => !named d) ∧ t.kept = s.kept :=
  ⟨_, ranCacheOp_advance thead machine run rfl, rfl, rfl, rfl, rfl⟩

/-- Cleaning and invalidating: memory stays, the lines are neither dirty nor kept. -/
theorem ran_flushLines {i : Instr} {named : CacheLine → Bool}
    (run : exec i s = s.cacheOp i fun _ => s.flushLines named) : ∃ t, s.ranCacheOp i t ∧ t.mem = s.mem ∧ t.stale = s.stale ∧
      t.dirty = (s.dirty.filter fun d => !named d) ∧ t.kept = s.kept.filter fun d => !named d :=
  ⟨_, ranCacheOp_advance thead machine run rfl, rfl, rfl, rfl, rfl⟩

/-- Invalidating: the dirty lines may be lost, and are neither dirty nor kept. -/
theorem ran_discardLines (hm : s.mem.wf = true) (shape : s.dirtyShape = true) {i : Instr}
    {named : CacheLine → Bool} (run : exec i s = s.cacheOp i fun _ => s.discardLines named) :
    ∃ t, s.ranCacheOp i t ∧ s.lostLines t (s.dirty.filter named) ∧ t.dirty = (s.dirty.filter fun d => !named d) ∧
      t.kept = s.kept.filter fun d => !named d := by
  obtain ⟨m, hs, frame⟩ := discardLines_frame s named
  refine ⟨_, ranCacheOp_advance thead machine run frame, discardLines_lostLines hm shape named, ?_⟩
  rw [frame]
  exact ⟨rfl, rfl⟩

/-- Dropping lines of the instruction cache leaves memory and the data cache. -/
theorem ran_invalidateFetch {i : Instr} {sel : Word → Bool}
    (run : exec i s = s.cacheOp i fun _ => s.invalidateFetch sel) :
    ∃ t, s.ranCacheOp i t ∧ t.mem = s.mem ∧ t.dirty = s.dirty ∧ t.kept = s.kept :=
  ⟨_, ranCacheOp_advance thead machine run rfl, rfl, rfl, rfl⟩

end

/-! ## Switching the data cache off -/

/-- The bytes of a line of memory. -/
theorem Memory.lineAt_getD (m : Memory) {l : BitVec 27} {c : Word} (h : c.toNat / 32 = l.toNat) :
    (m.lineAt l).getD (c.toNat % 32) 0 = m.read c.toNat := by
  have e : 32 * l.toNat + c.toNat % 32 = c.toNat := by omega
  rw [List.getD_eq_getElem _ _ (by rw [Memory.lineAt_length]; omega)]
  simp [Memory.lineAt, e]

/-- The lines of a data cache that is switched off: kept before, or cached and as memory holds them. -/
theorem mem_keepLines {s : State} {d : CacheLine} (h : d ∈ s.keepLines) :
    d ∈ s.kept ∨ s.cachesLine d.line ∧ d.older = s.mem.lineAt d.line := by
  have before : ∀ e ∈ s.kept.filter fun d => lineStays s.freeCtr (lineBase d.line).toNat,
      e ∈ s.kept ∨ s.cachesLine e.line ∧ e.older = s.mem.lineAt e.line := fun e he => .inl (List.mem_filter.mp he).1
  unfold State.keepLines at h
  generalize s.kept.filter _ = ls at h before
  generalize linesHeld s.freeCtr = held at h
  induction held generalizing ls with
  | nil => exact before d h
  | cons l r ih =>
    refine ih _ ?_ h
    dsimp only
    split
    next uses =>
      have caches := (usesDcache_iff s (lineBase l.1)).mp uses
      rw [lineOf_eq.mpr (by rw [lineBase_toNat]; omega : _ = l.1.toNat)] at caches
      intro e he
      rcases CacheLine.mem_enter he with rfl | he
      · exact .inr ⟨caches, rfl⟩
      · exact before e he
    · exact before

/-- A write of MHCR with no dirty line (rules R65, R184; log 24). -/
theorem writeMhcr_clean {s : State} (clean : s.dirty = []) (v : Word) : s.writeMhcr v =
    .ok { s with mhcr := mhcrOf v, kept := if s.mhcr.de = true ∧ v.getLsbD 1 = false then s.keepLines else s.kept } := by
  simp [State.writeMhcr, clean, mhcrOf]

/-- CSRRW of MHCR with no dirty line leaves memory; lines are kept only by switching the data cache off. -/
theorem csrrw_mhcr_kept {s : State} (machine : s.priv = .machine) (clean : s.dirty = []) (rd rs1 : Reg) :
    ∃ t, exec (.csrrw rd rs1 0x7C1) s = .next t ∧ t.mem = s.mem ∧ t.dirty = [] ∧ t.stale = s.stale ∧
      t.kept = if s.mhcr.de = true ∧ (s.readX rs1).getLsbD 1 = false then s.keepLines else s.kept := by
  obtain ⟨t, run, -, -, -, -, frame⟩ := csrrw_next (c := .mhcr) (a := 0x7C1) rd rfl rfl (csrAllowed_machine machine rfl)
    (writeMhcr_clean clean (s.readX rs1))
  refine ⟨t, run, ?_⟩
  rw [frame]
  exact ⟨rfl, clean, rfl, rfl⟩

/-- Settles O57. -/
theorem cacheInstructions : Obligations.CacheInstructions := by
  intro s rs1 hp hm shape thead machine v inLine at' ran cleans loses
  have line : sameLine v = inLine := funext fun d => Bool.eq_iff_iff.mpr (sameLine_iff.trans decide_eq_true_iff.symm)
  have place : ∀ w, atWaySet s.params w = at' w := fun w =>
    funext fun d => Bool.eq_iff_iff.mpr (atWaySet_iff.trans decide_eq_true_iff.symm)
  clear_value inLine at'
  subst line
  obtain rfl : atWaySet s.params = at' := funext place
  refine ⟨ran_cleanLines thead machine rfl, ran_flushLines thead machine rfl, ran_cleanLines thead machine rfl,
    ran_flushLines thead machine rfl, ran_cleanLines thead machine rfl, ran_flushLines thead machine rfl,
    ran_discardLines thead machine hm shape rfl, ran_discardLines thead machine hm shape rfl,
    ran_discardLines thead machine hm shape rfl, atWaySet_dirty_length hp shape,
    fun d => ⟨_, atWaySet_swOperand hp d⟩, ?_, fun clean rd => ?_⟩
  · intro i hi
    simp only [List.mem_cons, List.not_mem_nil, or_false] at hi
    rcases hi with rfl | rfl <;> exact ran_invalidateFetch thead machine rfl
  · obtain ⟨t, run, mem, dirty, stale, kept⟩ := csrrw_mhcr_kept machine clean rd rs1
    refine ⟨t, run, mem, dirty, stale, fun stays => ?_, fun d hd => ?_⟩
    · have stillOn : ¬ (s.mhcr.de = true ∧ (s.readX rs1).getLsbD 1 = false) := fun ⟨was, off⟩ =>
        stays.elim (fun h => Bool.false_ne_true (h.symm.trans was)) fun h => Bool.false_ne_true (off.symm.trans h)
      rw [kept, if_neg stillOn]
    · rw [kept] at hd
      split at hd
      · refine (mem_keepLines hd).imp id fun ⟨caches, older⟩ => ⟨caches, fun c hc => ?_⟩
        rw [older, Memory.lineAt_getD _ hc]
      · exact .inl hd

end Sys2Proof.Machine
end

section
/-! SUPPORT. What comes before the instruction at a boundary (rule R610): the inputs alone, an NMI, an interrupt; and how
exceptions are entered (rules R570 to R603). -/

namespace Sys2Proof.Machine

open Sys2Proof.Config

/-! ## The inputs (rules R610, R723) -/

/-- Counting changes the event counters alone. -/
theorem countMicroEvents_frame (s : State) : ∃ h, s.countMicroEvents = { s with hpm := h } := by
  suffices counts : ∀ (l : List Nat) (t : State),
      ∃ h, l.foldl (fun t n => t.countEvent n (eventCount s.freeCtr n)) t = { t with hpm := h } from counts _ s
  intro l
  induction l with
  | nil => exact fun t => ⟨t.hpm, rfl⟩
  | cons n l ih => exact fun t => ih (t.countEvent n _)

/-- Sampling ends before the events are counted exactly when the hart stays asleep (rule R723). -/
theorem sample_cases (s : State) :
    (s.sample.asleep = true ∧ s.sample.wakes = false ∧ s.sample = s.takeInputs.tick.sampleClic) ∨
    ((s.sample.asleep = false ∨ s.sample.wakes = true) ∧
      ∃ h, s.sample = { s.takeInputs.tick.sampleClic with hpm := h }) := by
  unfold State.sample
  generalize s.takeInputs.tick.sampleClic = t
  dsimp only
  split
  next sleeps =>
    simp only [Bool.and_eq_true, Bool.not_eq_true'] at sleeps
    obtain ⟨asleep, unwoken⟩ := sleeps
    exact .inl ⟨asleep, unwoken, rfl⟩
  next awake =>
    obtain ⟨h, counted⟩ := countMicroEvents_frame t
    rw [counted]
    refine .inr ⟨?_, h, rfl⟩
    show t.asleep = false ∨ t.wakes = true
    cases ha : t.asleep <;> simp_all

/-- Sampling changes inputs, counts and the CLIC. -/
theorem sample_frame (s : State) : s.sample =
    { s with
      pins := s.sample.pins, env := s.sample.env, mtime := s.sample.mtime, freeCtr := s.sample.freeCtr,
      mcycle := s.sample.mcycle, hpm := s.sample.hpm, clic := s.sample.clic } := by
  rcases sample_cases s with ⟨-, -, e⟩ | ⟨-, _, e⟩ <;> rw [e] <;> rfl

/-- A hart that stays asleep counts no event (rule R723). -/
theorem sample_hpm_asleep {s : State} (ha : s.sample.asleep = true) (hw : s.sample.wakes = false) :
    s.sample.hpm = s.hpm := by
  rcases sample_cases s with ⟨-, -, e⟩ | ⟨awake, -⟩
  · rw [e]; rfl
  · simp [ha, hw] at awake

/-- Sampling gives every source its line, and changes the CLIC in nothing else. -/
theorem sample_clic (s : State) : s.sample.clic = s.takeInputs.tick.sampleClic.clic := by
  rcases sample_cases s with ⟨-, -, e⟩ | ⟨-, _, e⟩ <;> rw [e]

/-- What a source is apart from its line, its pending bit and its edge detector (rules R674 to R677). -/
def ClicSource.config (c : ClicSource) : Nat × Bool × BitVec 2 × Bool × Byte := (c.id, c.ie, c.trig, c.shv, c.ctl)

/-- Sampling changes no source but in its line, its pending bit and its edge detector. -/
theorem sample_sourceConfig (s : State) :
    s.sample.clic.sources.map ClicSource.config = s.clic.sources.map ClicSource.config := by
  rw [sample_clic]
  show List.map _ (List.map _ s.clic.sources) = _
  rw [List.map_map]; rfl

/-! ## A hart that is held or asleep (rules R591, R721) -/

/-- A hart that is locked up, with no NMI to take, only samples. -/
theorem step_lockedUp {s : State} (hp : s.params.wf = true) (hr : s.sample.pins.reset = false)
    (hl : s.sample.lockedUp = true) (hn : s.sample.takesNmi = false) : step s = .next s.sample := by
  simp [step, State.cycle, State.afterSample, hp, hr, hl, hn]

/-- A hart that sleeps on only samples. -/
theorem step_asleep {s : State} (hp : s.params.wf = true) (hr : s.sample.pins.reset = false)
    (hl : s.sample.lockedUp = false) (ha : s.sample.asleep = true) (hw : s.sample.wakes = false) :
    step s = .next s.sample := by
  simp [step, State.cycle, State.afterSample, hp, hr, hl, ha, hw]

/-- Settles O12: the wake-up conditions of rule R721 fail, and sampling has a frame. -/
theorem heldHartWaits : Obligations.HeldHartWaits := by
  rintro s _ hp rfl hr held
  have nlbits : s.sample.clic.nlbits = s.clic.nlbits := by rw [sample_clic]; rfl
  have mth : s.sample.clic.mth = s.clic.mth := by rw [sample_clic]; rfl
  rcases held with ⟨locked, noNmi⟩ | ⟨running, asleep, noNmi, noEvent, noInterrupt⟩
  · have untaken : s.sample.takesNmi = false := by rcases noNmi with h | h <;> simp [State.takesNmi, h]
    exact ⟨step_lockedUp hp hr locked untaken, sample_frame s, fun h => by simp [locked] at h, nlbits, mth,
      sample_sourceConfig s⟩
  · have sleepsOn : s.sample.wakes = false := by
      rw [Bool.eq_false_iff, ne_eq, wakes_iff]
      rintro (h | ⟨hwfe, hext⟩ | ⟨c, hc, h⟩)
      · simp [noNmi] at h
      · simp [hwfe, hext] at noEvent
      · obtain ⟨hwfe, hlevel⟩ := noInterrupt c hc
        have := BitVec.le_def.mp hlevel
        rcases h with h | h
        · simp [hwfe] at h
        · omega
    exact ⟨step_asleep hp hr running asleep sleepsOn, sample_frame s, fun _ => sample_hpm_asleep asleep sleepsOn, nlbits,
      mth, sample_sourceConfig s⟩

/-! ## The instruction at pc (rules R148, R610) -/

/-- Settles O4. -/
theorem stepRunsDecodedInstruction : Obligations.StepRunsDecodedInstruction := by
  intro s u c i hp hu hr hl hw hn hi hb hf hd
  subst hu
  rw [step_eq_fetchExecute hp rfl hr hl hw hn hi hb]
  exact fetchExecute_ok hf hd

/-! ## Exceptions (rules R560, R567, R570, R590) -/

theorem Cause.neverLocks_iff {c : Cause} :
    c.neverLocks = true ↔ c = .breakpoint ∨ c = .ecallFromU ∨ c = .ecallFromM := by
  cases c <;> decide

theorem Cause.isAccessFault_iff {c : Cause} : c.isAccessFault = true ↔ c = .loadAccessFault ∨ c = .storeAccessFault := by
  cases c <;> decide

/-- An exception that does not lock the core up enters its handler, and only an access fault writes BUSERR. -/
theorem raise_enters_buserr {s : State} {c : Cause} (info : Word) (b : Bool)
    (h : s.mexstatus.exptVld = false ∧ s.mexstatus.nmi = false ∨ c.neverLocks = true) :
    ∃ t, s.raise c info b = .next t ∧ s.inHandler t c.code s.pc info ∧
      t.mexstatus.buserr = if c.isAccessFault then b else s.mexstatus.buserr := by
  refine ⟨_, raise_eq _ _ _ _, ?_⟩
  rcases takeException_cases s.countTrap c s.pc info b with ⟨running, locks, _⟩ | ⟨_, e⟩
  · rw [countTrap_mexstatus] at running
    rcases h with ⟨noExc, noNmi⟩ | never
    · simp [noExc, noNmi] at running
    · simp [never] at locks
  · rw [e]
    exact ⟨⟨rfl, rfl, rfl, rfl, rfl, rfl, handler_eq s, countTrap_minstret s, rfl⟩, rfl⟩

/-- Settles O13. -/
theorem exceptionEntry : Obligations.ExceptionEntry := by
  refine ⟨⟨rfl, rfl, rfl, rfl, rfl, rfl, rfl, rfl, rfl⟩, fun s c info b h => ?_⟩
  obtain ⟨t, ht, entered, buserr⟩ :=
    raise_enters_buserr (s := s) (c := c) info b (h.imp_right Cause.neverLocks_iff.mpr)
  simp only [Cause.isAccessFault_iff] at buserr
  exact ⟨t, ht, entered, buserr⟩

/-- Settles O14. -/
theorem lockupInsteadOfEntry : Obligations.LockupInsteadOfEntry := by
  intro s c info b running h1 h2 h3
  have locks : c.neverLocks = false := Bool.eq_false_iff.mpr fun h => by
    rcases Cause.neverLocks_iff.mp h with h | h | h
    · exact h1 h
    · exact h2 h
    · exact h3 h
  obtain ⟨t, ht, trap⟩ := raise_trapped s c info b locks
  rw [State.trapped, if_pos running] at trap
  obtain ⟨hpc, locked, rest⟩ := trap
  exact ⟨t, ht, ⟨hpc, locked, rest⟩, locked⟩

/-! ## NMI (rules R600 to R603) -/

/-- An NMI is taken from a running, a sleeping and a locked-up hart alike. -/
theorem step_eq_nmiEntry {s u : State} (hp : s.params.wf = true) (hu : u = s.sample) (hr : u.pins.reset = false)
    (hn : u.takesNmi = true) : step s = .next u.nmiEntry := by
  cases hl : u.lockedUp with
  | true => simp [step, State.cycle, State.afterSample, hp, ← hu, hr, hl, hn]
  | false =>
    have wakes : u.wakes = true := wakes_iff.mpr (.inl (Bool.and_eq_true_iff.mp hn).1)
    rw [step_eq_boundary hp hu rfl hr hl fun _ => wakes]
    exact if_pos hn

/-- MRET right after the entry of an NMI gives back what the entry saved, but for MPP of MNMICAUSE. -/
theorem execMret_nmiEntry {s : State} (hn : s.mexstatus.nmi = false) : ∃ m,
    execMret s.nmiEntry = .next
      { s with
        mnmicause := { s.nmiEntry.mnmicause with mpp := .user }, mnmipc := s.mepc, lockedUp := s.mexstatus.lockup
        asleep := false, minstret := m } := by
  refine ⟨s.nmiEntry.retired, ?_⟩
  have handled : { s.mexstatus with nmi := false } = s.mexstatus := by rw [← hn]
  rw [execMret_nmiReturn rfl rfl]
  simp only [State.nmiReturn, State.nmiEntry, handled]

/-- Settles O11: the entry is `State.nmiEntry`, which MRET undoes. -/
theorem nmiEntryAndReturn : Obligations.NmiEntryAndReturn := by
  intro s u hp hu hr hn hm
  have taken : u.takesNmi = true := by simp [State.takesNmi, hn, hm]
  obtain ⟨m, back⟩ := execMret_nmiEntry hm
  exact ⟨u.nmiEntry, step_eq_nmiEntry hp hu hr taken, rfl, rfl, rfl, rfl, rfl, rfl, rfl, rfl, rfl, handler_eq u, rfl,
    _, back, rfl, rfl, rfl⟩

/-! ## Interrupts (rules R586 to R588) -/

/-- An interrupt that is taken is entered from the awake state. -/
theorem step_eq_interruptEntry {s u : State} {c : Presented} (hp : s.params.wf = true) (hu : u = s.sample)
    (hr : u.pins.reset = false) (hl : u.lockedUp = false) (hw : u.asleep = true → u.wakes = true)
    (hn : u.takesNmi = false) (hi : u.takenInterrupt = some c) :
    step s = State.interruptEntry { u with asleep := false } c := by
  have hn : State.takesNmi { u with asleep := false } = false := hn
  have hi : State.takenInterrupt { u with asleep := false } = some c := hi
  rw [step_eq_boundary hp hu rfl hr hl hw, State.boundary, hn, hi]
  rfl

/-- No interrupt is taken while an NMI is handled (rule R690). -/
theorem takenInterrupt_nmi {s : State} {c : Presented} (h : s.takenInterrupt = some c) : s.mexstatus.nmi = false := by
  unfold State.takenInterrupt at h
  split at h
  · cases h
  · have takes := (Option.filter_eq_some_iff.mp h).2
    simp only [State.takes, Bool.and_eq_true, Bool.not_eq_true'] at takes
    obtain ⟨⟨_, noNmi⟩, _⟩ := takes
    exact noNmi

theorem interruptEntry_direct (s : State) {c : Presented} (h : c.shv = false) :
    s.interruptEntry c = .next { s.saveForInterrupt c with pc := s.handler } := by
  rw [State.interruptEntry, h]; rfl

theorem interruptEntry_vectored (s : State) {c : Presented} (h : c.shv = true) :
    s.interruptEntry c = ((s.saveForInterrupt c).clearPending c.id).vectorEntry c.id := by
  rw [State.interruptEntry, h]; rfl

/-- Settles O18. -/
theorem interruptEntryNonVectored : Obligations.InterruptEntryNonVectored := by
  intro s u c hp hu hr hl hw hn hi hv
  refine ⟨_, (step_eq_interruptEntry hp hu hr hl hw hn hi).trans (interruptEntry_direct _ hv), ?_⟩
  exact ⟨rfl, rfl, rfl, rfl, rfl, rfl, handler_eq u, rfl⟩

/-! ## The vector table (rule R587) -/

/-- An entry of the table in memory that nothing forbids is the word at its address. -/
theorem fetchTable_memory {s : State} {a : Word} (hp : s.pmpAllows .execute .machine a = true) (ht : inTcip a = false)
    (he : fetchError s.params a = false) (hs : s.staleAt a = []) (hs' : s.staleAt (a + 2) = []) :
    s.fetchTable a =
      .ok (s.mem.read (a + 3).toNat ++ s.mem.read (a + 2).toNat ++ s.mem.read (a + 1).toNat ++ s.mem.read a.toNat) := by
  have third : a + 2 + 1 = a + 3 := by rw [BitVec.add_assoc]; rfl
  have visible : ∀ b, s.staleAt b = [] → s.visibleHalf b = s.mem.read (b + 1).toNat ++ s.mem.read b.toNat := fun b h => by
    simp only [State.visibleHalf, h, readHalf_eq]
  simp only [State.fetchTable, hp, ht, he, Bool.not_true, Bool.false_eq_true, if_false, visible a hs, visible (a + 2) hs',
    third, append_bytes]

theorem fetchTable_denied {s : State} {a : Word} (hp : s.pmpAllows .execute .machine a = false) :
    s.fetchTable a = .denied a := by
  simp [State.fetchTable, hp]

/-- A vectored entry whose table entry is read. -/
theorem vectorEntry_ok {s : State} {id : Nat} {w : Word} (h : s.fetchTable (s.mtvt + BitVec.ofNat 32 (4 * id)) = .ok w) :
    s.vectorEntry id = .next { s.setMinhv false with pc := evenTarget w } := by
  have h : (s.setMinhv true).fetchTable ((s.setMinhv true).mtvt + BitVec.ofNat 32 (4 * id)) = .ok w := h
  simp only [State.vectorEntry, h]
  rfl

/-- A vectored entry whose table entry is denied. -/
theorem vectorEntry_denied {s : State} {id : Nat} {a b : Word} (ha : a = s.mtvt + BitVec.ofNat 32 (4 * id))
    (h : s.fetchTable a = .denied b) :
    s.vectorEntry id = .next ((s.setMinhv true).takeException .instrAccessFault a a false) := by
  subst ha
  have h : (s.setMinhv true).fetchTable ((s.setMinhv true).mtvt + BitVec.ofNat 32 (4 * id)) = .denied b := h
  simp only [State.vectorEntry, h]
  rfl

/-- Settles O19: the entry reads the table from the state with the pending bit cleared, in memory as it was. -/
theorem interruptEntryVectored : Obligations.InterruptEntryVectored := by
  intro s u c hp hu hr hl hw hn hi hv a ready cleared
  have entry := (step_eq_interruptEntry hp hu hr hl hw hn hi).trans (interruptEntry_vectored _ hv)
  generalize hk : (State.saveForInterrupt { u with asleep := false } c).clearPending c.id = k at entry
  have sources : cleared k := by
    rw [← hk]
    exact ⟨rfl, rfl, clearPending_sources (State.saveForInterrupt { u with asleep := false } c) c.id⟩
  have mtvt : a = k.mtvt + BitVec.ofNat 32 (4 * c.id) := by rw [← hk]; rfl
  refine ⟨fun ⟨allowed, outside, noError, fresh⟩ ⟨_, _, _, fresh'⟩ => ?_, fun denied noExc => ?_⟩
  · have word := fetchTable_memory (s := k) (by rw [← hk]; exact allowed) outside (by rw [← hk]; exact noError)
      (by rw [← hk]; exact fresh) (by rw [← hk]; exact fresh')
    rw [mtvt] at word
    refine ⟨_, entry.trans (vectorEntry_ok word), sources, ?_⟩
    subst hk
    exact ⟨rfl, rfl, rfl, rfl, rfl, rfl, rfl, rfl⟩
  · have fault := entry.trans (vectorEntry_denied mtvt (fetchTable_denied (by rw [← hk]; exact denied)))
    rcases takeException_cases (k.setMinhv true) .instrAccessFault a a false with ⟨running, _⟩ | ⟨_, e⟩
    · have running : u.mexstatus.exptVld = true ∨ u.mexstatus.nmi = true := by rw [← hk] at running; exact running
      simp [noExc, takenInterrupt_nmi hi] at running
    · rw [e] at fault
      refine ⟨_, fault, sources, ?_⟩
      subst hk
      exact ⟨rfl, handler_eq u, rfl, rfl, rfl, rfl, rfl, rfl, rfl, rfl⟩

end Sys2Proof.Machine
end

section
/-! SUPPORT. The boundary between user and machine mode (rules R570, R620 to R622): which exceptions an instruction raises, and
what leaves a mode. -/

namespace Sys2Proof.Machine

open Sys2Proof.Config

/-! ## Operations that keep the mode -/

theorem DataStep.priv {s u : State} (h : DataStep s u) : u.priv = s.priv := (congrArg State.priv h.frame :)

@[simp] theorem deliver_priv (s : State) (d : Dest) (v : Dword) : (s.deliver d v).priv = s.priv := by
  obtain ⟨x, f, m, e⟩ := deliver_frame s d v
  rw [e]

@[simp] theorem deliverUnstated_priv (s : State) (d : Dest) : (s.deliverUnstated d).priv = s.priv := by
  obtain ⟨x, f, m, e⟩ := deliverUnstated_frame s d
  rw [e]

@[simp] theorem queueEarlier_priv (s : State) (k : Access) (e : Option Word) : (s.queueEarlier k e).priv = s.priv := by
  rw [queueEarlier_frame]

@[simp] theorem countAtomic_priv (s : State) : s.countAtomic.priv = s.priv := rfl

@[simp] theorem storeValue_priv (s : State) (a : Word) (n : Nat) (v : Dword) : (s.storeValue a n v).priv = s.priv := by
  rw [storeValue_frame]

@[simp] theorem partialStore_priv (s : State) (a : Word) (n : Nat) (v : Dword) : (s.partialStore a n v).priv = s.priv := by
  obtain ⟨m, st, d, l, c, k, e⟩ := partialStore_frame s a n v
  rw [e]

/-- A CSR write never changes the mode; a write of MXSTATUS that would is refused (rule R64, U9). -/
theorem writeCsr_priv {s u : State} {c : Csr} {v : Word} (h : s.writeCsr v c = .ok u) : u.priv = s.priv := by
  cases c with
  | mxstatus =>
    simp only [State.writeCsr, State.writeMxstatus] at h
    split at h <;> cases h
    rfl
  | mhcr =>
    simp only [State.writeCsr, State.writeMhcr] at h
    split at h <;> cases h
    rfl
  | _ => cases h; rfl

theorem CsrEffect.priv {s u : State} {c : Csr} (h : CsrEffect s c u) : u.priv = s.priv := by
  cases h with
  | write hw => exact writeCsr_priv hw
  | read | writeStatus | claim | swap => rfl

/-- An exception never leaves machine mode. -/
theorem takeException_machine {s : State} (hs : s.priv = .machine) (c : Cause) (epc info : Word) (b : Bool) :
    (s.takeException c epc info b).priv = .machine := by
  rcases takeException_cases s c epc info b with ⟨_, _, e⟩ | ⟨_, e⟩ <;> rw [e]
  exact hs

/-! ## How one instruction changes the mode -/

/-- The exceptions that an executed instruction raises in user mode: not InstrAccessFault, which a fetch raises, and not the
ECALL of machine mode (rule R560). -/
def Cause.ofUserInstr : Cause → Bool
  | .instrAccessFault | .ecallFromM => false
  | _ => true

/-- Their codes (rule R560). -/
theorem Cause.code_ofUserInstr {c : Cause} (h : c.ofUserInstr = true) :
    c.code ∈ ([2, 3, 4, 5, 6, 7, 8] : List (BitVec 12)) := by
  revert h; cases c <;> decide

theorem Access.faultCause_ofUserInstr (k : Access) : k.faultCause.ofUserInstr = true := by cases k <;> rfl

/-- An instruction keeps the mode, or it enters machine mode with one of those exceptions. -/
inductive ModeStep (s t : State) : Prop
  | stays : t.priv = s.priv → ModeStep s t
  | enters (c : Cause) : c.ofUserInstr = true → t.priv = .machine → t.mcause.code = c.code → ModeStep s t

namespace ModeStep

variable {s u t : State}

/-- Exception entry enters machine mode, or locks the core up in the mode that it was in. -/
theorem takeException (hu : u.priv = s.priv) {c : Cause} (hc : c.ofUserInstr = true) (epc info : Word) (b : Bool) :
    ModeStep s (u.takeException c epc info b) := by
  rcases takeException_cases u c epc info b with ⟨_, _, e⟩ | ⟨_, e⟩ <;> rw [e]
  · exact .stays hu
  · exact .enters c hc rfl rfl

/-- The instruction traps before it has changed anything. -/
theorem traps (s : State) (c : Cause) (hc : c.ofUserInstr = true) (info : Word) (b : Bool) :
    ModeStep s (s.countTrap.takeException c s.pc info b) :=
  takeException (s := s) (u := s.countTrap) rfl hc s.pc info b

theorem of_raise {c : Cause} {info : Word} {b : Bool} (hu : u.priv = s.priv) (hc : c.ofUserInstr = true)
    (h : u.raise c info b = .next t) : ModeStep s t := by
  cases h; exact takeException (u := u.countTrap) hu hc _ _ _

theorem of_illegal {i : Instr} (h : s.illegal i = .next t) : ModeStep s t := of_raise rfl rfl h

/-- ECALL's cause is that of the mode that it leaves. -/
theorem of_execEcall (h : execEcall s = .next t) : ModeStep s t := by
  unfold execEcall at h
  split at h
  · exact of_raise rfl rfl h
  next notUser =>
    have machine : s.priv = .machine := by cases hs : s.priv <;> simp_all
    cases h
    exact .stays ((takeException_machine (s := s.countTrap) machine ..).trans machine.symm)

theorem of_busErrorAt {k : Access} {a : Word} {done : State → State} {len : Word} (hu : u.priv = s.priv)
    (h : u.busErrorAt k a done len = .next t) (hd : ∀ v, (done v).priv = v.priv) : ModeStep s t := by
  rcases busErrorAt_cases h with ⟨_, rfl⟩ | ⟨_, rfl⟩
  · exact takeException (u := u.countTrap) hu k.faultCause_ofUserInstr _ _ _
  · exact .stays ((hd _).trans hu)

theorem of_loadError {k : Access} {a : Word} {d : Dest} {len : Word} (h : s.loadError k a d len = .next t) :
    ModeStep s t := by
  refine of_busErrorAt (u := if s.aee then s else s.deliverUnstated d) ?_ h fun _ => rfl
  split
  · rfl
  · exact deliverUnstated_priv s d

theorem of_load {d : Dest} {a : Word} {n : Nat} {ext : Dword → Dword} {len : Word} (h : s.load d a n ext len = .next t) :
    ModeStep s t := by
  rcases load_cases h with ⟨_, rfl⟩ | ⟨_, ⟨_, rfl⟩ | ⟨b, _, h⟩ | ⟨b, _, h⟩⟩
  · exact .traps s .loadAddrMisaligned rfl _ _
  · exact .stays (by simp)
  · refine of_raise ?_ rfl h
    rw [queueEarlier_priv]
    split
    · exact deliverUnstated_priv s d
    · rfl
  · exact of_loadError h

theorem of_store {a : Word} {n : Nat} {v : Dword} {len : Word} (h : s.store a n v len = .next t) : ModeStep s t := by
  rcases store_cases h with ⟨_, rfl⟩ | ⟨_, ⟨_, rfl⟩ | ⟨b, _, h⟩ | ⟨b, _, h⟩⟩
  · exact .traps s .storeAddrMisaligned rfl _ _
  · exact .stays (by simp)
  · exact of_raise ((queueEarlier_priv ..).trans (partialStore_priv ..)) rfl h
  · rcases storeError_cases h with ⟨_, rfl⟩ | ⟨_, h⟩
    · exact .stays (by simp)
    · exact of_busErrorAt (partialStore_priv ..) h fun _ => rfl

theorem of_amo {rd : Reg} {a src : Word} {op : Word → Word → Word} (h : s.amo rd a src op = .next t) : ModeStep s t := by
  rcases amo_cases h with ⟨_, rfl⟩ | ⟨_, ⟨_, rfl⟩ | ⟨b, _, rfl⟩ | ⟨b, _, h⟩⟩
  · exact .traps s .storeAddrMisaligned rfl _ _
  · exact .stays (by simp)
  · exact .traps s .storeAccessFault rfl _ _
  · exact of_busErrorAt rfl h countAtomic_priv

theorem of_loadReserved {rd : Reg} {a : Word} (h : s.loadReserved rd a = .next t) : ModeStep s t := by
  rcases loadReserved_cases h with ⟨_, rfl⟩ | ⟨_, ⟨_, rfl⟩ | ⟨b, _, rfl⟩ | ⟨b, _, h⟩⟩
  · exact .traps s .loadAddrMisaligned rfl _ _
  · exact .stays (by simp)
  · exact .traps s .loadAccessFault rfl _ _
  · exact of_loadError h

theorem of_storeConditional {rd : Reg} {a src : Word} (h : s.storeConditional rd a src = .next t) : ModeStep s t := by
  rcases storeConditional_cases h with ⟨_, rfl⟩ | ⟨_, ⟨_, _, rfl⟩ | ⟨_, _, rfl⟩ | ⟨b, _, rfl⟩ | ⟨b, _, _, h⟩⟩
  · exact .traps s .storeAddrMisaligned rfl _ _
  · exact .stays (by simp)
  · exact .stays (by simp)
  · exact .traps s .storeAccessFault rfl _ _
  · exact of_busErrorAt rfl h countAtomic_priv

theorem of_writeRd {rd : Reg} {v len : Word} (h : s.writeRd rd v len = .next t) : ModeStep s t := by
  cases h; exact .stays (by simp)

theorem of_branch {taken : Bool} {off len : Word} (h : s.branch taken off len = .next t) : ModeStep s t := by
  cases h; exact .stays rfl

theorem of_link {rd : Reg} {target len : Word} (h : s.link rd target len = .next t) : ModeStep s t := by
  cases h; exact .stays (by simp)

theorem of_fp {en : Bool} {i : Instr} {r : Result} (hr : r = .next t → ModeStep s t) (h : s.fp en i r = .next t) :
    ModeStep s t := by
  rcases fp_cases h with ⟨_, h⟩ | ⟨_, h⟩
  · exact hr h
  · exact of_illegal h

theorem of_fpRounded {en : Bool} {i : Instr} {rm : BitVec 3} {k : Rounding → Result}
    (hr : ∀ m, k m = .next t → ModeStep s t) (h : s.fpRounded en i rm k = .next t) : ModeStep s t := by
  rcases fpRounded_cases h with ⟨_, m, _, h⟩ | ⟨_, h⟩
  · exact hr m h
  · exact of_illegal h

theorem of_putF {fd : Reg} {v : Dword} {fl : BitVec 5}
    (h : Host.Outcome.next (((s.setF fd v).raiseFlags fl).advance 4) = (.next t : Result)) : ModeStep s t := by
  cases h; exact .stays (by simp)

theorem of_putX {rd : Reg} {v : Word} {fl : BitVec 5} (h : s.putX rd v fl = .next t) : ModeStep s t := by
  cases h; exact .stays (by simp)

theorem of_cacheOp {i : Instr} {op : State → State} (h : s.cacheOp i op = .next t) (hop : DataStep s (op s)) :
    ModeStep s t := by
  rcases cacheOp_cases h with ⟨_, _, rfl⟩ | ⟨_, h⟩
  · exact .stays hop.priv
  · exact of_illegal h

theorem of_syncOp {i : Instr} (h : s.syncOp i u = .next t) (hu : u.priv = s.priv) : ModeStep s t := by
  rcases syncOp_cases h with ⟨_, rfl⟩ | ⟨_, h⟩
  · exact .stays hu
  · exact of_illegal h

theorem of_csrInstr {i : Instr} {a : BitVec 12} {op : CsrOp} {write imm : Bool} {rd : Reg} {v : Word}
    (h : s.csrInstr i a op write imm rd v = .next t) : ModeStep s t := by
  rcases csrInstr_effect h with h | ⟨c, u, w, old, _, he, h⟩
  · exact of_illegal h
  · cases h; exact .stays ((setX_priv ..).trans he.priv)

theorem of_execWfi (h : execWfi s = .next t) : ModeStep s t := by
  unfold execWfi at h
  split at h
  · cases h; exact .stays rfl
  · exact of_illegal h

end ModeStep

/-- Every instruction but MRET in machine mode keeps the mode, or enters machine mode with an exception of rule R560. -/
theorem exec_modeStep {i : Instr} {s t : State} (h : exec i s = .next t) (hi : i = .mret → s.priv = .user) :
    ModeStep s t := by
  cases i with
  | add | addi | sub | and | andi | or | ori | xor | xori | sll | slli | srl | srli | sra | srai | slt | sltu | slti
  | sltiu | lui | auipc | mul | mulh | mulhsu | mulhu | div | divu | rem | remu | cAddi4spn | cAddi | cLi | cAddi16sp
  | cLui | cSrli | cSrai | cAndi | cSub | cXor | cOr | cAnd | cSlli | cMv | cAdd => exact .of_writeRd h
  | beq | bne | blt | bge | bltu | bgeu | cBeqz | cBnez => exact .of_branch h
  | jal | jalr | cJal | cJ | cJr | cJalr => exact .of_link h
  | lb | lbu | lh | lhu | lw | cLw | cLwsp => exact .of_load h
  | sb | sh | sw | cSw | cSwsp => exact .of_store h
  | csrrw | csrrs | csrrc | csrrwi | csrrsi | csrrci => exact .of_csrInstr h
  | wfi => exact .of_execWfi h
  | mret => exact .of_illegal ((execMret_user (hi rfl)).symm.trans h)
  | fence | cNop | fenceI => cases h; exact .stays rfl
  | ecall => exact .of_execEcall h
  | ebreak | cEbreak => exact .of_raise rfl rfl h
  | amoaddW | amoandW | amoorW | amoswapW | amoxorW | amomaxW | amomaxuW | amominW | amominuW =>
    simp only [exec, execAmoaddW, execAmoandW, execAmoorW, execAmoswapW, execAmoxorW, execAmomaxW, execAmomaxuW,
      execAmominW, execAmominuW] at h
    exact .of_amo h
  | scW => exact .of_storeConditional h
  | lrW => exact .of_loadReserved h
  | faddS | fsubS | fmulS | fdivS | fsqrtS | fmaddS | fmsubS | fnmsubS | fnmaddS | fcvtSW | fcvtSWu | fcvtSD | faddD
  | fsubD | fmulD | fdivD | fsqrtD | fmaddD | fmsubD | fnmsubD | fnmaddD | fcvtDS | fcvtDW | fcvtDWu =>
    exact .of_fpRounded (fun _ => .of_putF) h
  | fsgnjS | fsgnjnS | fsgnjxS | fminS | fmaxS | fsgnjD | fsgnjnD | fsgnjxD | fminD | fmaxD => exact .of_fp .of_putF h
  | feqS | fltS | fleS | fclassS | fmvXW | feqD | fltD | fleD | fclassD => exact .of_fp .of_putX h
  | fcvtWS | fcvtWuS | fcvtWD | fcvtWuD => exact .of_fpRounded (fun _ => .of_putX) h
  | fmvWX => exact .of_fp (.of_putF (fl := 0)) h
  | flw | fld => exact .of_fp .of_load h
  | fsw | fsd => exact .of_fp .of_store h
  | dcacheCall | dcacheCsw | dcacheCpa =>
    simp only [exec, execDcacheCall, execDcacheCsw, execDcacheCpa] at h
    exact .of_cacheOp h (.cleanLines s _)
  | dcacheIall | dcacheIsw | dcacheIpa =>
    simp only [exec, execDcacheIall, execDcacheIsw, execDcacheIpa] at h
    exact .of_cacheOp h (.discardLines s _)
  | dcacheCiall | dcacheCisw | dcacheCipa =>
    simp only [exec, execDcacheCiall, execDcacheCisw, execDcacheCipa] at h
    exact .of_cacheOp h (.flushLines s _)
  | icacheIall | icacheIpa =>
    simp only [exec, execIcacheIall, execIcacheIpa] at h
    exact .of_cacheOp h (.setStale s _)
  | sync | syncI => exact .of_syncOp h rfl

/-- MRET in machine mode, from an exception, an interrupt or an NMI, takes MPP as the mode (rules R580, R603). -/
theorem execMret_priv {s t : State} (hm : s.priv = .machine) (h : execMret s = .next t) : t.priv = s.mstatus.mpp := by
  cases hn : s.returnsFromNmi with
  | true => rw [execMret_nmiReturn hm hn] at h; cases h; rfl
  | false => rw [execMret_trapReturn hm hn] at h; cases h; rfl

/-! ## Leaving user mode (rules R570, R622) -/

/-- An instruction that leaves user mode has entered the handler of an exception, with nothing but data changed before. A
locked-up core stays in user mode. -/
theorem InstrStep.leavesUser {s t : State} (h : InstrStep s t) (hs : s.priv = .user) (ht : t.priv = .machine) :
    ∃ u c info, DataStep s u ∧ u.inHandler t (Cause.code c) s.pc info := by
  have kept : ¬ t.priv = s.priv := fun e => by rw [hs, ht] at e; cases e
  cases h with
  | retires hd _ => exact absurd hd.priv kept
  | @traps u c info b hd =>
    rcases takeException_cases u.countTrap c s.pc info b with ⟨_, _, e⟩ | ⟨_, e⟩ <;> rw [e] at kept ⊢
    · exact absurd hd.priv kept
    · exact ⟨u, c, info, hd, rfl, rfl, rfl, rfl, rfl, rfl, handler_eq u, countTrap_minstret u, rfl⟩
  | csr rd old m _ he => exact absurd ((setX_priv ..).trans he.priv) kept
  | sleeps => exact absurd rfl kept
  | returns m hm => rw [hs] at hm; cases hm

/-! ## Leaving machine mode (rule R622) -/

theorem interruptEntry_machine {s t : State} {c : Presented} (h : s.interruptEntry c = .next t) : t.priv = .machine := by
  unfold State.interruptEntry at h
  dsimp only at h
  split at h
  · rcases vectorEntry_cases h with ⟨w, rfl⟩ | rfl
    · rfl
    · exact takeException_machine rfl _ _ _ _
  · cases h; rfl

/-- The one instruction that leaves machine mode is MRET. -/
theorem exec_leavesMachine {i : Instr} {s t : State} (h : exec i s = .next t) (hs : s.priv = .machine)
    (ht : t.priv = .user) : i = .mret ∧ s.mstatus.mpp = .user := by
  by_cases hi : i = .mret
  · subst hi
    exact ⟨rfl, (execMret_priv hs h).symm.trans ht⟩
  · cases exec_modeStep h (absurd · hi) with
    | stays e => rw [hs, ht] at e; cases e
    | enters _ _ e => rw [ht] at e; cases e

/-- A fetch leads out of machine mode only to an MRET. -/
theorem fetchExecute_leavesMachine {s t : State} (h : s.fetchExecute = .next t) (hs : s.priv = .machine)
    (ht : t.priv = .user) :
    s.mstatus.mpp = .user ∧ ∃ c, s.fetchCode .machine s.pc = .ok c ∧ decodeCode c = .ok .mret := by
  have raised : ∀ {c info b}, s.raise c info b ≠ .next t := fun {c info b} e => by
    cases e
    exact absurd ((takeException_machine (s := s.countTrap) hs c s.pc info b).symm.trans ht) nofun
  rcases fetchExecute_cases h with ⟨c, i, hf, hd, hx⟩ | ⟨_, _, _, _, e⟩ | ⟨_, _, e⟩
  · obtain ⟨rfl, mpp⟩ := exec_leavesMachine hx hs ht
    rw [hs] at hf
    exact ⟨mpp, c, hf, hd⟩
  · exact absurd e raised
  · exact absurd e raised

/-- A boundary leads out of machine mode only by the instruction at pc: an NMI, an interrupt and a late bus error lead to
machine mode. -/
theorem boundary_leavesMachine {s t : State} (h : s.boundary = .next t) (hs : s.priv = .machine) (ht : t.priv = .user) :
    s.fetchExecute = .next t := by
  have kept : ¬ t.priv = .machine := fun e => by rw [ht] at e; cases e
  rcases boundary_cases h with ⟨_, rfl⟩ | ⟨_, c, _, hi⟩ | ⟨_, _, e, _, rfl⟩ | ⟨_, _, _, hx⟩
  · exact absurd rfl kept
  · exact absurd (interruptEntry_machine hi) kept
  · exact absurd (takeException_machine (s := { s with busErrors := s.busErrors.tail }) hs _ _ _ _) kept
  · exact hx

/-- A step leads out of machine mode only by the instruction at pc. -/
theorem afterSample_leavesMachine {s t : State} (h : s.afterSample = .next t) (hs : s.priv = .machine)
    (ht : t.priv = .user) : State.fetchExecute { s with asleep := false } = .next t := by
  have kept : ¬ t.priv = .machine := fun e => by rw [ht] at e; cases e
  rcases afterSample_cases h with ⟨_, rfl⟩ | ⟨_, _, _, rfl⟩ | ⟨_, _, _, rfl⟩ | ⟨_, _, _, _, rfl⟩ | ⟨_, _, _, hb⟩
  · exact absurd rfl kept
  · exact absurd rfl kept
  · exact absurd hs kept
  · exact absurd hs kept
  · exact boundary_leavesMachine (s := { s with asleep := false }) hb hs ht

/-- The trap state that an instruction leaves behind when it leaves user mode (rule R570). -/
theorem exec_leavesUser {i : Instr} {s t : State} (h : exec i s = .next t) (hs : s.priv = .user) (ht : t.priv = .machine) :
    t.mepc = s.pc ∧ t.mstatus.mpp = .user ∧ t.mstatus.mie = false ∧ t.mstatus.mpie = s.mstatus.mie ∧
      t.mcause.interrupt = false ∧ t.mcause.code ∈ ([2, 3, 4, 5, 6, 7, 8] : List (BitVec 12)) ∧
      t.mexstatus.exptVld = true ∧ t.pc = s.readCsr .mtvec &&& 0xFFFFFFC0 := by
  have code : t.mcause.code ∈ ([2, 3, 4, 5, 6, 7, 8] : List (BitVec 12)) := by
    cases exec_modeStep h fun _ => hs with
    | stays e => rw [hs, ht] at e; cases e
    | enters c hc _ e => rw [e]; exact Cause.code_ofUserInstr hc
  obtain ⟨u, c, info, data, hepc, -, hcause, hstatus, -, hex, hpc, -, -⟩ := (exec_instrStep h).leavesUser hs ht
  have mie : u.mstatus.mie = s.mstatus.mie := (congrArg (·.mstatus.mie) data.frame :)
  have mtvec : u.readCsr .mtvec = s.readCsr .mtvec := (congrArg (·.readCsr .mtvec) data.frame :)
  rw [hstatus, hex, hpc, mtvec]
  exact ⟨hepc, data.priv.trans hs, rfl, mie, by rw [hcause], code, rfl, rfl⟩

/-- Settles O20: what leaves user mode is an exception of the instruction, what leaves machine mode is MRET. -/
theorem userMachineBoundary : Obligations.UserMachineBoundary := by
  refine ⟨fun i s t h hs ht => exec_leavesUser h hs ht, fun i s t h hs ht => exec_leavesMachine h hs ht,
    fun s t u h hu hs ht => ?_⟩
  subst hu
  have fetched := afterSample_leavesMachine (step_next h).2 hs ht
  exact fetchExecute_leavesMachine (s := { s.sample with asleep := false }) fetched hs ht

end Sys2Proof.Machine
end

section
/-! SUPPORT. The CLIC's levels, its arbitration and the sampling of its lines (rules R661, R663, R664, R673 to R677, R685, R690,
R695). -/

namespace Sys2Proof.Machine

open Sys2Proof.Config

/-! ## Levels (rule R677) -/

/-- The low bits of a byte set to 1, as a number. -/
theorem lowOnes_toNat (v : Byte) {e : Nat} (he : e ≤ 8) :
    (v &&& ~~~BitVec.ofNat 8 (2 ^ e - 1) ||| BitVec.ofNat 8 (2 ^ e - 1)).toNat = v.toNat / 2 ^ e * 2 ^ e + (2 ^ e - 1) := by
  have ones (i : Nat) : (BitVec.ofNat 8 (2 ^ e - 1)).getLsbD i = decide (i < e) := by
    rw [BitVec.getLsbD_ofNat, Nat.testBit_two_pow_sub_one]
    by_cases h : i < e <;> simp [h]
    omega
  have below : 2 ^ e - 1 < 2 ^ e := Nat.sub_lt (Nat.two_pow_pos e) Nat.one_pos
  refine Nat.eq_of_testBit_eq fun i => ?_
  rw [Nat.mul_comm, Nat.testBit_two_pow_mul_add _ below, BitVec.testBit_toNat, BitVec.getLsbD_or, BitVec.getLsbD_and,
    BitVec.getLsbD_not, ones, Nat.testBit_two_pow_sub_one, Nat.testBit_div_two_pow, BitVec.testBit_toNat]
  by_cases h : i < e
  · simp [h]
  · by_cases inside : i < 8
    · simp [h, inside, show i - e + e = i by omega]
    · simp [h, BitVec.getLsbD_of_ge v i (by omega), show i - e + e = i by omega]

theorem levelOf_toNat (p : Params) (nlbits : BitVec 4) (ctl : Byte) :
    (levelOf p nlbits ctl).toNat =
      ctl.toNat / 2 ^ (8 - min nlbits.toNat p.clicIntCtlBits) * 2 ^ (8 - min nlbits.toNat p.clicIntCtlBits) +
        (2 ^ (8 - min nlbits.toNat p.clicIntCtlBits) - 1) := lowOnes_toNat ctl (Nat.sub_le ..)

/-! ## Arbitration (rule R695) -/

theorem candidate_iff {s : State} {c : ClicSource} : s.candidate c = true ↔
    c.ip = true ∧ c.ie = true ∧ s.clic.mth.toNat < (levelOf s.params s.clic.nlbits c.ctl).toNat ∧ c.ctl ≠ 0 := by
  simp [State.candidate, State.sourceLevel, BitVec.lt_def, and_assoc]

/-- The rank of a source among the candidates: its control value, then its number. -/
def ClicSource.rank (c : ClicSource) : ℕ ×ₗ ℕ := toLex (c.ctl.toNat, c.id)

theorem ClicSource.rank_lt_iff {c d : ClicSource} :
    d.rank < c.rank ↔ d.ctl.toNat < c.ctl.toNat ∨ d.ctl = c.ctl ∧ d.id < c.id := by
  rw [rank, rank, Prod.Lex.toLex_lt_toLex, BitVec.toNat_inj]

theorem ClicSource.outranks_iff {c d : ClicSource} : c.outranks d = true ↔ d.rank < c.rank := by
  rw [rank_lt_iff]
  simp only [outranks, Bool.or_eq_true, Bool.and_eq_true, decide_eq_true_eq, beq_iff_eq, BitVec.lt_def, eq_comm (a := c.ctl)]

/-- The arbitration picks a candidate of the largest rank. -/
theorem winner_eq_argmax (s : State) : s.winner = (s.clic.sources.filter s.candidate).argmax ClicSource.rank := by
  have next : stronger = List.argAux fun c d : ClicSource => d.rank < c.rank := by
    funext best c
    cases best with
    | none => rfl
    | some d => simp only [stronger, List.argAux, ClicSource.outranks_iff]; split <;> rfl
  rw [State.winner, next]; rfl

/-- Every interrupt number exists once (rule R685). -/
theorem sourceIds_nodup (p : Params) : (sourceIds p).Nodup := by
  refine List.nodup_append.mpr ⟨by decide, List.nodup_range.map (add_right_injective 16), fun i hi j hj => ?_⟩
  obtain ⟨k, -, rfl⟩ := List.mem_map.mp hj
  simp only [List.mem_cons, List.not_mem_nil, or_false] at hi
  omega

/-- A source is known by its number. -/
theorem source_eq_of_id {s : State} (shape : s.clicShape = true) {c d : ClicSource} (hc : c ∈ s.clic.sources)
    (hd : d ∈ s.clic.sources) (h : c.id = d.id) : c = d := by
  have ids := (clicShape_iff.mp shape).1
  exact List.inj_on_of_nodup_map (ids ▸ sourceIds_nodup s.params) hc hd h

/-- The winner is the candidate above all others. -/
theorem winner_some_iff {s : State} (shape : s.clicShape = true) {c : ClicSource} : s.winner = some c ↔
    (c ∈ s.clic.sources ∧ s.candidate c = true) ∧
      ∀ d, d ∈ s.clic.sources ∧ s.candidate d = true → d = c ∨ d.rank < c.rank := by
  rw [winner_eq_argmax, ← Option.mem_def, List.mem_argmax_iff]
  simp only [List.mem_filter]
  refine and_congr_right fun hc => ⟨fun ⟨largest, _⟩ d hd => ?_, fun above => ⟨fun d hd => ?_, fun d hd tie => ?_⟩⟩
  · refine (largest d hd).eq_or_lt.imp_left fun same => ?_
    exact source_eq_of_id shape hd.1 hc.1 (congrArg (fun r => (ofLex r).2) same)
  · rcases above d hd with rfl | lower
    · exact le_refl _
    · exact lower.le
  · rcases above d hd with rfl | lower
    · exact le_refl _
    · exact absurd lower tie.not_gt

theorem winner_none_iff {s : State} : s.winner = none ↔ ∀ c, ¬ (c ∈ s.clic.sources ∧ s.candidate c = true) := by
  rw [winner_eq_argmax, List.argmax_eq_none, List.filter_eq_nil_iff]
  simp only [not_and]

/-- What the CLIC presents (rule R695, D55). -/
theorem presented_some_iff {s : State} (shape : s.clicShape = true) {p : Presented} : s.presented = some p ↔
    ∃ c, (c ∈ s.clic.sources ∧ s.candidate c = true) ∧
      p = { id := c.id, level := levelOf s.params s.clic.nlbits c.ctl, shv := c.shv } ∧
      ∀ d, d ∈ s.clic.sources ∧ s.candidate d = true → d = c ∨ d.rank < c.rank := by
  simp only [State.presented, Option.map_eq_some_iff, winner_some_iff shape]
  exact exists_congr fun c => ⟨fun ⟨⟨hc, above⟩, e⟩ => ⟨hc, e.symm, above⟩, fun ⟨hc, e, above⟩ => ⟨⟨hc, above⟩, e.symm⟩⟩

theorem presented_none_iff {s : State} :
    s.presented = none ↔ ∀ c, ¬ (c ∈ s.clic.sources ∧ s.candidate c = true) := by
  rw [State.presented, Option.map_eq_none_iff, winner_none_iff]

/-- The interrupt that the core takes (rule R690; log 36). -/
theorem takenInterrupt_some {s : State} {p : Presented} : s.takenInterrupt = some p ↔
    s.presented = some p ∧ s.pins.deferInterrupt = false ∧ (s.mstatus.mie = true ∨ s.priv = .user) ∧
      s.mil.toNat < p.level.toNat ∧ s.mexstatus.nmi = false ∧ s.lockedUp = false := by
  rw [State.takenInterrupt]
  cases s.pins.deferInterrupt <;>
    simp [Option.filter_eq_some_iff, State.takes, BitVec.lt_def, and_assoc]

/-! ## Lines and pending bits (rules R674, R676, R685) -/

/-- The edge that a source waits for: a falling one with trig[1] = 1, else a rising one. -/
def ClicSource.selectedEdge (c : ClicSource) (line : Bool) : Prop :=
  if c.trig.getLsbD 1 = true then c.line = true ∧ line = false else c.line = false ∧ line = true

/-- What a source is after it has sampled its line. -/
theorem ClicSource.sample_eq (c : ClicSource) (line : Bool) :
    c.sample line = { c with ip := (c.sample line).ip, line := line, edge := (c.sample line).edge } ∧
      (c.trig.getLsbD 0 = false → (c.sample line).ip = line) ∧
      (c.trig.getLsbD 0 = true → ((c.sample line).ip = true ↔ c.ip = true ∨ c.selectedEdge line)) ∧
      ((c.sample line).edge = true ↔ c.trig.getLsbD 0 = true ∧ c.selectedEdge line) := by
  have selected : (if c.trig.getLsbD 1 then c.line && !line else !c.line && line) = true ↔ c.selectedEdge line := by
    unfold selectedEdge
    split <;> simp
  refine ⟨rfl, fun level => ?_, fun edge => ?_, ?_⟩
  · simp only [sample, edgeMode, level, Bool.false_eq_true, if_false]
  · rw [← selected]
    simp only [sample, edgeMode, edge, if_true, Bool.or_eq_true]
  · rw [← selected]
    simp [sample, edgeMode]

/-- The lines are those of the state after the step's inputs are taken. -/
theorem sample_sources (s : State) :
    s.sample.clic.sources = s.clic.sources.map fun c => c.sample (s.takeInputs.sourceLine c.id) := by
  rw [sample_clic]; rfl

/-- Sampling takes the step's pins and advances the system counter. -/
theorem sample_inputs (s : State) :
    s.sample.pins = s.nextPins ∧ s.sample.mtime = s.mtime + s.nextPins.sysCntAdvance ∧ s.sample.clint = s.clint := by
  rcases sample_cases s with ⟨-, -, e⟩ | ⟨-, _, e⟩ <;> rw [e] <;> exact ⟨rfl, rfl, rfl⟩

/-- The line of each source (rules R661, R663, R664). -/
theorem sourceLine_takeInputs (s : State) (i : Nat) : s.takeInputs.sourceLine i =
    if i = 3 then s.clint.msip
    else if i = 7 then decide (s.clint.mtimecmp.toNat ≤ s.sample.mtime.toNat)
    else if i = 11 then s.sample.pins.extInt
    else s.sample.pins.intVld.getLsbD (i - 16) := by
  obtain ⟨pins, mtime, -⟩ := sample_inputs s
  rw [pins, mtime]; rfl

/-- Settles O59. -/
theorem levelsAndArbitration : Obligations.LevelsAndArbitration := by
  refine ⟨levelOf_toNat, fun s shape => ?_, fun s p => takenInterrupt_some, fun s => ?_⟩
  · dsimp only
    simp only [← candidate_iff, ← ClicSource.rank_lt_iff]
    exact ⟨fun p => presented_some_iff shape, presented_none_iff⟩
  · obtain ⟨pins, mtime, clint⟩ := sample_inputs s
    refine ⟨pins, by rw [mtime, pins], clint, by rw [sample_clic]; rfl, by rw [sample_clic]; rfl, ?_⟩
    rw [sample_sources, List.forall₂_map_right_iff, List.forall₂_same]
    intro c _
    rw [sourceLine_takeInputs]
    exact c.sample_eq _

end Sys2Proof.Machine
end

section
/-! SUPPORT. Loads and stores of the CLINT's and CLIC's registers, and the accesses of user mode that they deny (rules R661 to
R665, R671 to R677, R679; D66). -/

namespace Sys2Proof.Machine

open Sys2Proof.Config

/-! ## The addresses of the registers (rules R660, R670) -/

theorem inTcip_iff {a : Word} : inTcip a = true ↔ 0xE0000000 ≤ a.toNat ∧ a.toNat < 0xF0000000 := by
  have := a.isLt
  rw [inTcip, beq_iff_eq, ← BitVec.toNat_inj, toNat_slice_eq]
  show a.toNat / 2 ^ 28 % 2 ^ 4 = 14 ↔ _
  omega

/-- A word register stands at an aligned address of the window, outside the registers of the interrupts. -/
theorem deviceReg_address {a : Word} {r : DeviceReg} (h : deviceReg a = some r) :
    a.toNat % 4 = 0 ∧ inTcip a = true ∧ inSources a = false := by
  unfold deviceReg at h
  split_ifs at h with h1 h2 h3 h4 h5 h6 h7 h8 <;> subst_vars <;> decide

/-- Byte register `k` of interrupt `i` stands at `a`. -/
def isSourceByte (a : Word) (i k : Nat) : Prop := a.toNat = 0xE0801000 + 4 * i + k ∧ i < 4096 ∧ k < 4

theorem isSourceByte_of_eq {a base : Word} {i k : Nat} (hi : i < 4096) (hk : k < 4) (hb : base.toNat = 0xE0801000 + k)
    (h : a = base + BitVec.ofNat 32 (4 * i)) : isSourceByte a i k := by
  refine ⟨?_, hi, hk⟩
  rw [h, BitVec.toNat_add, BitVec.toNat_ofNat, hb]
  omega

theorem isSourceByte_address {a : Word} {i k : Nat} (h : isSourceByte a i k) :
    inTcip a = true ∧ inSources a = true ∧ sourceAt a = i ∧ a.toNat % 4 = k := by
  obtain ⟨ha, hi, hk⟩ := h
  have inside : inSources a = true := inSources_iff.mpr (by omega)
  have offset : (a - 0xE0801000).toNat = a.toNat - 0xE0801000 :=
    BitVec.toNat_sub_of_le (BitVec.le_def.mpr (inSources_iff.mp inside).1)
  exact ⟨inTcip_iff.mpr (by omega), inside, by rw [sourceAt, offset]; omega, by omega⟩

/-! ## Accesses with machine mode as the effective privilege -/

section

variable {s : State} {a : Word} {n : Nat}

/-- An aligned access to the window is answered as far as the devices describe it (rules R665, R679; U16, log 26). -/
theorem checkAccess_device {k : Access} (hm : s.dataPriv = .machine) (hp : s.pmpAllows k.perm .machine a = true)
    (hn : n ≠ 8) (align : a.toNat % n = 0) (ht : inTcip a = true) :
    s.trapsMisaligned k a n = false ∧
      s.checkAccess k a n = if k.isAtomic || !deviceSupports a n then .refused (.deviceAccess a) else .ok := by
  have aligned : misaligned a n = false := by simp [misaligned, align]
  have one : pieces a n = [(a, n)] := by simp [pieces, aligned, hn]
  refine ⟨by simp [State.trapsMisaligned, aligned], ?_⟩
  rw [(checkAccess_single one).1]
  simp [State.checkPieceOf, State.checkPiece, aligned, hm, hp, ht]

/-- A load that the devices describe. -/
theorem load_device {rd : Reg} {ext : Dword → Dword} (hm : s.dataPriv = .machine) (hp : s.pmpAllows .read .machine a = true)
    (hn : n ≠ 8) (align : a.toNat % n = 0) (ht : inTcip a = true) (described : deviceSupports a n = true) :
    ∃ t, s.load (.int rd) a n ext 4 = .next t ∧
      s.gaveX t rd ((ext ((s.deviceRead a n).setWidth 64)).setWidth 32) 4 := by
  obtain ⟨untrapped, check⟩ := checkAccess_device (k := .load) hm hp hn align ht
  have value : s.loadValue a n = (s.deviceRead a n).setWidth 64 := by rw [State.loadValue, if_pos ht, if_neg hn]
  rw [← value]
  exact load_gaveX_of_checks untrapped (by rw [check, described]; rfl)

/-- A load that the devices do not describe has no meaning (U16, log 26). -/
theorem load_undescribed {d : Dest} {ext : Dword → Dword} {len : Word} (hm : s.dataPriv = .machine)
    (hp : s.pmpAllows .read .machine a = true) (hn : n ≠ 8) (align : a.toNat % n = 0) (ht : inTcip a = true)
    (undescribed : deviceSupports a n = false) : s.load d a n ext len = .refused (.deviceAccess a) := by
  obtain ⟨untrapped, check⟩ := checkAccess_device (k := .load) hm hp hn align ht
  rw [State.load, if_neg (by simp [untrapped]), check, undescribed]; rfl

/-- A store that the devices describe: their registers change, and the store counts and retires. -/
theorem store_device {v : Word} (hm : s.dataPriv = .machine) (hp : s.pmpAllows .write .machine a = true)
    (hn : n ≠ 8) (align : a.toNat % n = 0) (ht : inTcip a = true) (described : deviceSupports a n = true) :
    ∃ t, s.store a n (v.setWidth 64) 4 = .next t ∧ s.retiredTo t (s.pc + 4) ∧
      t = { s.deviceWrite a n v with hpm := (s.countEvent 13 1).hpm, pc := t.pc, minstret := t.minstret } := by
  obtain ⟨untrapped, check⟩ := checkAccess_device (k := .store) hm hp hn align ht
  have value : s.storeValue a n (v.setWidth 64) = s.deviceWrite a n v := by
    rw [State.storeValue, if_pos ht, if_neg hn, BitVec.setWidth_setWidth_of_le _ (by decide), BitVec.setWidth_eq]
  have run : s.store a n (v.setWidth 64) 4 = .next (((s.deviceWrite a n v).countEvent 13 1).advance 4) := by
    rw [State.store, if_neg (by simp [untrapped]), check, described, value]; rfl
  rw [run, deviceWrite_frame]
  exact ⟨_, rfl, ⟨rfl, rfl⟩, rfl⟩

/-! ## Word registers (rules R661 to R664, R671 to R673) -/

theorem lw_deviceReg {rd : Reg} {r : DeviceReg} (hm : s.dataPriv = .machine) (hp : s.pmpAllows .read .machine a = true)
    (h : deviceReg a = some r) :
    ∃ t, s.load (.int rd) a 4 (extend false 32) 4 = .next t ∧ s.gaveX t rd (s.readDeviceReg r) 4 := by
  obtain ⟨align, window, outside⟩ := deviceReg_address h
  have loaded := load_device (rd := rd) (ext := extend false 32) hm hp (by decide) align window
    (by simp [deviceSupports, outside, h])
  have word (v : Word) : (extend false 32 (v.setWidth 64)).setWidth 32 = v := by simp [extend]
  rwa [word, deviceRead_register s outside h] at loaded

theorem sw_deviceReg {v : Word} {r : DeviceReg} (hm : s.dataPriv = .machine) (hp : s.pmpAllows .write .machine a = true)
    (h : deviceReg a = some r) :
    ∃ t, s.store a 4 (v.setWidth 64) 4 = .next t ∧ s.retiredTo t (s.pc + 4) ∧
      t = { s.writeDeviceReg v r with hpm := (s.countEvent 13 1).hpm, pc := t.pc, minstret := t.minstret } := by
  obtain ⟨align, window, outside⟩ := deviceReg_address h
  have stored := store_device (v := v) hm hp (by decide) align window (by simp [deviceSupports, outside, h])
  have written : s.deviceWrite a 4 v = s.writeDeviceReg v r := by simp [State.deviceWrite, outside, h]
  rwa [written] at stored

/-! ## Byte registers of the interrupts (rules R674 to R677) -/

/-- Byte register `k` of a source. -/
def ClicSource.byte (c : ClicSource) : Nat → Byte
  | 0 => (0 : BitVec 7) ++ BitVec.ofBool c.ip
  | 1 => (0 : BitVec 7) ++ BitVec.ofBool c.ie
  | 2 => c.attrByte
  | _ => c.ctl

theorem ClicSource.word_byte (c : ClicSource) {k : Nat} (hk : k < 4) : (c.word >>> (8 * k)).setWidth 8 = c.byte k := by
  apply BitVec.eq_of_toNat_eq
  have attr := c.attrByte.isLt
  have ie := (BitVec.ofBool c.ie).isLt
  have ip := (BitVec.ofBool c.ip).isLt
  rw [BitVec.toNat_setWidth, BitVec.toNat_ushiftRight, Nat.shiftRight_eq_div_pow]
  interval_cases k <;>
    simp only [word, byte, toNat_append_eq, BitVec.ofNat_eq_ofNat, BitVec.toNat_ofNat, Nat.reduceMul] <;> omega

/-- LBU keeps the low byte of what it reads. -/
theorem extend_lowByte (v : Word) :
    (extend false 8 ((v &&& BitVec.ofNat 32 (2 ^ (8 * 1) - 1)).setWidth 64)).setWidth 32 = (v.setWidth 8).setWidth 32 := by
  have low : v.toNat &&& 255 = v.toNat % 2 ^ 8 := Nat.and_two_pow_sub_one_eq_mod v.toNat 8
  apply BitVec.eq_of_toNat_eq
  simp only [extend, Bool.false_eq_true, if_false, BitVec.toNat_setWidth, BitVec.toNat_and, BitVec.toNat_ofNat,
    Nat.reduceMul, Nat.reducePow, Nat.reduceSub, Nat.reduceMod, low]
  omega

/-- A loaded byte register is the byte's value; where the source does not exist it is 0 (D67). -/
theorem lbu_sourceByte {rd : Reg} {i k : Nat} {w : Word} (hm : s.dataPriv = .machine)
    (hp : s.pmpAllows .read .machine a = true) (h : isSourceByte a i k)
    (found : ∀ c, s.clic.sources.find? (·.id == i) = some c → (c.byte k).setWidth 32 = w)
    (absent : s.clic.sources.find? (·.id == i) = none → w = 0) :
    ∃ t, s.load (.int rd) a 1 (extend false 8) 4 = .next t ∧ s.gaveX t rd w 4 := by
  obtain ⟨window, inside, index, offset⟩ := isSourceByte_address h
  obtain ⟨-, -, hk⟩ := h
  have loaded := load_device (rd := rd) (ext := extend false 8) hm hp (by decide) (Nat.mod_one _) window
    (by simp [deviceSupports, inside])
  have value : (extend false 8 ((s.deviceRead a 1).setWidth 64)).setWidth 32 = w := by
    rw [State.deviceRead, if_pos inside, index, offset, extend_lowByte, State.sourceWord]
    cases e : s.clic.sources.find? (·.id == i) with
    | some c => exact (congrArg _ (c.word_byte hk)).trans (found c e)
    | none => rw [absent e]; simp
  rwa [value] at loaded

theorem sb_sourceByte {v : Word} {i k : Nat} (hm : s.dataPriv = .machine) (hp : s.pmpAllows .write .machine a = true)
    (h : isSourceByte a i k) (g : ClicSource → ClicSource)
    (hg : ∀ c : ClicSource, c.id = i → c.writeByte s.params s.freeCtr k (v.setWidth 8) = g c) :
    ∃ t, s.store a 1 (v.setWidth 64) 4 = .next t ∧ s.retiredTo t (s.pc + 4) ∧
      t = { s.mapSources (fun c => if c.id = i then g c else c) with
            hpm := (s.countEvent 13 1).hpm, pc := t.pc, minstret := t.minstret } := by
  obtain ⟨window, inside, index, offset⟩ := isSourceByte_address h
  have stored := store_device (v := v) hm hp (by decide) (Nat.mod_one _) window (by simp [deviceSupports, inside])
  have written : s.deviceWrite a 1 v = s.mapSources fun c => if c.id = i then g c else c := by
    rw [State.deviceWrite, if_pos inside, index, offset]
    congr 1
    funext c
    split
    · exact hg c ‹_›
    · rfl
  rwa [written] at stored

end

/-! ### What a store to a byte register makes of its source -/

section

variable (p : Params) (ctr : Nat) (c : ClicSource) (v : Word)

theorem getLsbD_lowByte {i : Nat} (hi : i < 8) : (v.setWidth 8).getLsbD i = v.getLsbD i := by simp [hi]

theorem writeByte_setIp (h : v.getLsbD 0 = true) :
    c.writeByte p ctr 0 (v.setWidth 8) = if c.edgeMode = true then { c with ip := true } else c := by
  rw [ClicSource.writeByte, ClicSource.writeIp, getLsbD_lowByte v (by decide), h, if_pos rfl]

theorem writeByte_clearIp (h : v.getLsbD 0 = false) : c.writeByte p ctr 0 (v.setWidth 8) =
    if c.edgeMode = true then { c with ip := c.edge && edgeSurvives ctr c.id } else c := by
  rw [ClicSource.writeByte, ClicSource.writeIp, getLsbD_lowByte v (by decide), h, ClicSource.clear]
  cases c.edgeMode <;> rfl

theorem writeByte_ie : c.writeByte p ctr 1 (v.setWidth 8) = { c with ie := v.getLsbD 0 } := by
  rw [← getLsbD_lowByte v (by decide)]; rfl

theorem writeByte_attr : c.writeByte p ctr 2 (v.setWidth 8) =
    { c with
      trig := v.extractLsb' 1 2, shv := v.getLsbD 0,
      ip := if c.edgeMode = false ∧ v.getLsbD 1 = true then pendingAfterRetrigger ctr c.id else c.ip } := by
  have trig : (v.setWidth 8).extractLsb' 1 2 = v.extractLsb' 1 2 := by
    apply BitVec.eq_of_toNat_eq
    simp only [toNat_slice_eq, BitVec.toNat_setWidth]
    omega
  rw [ClicSource.writeByte, ClicSource.writeAttr, trig, getLsbD_lowByte v (by decide), getLsbD_lowByte v (by decide)]
  simp only [Bool.and_eq_true, Bool.not_eq_true']

theorem writeByte_ctl : c.writeByte p ctr 3 (v.setWidth 8) = { c with ctl := v.extractLsb' 0 8 ||| ctlTied p } := by
  have low : v.setWidth 8 = v.extractLsb' 0 8 := BitVec.setWidth_eq_extractLsb' (by decide)
  rw [ClicSource.writeByte, ClicSource.writeCtl, low] <;> nofun

end

/-! ## Values as numbers -/

theorem bit_toWord (b : Bool) {n : Nat} :
    ((0 : BitVec n) ++ BitVec.ofBool b).setWidth 32 = if b = true then 1 else 0 := by
  apply BitVec.eq_of_toNat_eq
  cases b <;> simp

/-- The halves of MTIMECMP and MTIME (rules R662, R663). -/
theorem halves_toNat (v : Dword) : v.setWidth 32 = BitVec.ofNat 32 (v.toNat % 2 ^ 32) ∧
    v.extractLsb' 32 32 = BitVec.ofNat 32 (v.toNat / 2 ^ 32) := by
  constructor <;> apply BitVec.eq_of_toNat_eq
  · simp
  · rw [toNat_slice_eq, BitVec.toNat_ofNat]

/-- MTIMECMP with one half written (rule R662). -/
theorem replaceHalf_toNat (m : Dword) (v : Word) :
    (m.extractLsb' 32 32 ++ v : Dword) = BitVec.ofNat 64 (m.toNat / 2 ^ 32 * 2 ^ 32 + v.toNat) ∧
    (v ++ m.extractLsb' 0 32 : Dword) = BitVec.ofNat 64 (v.toNat * 2 ^ 32 + m.toNat % 2 ^ 32) := by
  have hm := m.isLt
  have hv := v.isLt
  constructor <;> apply BitVec.eq_of_toNat_eq <;>
    simp only [toNat_append_eq, toNat_slice_eq, BitVec.toNat_ofNat] <;> omega

/-- CLICCFG (rule R671). -/
theorem cfgWord_toNat (c : Clic) : c.cfgWord = BitVec.ofNat 32 (c.nlbits.toNat * 2 + 1) := by
  apply BitVec.eq_of_toNat_eq
  have := c.nlbits.isLt
  simp only [Clic.cfgWord, toNat_append_eq, BitVec.ofNat_eq_ofNat, BitVec.toNat_ofNat]
  omega

/-- CLICINFO of a well-formed configuration (rule R672, D3). -/
theorem clicInfo_toNat {p : Params} (h : p.wf = true) : clicInfo p =
    BitVec.ofNat 32 (p.clicIntCtlBits * 2 ^ 21 + p.clicVersion.toNat * 2 ^ 13 + (16 + p.clicNumInt)) := by
  obtain ⟨ints, bits⟩ : p.clicNumInt ≤ 240 ∧ p.clicIntCtlBits ≤ 5 := by
    simp only [Params.wf, Bool.and_eq_true, decide_eq_true_eq] at h
    omega
  apply BitVec.eq_of_toNat_eq
  have := p.clicVersion.isLt
  simp only [clicInfo, toNat_append_eq, BitVec.ofNat_eq_ofNat, BitVec.toNat_ofNat]
  omega

/-- MINTTHRESH (rule R673). -/
theorem thresholdWord_toNat (v : Byte) : (v ++ (0 : BitVec 24) : Word) = BitVec.ofNat 32 (v.toNat * 2 ^ 24) := by
  apply BitVec.eq_of_toNat_eq
  have := v.isLt
  simp only [toNat_append_eq, BitVec.ofNat_eq_ofNat, BitVec.toNat_ofNat]
  omega

/-- ATTR (rule R676). -/
theorem attrByte_toNat (c : ClicSource) :
    c.attrByte.setWidth 32 = BitVec.ofNat 32 (0xC0 + c.trig.toNat * 2 + if c.shv then 1 else 0) := by
  rw [ClicSource.attrByte]
  generalize c.trig = trig
  generalize c.shv = shv
  revert trig shv
  decide

/-! ## Accesses with user mode as the effective privilege (D66) -/

section

variable {s : State} {a : Word} {n : Nat} {k : Access}

/-- Every transfer of an aligned access to the window is denied (rules R665, R679; D66). -/
theorem checkPieceOf_userDevice (hu : s.dataPriv = .user) (ht : inTcip a = true) (align : a.toNat % n = 0) :
    ∀ p ∈ pieces a n, s.checkPieceOf k a n p = .denied a := by
  have aligned : misaligned a n = false := by simp [misaligned, align]
  have denied {p : Word × Nat} (hp : inTcip p.1 = true) : s.checkPieceOf k a n p = .denied a := by
    simp [State.checkPieceOf, State.checkPiece, aligned, hp, hu]
  intro p hp
  rw [pieces, if_neg (by simp [aligned])] at hp
  split at hp
  next double =>
    subst double
    rcases List.mem_pair.mp hp with rfl | rfl
    · exact denied ht
    · exact denied ((inTcip_upper align).trans ht)
  next =>
    rw [List.mem_singleton.mp hp]
    exact denied ht

/-- An aligned access to the window is denied with its address. -/
theorem checkAccess_userDevice (hu : s.dataPriv = .user) (ht : inTcip a = true) (align : a.toNat % n = 0) :
    misaligned a n = false ∧ s.checkAccess k a n = .denied a ∧ s.earlierError k a n = none := by
  have aligned : misaligned a n = false := by simp [misaligned, align]
  obtain ⟨p, ps, first⟩ : ∃ p ps, pieces a n = p :: ps := by
    rw [pieces, if_neg (by simp [aligned])]
    split <;> exact ⟨_, _, rfl⟩
  have answer : s.checkPieceOf k a n p = .denied a :=
    checkPieceOf_userDevice hu ht align p (first ▸ List.mem_cons_self ..)
  have ends : s.checkPieces k a n = [] ++ .denied a :: ps.map (s.checkPieceOf k a n) := by
    rw [State.checkPieces, first, List.map_cons, answer]; rfl
  exact ⟨aligned, checkAccess_ends ends (by simp) rfl⟩

theorem load_userDevice {d : Dest} {ext : Dword → Dword} (hu : s.dataPriv = .user) (ht : inTcip a = true)
    (align : a.toNat % n = 0) : ∃ t, s.load d a n ext 4 = .next t ∧ s.trapped t 5 a := by
  obtain ⟨aligned, check, nothing⟩ := checkAccess_userDevice (k := .load) hu ht align
  rw [State.load, if_neg (by simp [State.trapsMisaligned, aligned]), check, nothing]
  exact raise_trapped s .loadAccessFault a false rfl

theorem store_userDevice {v : Dword} (hu : s.dataPriv = .user) (ht : inTcip a = true) (align : a.toNat % n = 0) :
    ∃ t, s.store a n v 4 = .next t ∧ s.trapped t 7 a := by
  obtain ⟨aligned, check, nothing⟩ := checkAccess_userDevice (k := .store) hu ht align
  have unwritten : s.partialStore a n v = s :=
    partialStore_all_failing fun p hp => by rw [checkPieceOf_userDevice hu ht align p hp]; nofun
  rw [State.store, if_neg (by simp [State.trapsMisaligned, aligned]), check, nothing, unwritten]
  exact raise_trapped s .storeAccessFault a false rfl

theorem amo_userDevice {rd : Reg} {src : Word} {op : Word → Word → Word} (hu : s.dataPriv = .user) (ht : inTcip a = true)
    (align : a.toNat % 4 = 0) : ∃ t, s.amo rd a src op = .next t ∧ s.trapped t 7 a := by
  obtain ⟨aligned, check, -⟩ := checkAccess_userDevice (k := .amo) hu ht align
  rw [State.amo, if_neg (by simp [aligned]), check]
  exact raise_trapped s .storeAccessFault a false rfl

theorem loadReserved_userDevice {rd : Reg} (hu : s.dataPriv = .user) (ht : inTcip a = true) (align : a.toNat % 4 = 0) :
    ∃ t, s.loadReserved rd a = .next t ∧ s.trapped t 5 a := by
  obtain ⟨aligned, check, -⟩ := checkAccess_userDevice (k := .loadReserved) hu ht align
  rw [State.loadReserved, if_neg (by simp [aligned]), check]
  exact raise_trapped s .loadAccessFault a false rfl

theorem storeConditional_userDevice {rd : Reg} {src : Word} (hu : s.dataPriv = .user) (ht : inTcip a = true)
    (align : a.toNat % 4 = 0) : ∃ t, s.storeConditional rd a src = .next t ∧ s.trapped t 7 a := by
  obtain ⟨aligned, check, -⟩ := checkAccess_userDevice (k := .storeConditional) hu ht align
  rw [State.storeConditional, if_neg (by simp [aligned]), check]
  exact raise_trapped s .storeAccessFault a false rfl

end

/-! ## The statement -/

/-- Integer loads and enabled floating-point loads are loads of their size (rules R291 to R295, R400, R450). -/
theorem exec_enabledLoads {s : State} {rd rs1 fd : Reg} {imm : BitVec 12} {l : Instr × Nat}
    (h : l ∈ [(Instr.lb rd rs1 imm, 1), (.lbu rd rs1 imm, 1), (.lh rd rs1 imm, 2), (.lhu rd rs1 imm, 2),
        (.lw rd rs1 imm, 4)] ++
      (if s.fpEnabled = true then [(Instr.flw fd rs1 imm, 4)] else []) ++
      if s.fpEnabledD = true then [(Instr.fld fd rs1 imm, 8)] else []) :
    ∃ d ext, exec l.1 s = s.load d (s.readX rs1 + BitVec.ofInt 32 imm.toInt) l.2 ext 4 := by
  rw [List.mem_append, List.mem_append, List.mem_ite_nil_right, List.mem_ite_nil_right, List.mem_singleton,
    List.mem_singleton] at h
  rcases h with (int | ⟨on, rfl⟩) | ⟨on, rfl⟩
  · obtain ⟨-, ext, run⟩ := exec_loads (s := s) int
    exact ⟨_, ext, run⟩
  · exact ⟨_, _, exec_flw on⟩
  · exact ⟨_, _, exec_fld on⟩

/-- Integer stores and enabled floating-point stores are stores of their size (rules R296 to R298, R415, R460). -/
theorem exec_enabledStores {s : State} {rs1 rs2 fd : Reg} {imm : BitVec 12} {l : Instr × Nat}
    (h : l ∈ [(Instr.sb rs2 rs1 imm, 1), (.sh rs2 rs1 imm, 2), (.sw rs2 rs1 imm, 4)] ++
      (if s.fpEnabled = true then [(Instr.fsw fd rs1 imm, 4)] else []) ++
      if s.fpEnabledD = true then [(Instr.fsd fd rs1 imm, 8)] else []) :
    ∃ v, exec l.1 s = s.store (s.readX rs1 + BitVec.ofInt 32 imm.toInt) l.2 v 4 := by
  rw [List.mem_append, List.mem_append, List.mem_ite_nil_right, List.mem_ite_nil_right, List.mem_singleton,
    List.mem_singleton] at h
  rcases h with (int | ⟨on, rfl⟩) | ⟨on, rfl⟩
  · obtain ⟨-, run⟩ := exec_stores (s := s) int
    exact ⟨_, run⟩
  · exact ⟨_, exec_fsw on⟩
  · exact ⟨_, exec_fsd on⟩

/-- Settles O48. -/
theorem deviceRegisters : Obligations.DeviceRegisters := by
  intro s aq rl rd rs1 rs2 fd imm a v wrote sources gives
  refine ⟨fun hm hp => ?_, fun hm hp => ?_, fun hu => ?_, fun hm hp h => ?_⟩
  · have word {r : DeviceReg} (u : State) (h : deviceReg a = some r) (e : s.writeDeviceReg v r = u) :
        wrote (.sw rs2 rs1 imm) u := e ▸ sw_deviceReg (v := v) hm hp h
    have byte {base : Word} {i k : Nat} (hi : i < 4096) (hk : k < 4) (hb : base.toNat = 0xE0801000 + k)
        (g : ClicSource → ClicSource)
        (hg : ∀ c : ClicSource, c.id = i → c.writeByte s.params s.freeCtr k (v.setWidth 8) = g c)
        (h : a = base + BitVec.ofNat 32 (4 * i)) : wrote (.sb rs2 rs1 imm) (sources i g) :=
      sb_sourceByte (v := v) hm hp (isSourceByte_of_eq hi hk hb h) g hg
    obtain ⟨low, high⟩ := replaceHalf_toNat s.clint.mtimecmp v
    refine ⟨fun h => word (r := .msip) _ (congrArg deviceReg h) rfl,
      fun h => word (r := .mtimecmpLo) _ (congrArg deviceReg h) (by rw [State.writeDeviceReg, low]),
      fun h => word (r := .mtimecmpHi) _ (congrArg deviceReg h) (by rw [State.writeDeviceReg, high]), ?_,
      fun h => word (r := .cliccfg) _ (congrArg deviceReg h) rfl,
      fun h => word (r := .mintthresh) _ (congrArg deviceReg h) rfl, fun i hi => ⟨?_, ?_, ?_, ?_, ?_⟩⟩
    · rintro (h | h | h)
      · exact word (r := .mtimeLo) _ (congrArg deviceReg h) rfl
      · exact word (r := .mtimeHi) _ (congrArg deviceReg h) rfl
      · exact word (r := .clicinfo) _ (congrArg deviceReg h) rfl
    · exact fun h set => byte hi (k := 0) (by decide) rfl _ (fun c _ => writeByte_setIp _ _ c v set) h
    · exact fun h clear => ⟨edgeSurvives s.freeCtr i,
        byte hi (k := 0) (by decide) rfl _ (fun c hc => hc ▸ writeByte_clearIp _ _ c v clear) h⟩
    · exact byte hi (k := 1) (by decide) rfl _ fun c _ => writeByte_ie _ _ c v
    · exact fun h => ⟨pendingAfterRetrigger s.freeCtr i,
        byte hi (k := 2) (by decide) rfl _ (fun c hc => hc ▸ writeByte_attr _ _ c v) h⟩
    · exact byte hi (k := 3) (by decide) rfl _ fun c _ => writeByte_ctl _ _ c v
  · have word {r : DeviceReg} {w : Word} (h : deviceReg a = some r) (e : s.readDeviceReg r = w) :
        gives (.lw rd rs1 imm) w := e ▸ lw_deviceReg hm hp h
    have byte {base : Word} {i k : Nat} {w : Word} (hi : i < 4096) (hk : k < 4) (hb : base.toNat = 0xE0801000 + k)
        (found : ∀ c, s.clic.sources.find? (·.id == i) = some c → (c.byte k).setWidth 32 = w)
        (absent : s.clic.sources.find? (·.id == i) = none → w = 0)
        (h : a = base + BitVec.ofNat 32 (4 * i)) : gives (.lbu rd rs1 imm) w :=
      lbu_sourceByte hm hp (isSourceByte_of_eq hi hk hb h) found absent
    obtain ⟨cmpLow, cmpHigh⟩ := halves_toNat s.clint.mtimecmp
    obtain ⟨timeLow, timeHigh⟩ := halves_toNat s.mtime
    refine ⟨fun h => word (r := .msip) (congrArg deviceReg h) ?_,
      fun h => word (r := .mtimecmpLo) (congrArg deviceReg h) cmpLow,
      fun h => word (r := .mtimecmpHi) (congrArg deviceReg h) cmpHigh,
      fun h => word (r := .mtimeLo) (congrArg deviceReg h) timeLow,
      fun h => word (r := .mtimeHi) (congrArg deviceReg h) timeHigh,
      fun h => word (r := .cliccfg) (congrArg deviceReg h) (cfgWord_toNat _),
      fun h wf => word (r := .clicinfo) (congrArg deviceReg h) (clicInfo_toNat wf),
      fun h => word (r := .mintthresh) (congrArg deviceReg h) (thresholdWord_toNat _), fun i hi => ?_⟩
    · rw [← bit_toWord, BitVec.setWidth_eq]; rfl
    · intro c
      refine ⟨byte hi (k := 0) (by decide) rfl (fun d e => ?_) fun e => ?_,
        byte hi (k := 1) (by decide) rfl (fun d e => ?_) fun e => ?_,
        byte hi (k := 2) (by decide) rfl (fun d e => ?_) fun e => ?_,
        byte hi (k := 3) (by decide) rfl (fun d e => ?_) fun e => ?_⟩
      all_goals simp only [c, e]
      · exact bit_toWord d.ip
      · exact bit_toWord d.ie
      · exact attrByte_toNat d
      · exact (BitVec.ofNat_toNat ..).symm
  · intro loads stores
    refine ⟨fun window => ⟨fun l hl align => ?_, fun l hl align => ?_⟩, fun window align => ⟨?_, fun i hi => ?_⟩⟩
    · obtain ⟨d, ext, run⟩ := exec_enabledLoads hl
      rw [run]
      exact load_userDevice hu window align
    · obtain ⟨w, run⟩ := exec_enabledStores hl
      rw [run]
      exact store_userDevice hu window align
    · exact loadReserved_userDevice hu window align
    · rcases List.mem_cons.mp hi with rfl | hi
      · exact storeConditional_userDevice hu window align
      · obtain ⟨op, run⟩ := exec_amos (s := s) hi
        rw [run]
        exact amo_userDevice hu window align
  · have window : inTcip a = true := by rw [h]; decide
    have align : a.toNat % 2 = 0 := by rw [h]; decide
    have undescribed : deviceSupports a 2 = false := by rw [h]; decide
    exact load_undescribed hm hp (by decide) align window undescribed

end Sys2Proof.Machine
end

section
/-! SUPPORT. The reset event (rules R740, R741): what a step with the reset input leaves of the state that the inputs found. -/

namespace Sys2Proof.Machine

/-- A reset request comes before everything else, also for a hart that is locked up or asleep (rule R610). -/
theorem step_eq_onReset {s : State} (hp : s.params.wf = true) (hr : s.sample.pins.reset = true) :
    step s = .next s.sample.onReset := by
  simp [step, State.cycle, State.afterSample, hp, hr]

/-- Reset invalidates the whole data cache, so that every dirty line may be lost (log 41). -/
theorem onReset_lostLines {s : State} (hm : s.mem.wf = true) (shape : s.dirtyShape = true) :
    s.lostLines s.onReset s.dirty := by
  have lost := discardLines_lostLines hm shape everyLine
  have every : s.dirty.filter everyLine = s.dirty := List.filter_eq_self.mpr fun _ _ => rfl
  rw [every] at lost
  exact lost

/-- Settles O10: sampling changes neither the parameters nor what memory and the data cache hold, so that the reset of the
sampled state is one of the state before the step. -/
theorem resetEventResets : Obligations.ResetEventResets := by
  rintro s _ hp hm shape rfl hr
  have params : s.sample.params = s.params := by rw [sample_frame]
  have mem : s.sample.mem = s.mem := by rw [sample_frame]
  have dirty : s.sample.dirty = s.dirty := by rw [sample_frame]
  refine ⟨s.sample.onReset, step_eq_onReset hp hr, ?_, ?_⟩
  · rw [← params]; rfl
  · have lost := onReset_lostLines (s := s.sample) (mem ▸ hm)
      (by rw [State.dirtyShape, params, dirty]; exact shape)
    rw [State.lostLines, mem, dirty] at lost
    exact lost

end Sys2Proof.Machine
end
